-- ==== Sys2Proof/Word.lean ====
section
/-!
DEFINITION. The word types of the Tusel and their plainest arithmetic: bytes, 32- and 64-bit words, and the
sparse map every numbered group of units is held in.
-/
namespace Sys2Proof

/-- A byte (R6: every multi-byte structure is little-endian). -/
abbrev Byte := BitVec 8

/-- A control register, or a word of a host structure. -/
abbrev Word64 := BitVec 64

/-- A step word or a floor command (R93, R191). -/
abbrev Word128 := BitVec 128

/-- A sparse map from unit numbers: keys strictly rising, no entry equal to the default of its reader. -/
abbrev Map (α : Type) := List (Nat × α)

end Sys2Proof
end

