-- ==== Sys2Proof/Syntax.lean ====
section
/-!
DEFINITION. The commands of the Tusel: one constructor per row of spec/opcode_table.json, with the operands that
name the unit acted on and whatever reaches the device from outside (a message, a reading, a pin).
-/
namespace Sys2Proof

/-- Global logical core number (R18). -/
abbrev CoreId := Fin 4096
/-- Global region number (R17). -/
abbrev RegionId := Fin 32
/-- Tower number, equal to its region's (R17). -/
abbrev TowerId := Fin 32
/-- Compute die, or quadrant (R17). -/
abbrev DieId := Fin 8
/-- Bank column of a tower (R20). -/
abbrev ColId := Fin 136
/-- Partition id (R235). -/
abbrev PartId := Fin 8
/-- Ring of a partition (R243). -/
abbrev RingId := Fin 64
/-- Narta port: 0 is A, 1 is B (R264). -/
abbrev HostPort := Fin 2
/-- Port id within a region (R123). -/
abbrev LocalPort := Fin 372
/-- Link selector of an OPT page (R234). -/
abbrev LinkSel := Fin 200
/-- RAIL instance (R376). -/
abbrev RailId := Fin 44
/-- Sensor number (R313). -/
abbrev SensorId := Fin 1680
/-- Control page index (R31, R303). -/
abbrev PageIdx := BitVec 16
/-- Whistle address: bits 13:9 region, 8:6 ring, 5:0 station (R143). -/
abbrev Station := BitVec 14

/-- The engines a step may go to (R38, R93). -/
inductive Engine where
  | move | colFeeder | rowFeeder | acc | drain | vec | sync
deriving DecidableEq, Repr

/-- A token as an access presents it: the port or join it was granted for, and its turn (R131, R137). -/
structure Token where
  port : Nat
  turn : Nat
deriving DecidableEq, Repr

/-- Who presents a unit at a shared port: a core of the region, or the tower's floor sequencer (R137). -/
inductive PortUser where
  | core (u : Fin 128)
  | floor
deriving DecidableEq, Repr

/-- A checker under self-test, with the unit it guards (Table — checker self-tests, R330): by its ENTRY word, or as a die or a Narta port,
which no ENTRY word names. -/
inductive Checker where
  | port (ent : BitVec 32)
  | vertical (ent : BitVec 32)
  | decoder (ent : BitVec 32)
  | secDed (ent : BitVec 32)
  | crc (ent : BitVec 32)
  | slotTable (ent : BitVec 32)
  | trunkTable (d : DieId)
  | narta (h : HostPort)
deriving DecidableEq, Repr

/-- One 64-byte unit at a shared port, with what it presents (R137). -/
structure UnitAccess where
  user  : PortUser
  step  : Nat
  tok   : Option Token
  write : Bool
deriving DecidableEq, Repr

/-- The fields of an optical frame beside its KIND, with the CRC it carries (R213). -/
structure OptFrame where
  nb      : BitVec 6
  seq     : BitVec 10
  ack     : BitVec 10
  nak     : Bool
  payload : List Byte
  crc     : BitVec 32
deriving DecidableEq, Repr

/-- What a regulator gives a READ_EOUT: the energy it has accumulated, in µJ, after up to two tries whose PEC failed; no acknowledge; or PEC
failures three times in a row (R408, R449). -/
inductive Eout where
  | energy (pecFails : Fin 3) (uj : Nat) | noAnswer | pecFails
deriving DecidableEq, Repr

/-- What a CRC window measured: the lane of the link with the lowest margin in it, and that margin in % of the nominal eye (R225, R234). -/
structure WeakLane where
  lane   : BitVec 9
  margin : BitVec 8
deriving DecidableEq, Repr

/-- What Measure finds at the two ends of a link: the margin, in % of the nominal eye, of every lane each end receives (R224, R227). -/
structure LinkEyes where
  near : List (BitVec 8)
  far  : List (BitVec 8)
deriving DecidableEq, Repr

/-- A control slot with the data frame that travels with it (R220). -/
structure BundleSlot where
  dkind : BitVec 2
  nu    : BitVec 2
  seq   : BitVec 8
  ack   : BitVec 8
  nak   : Bool
  mt0   : BitVec 4
  mt1   : BitVec 4
  word0 : BitVec 32
  word1 : BitVec 32
  data  : List Byte
  crc   : BitVec 32
deriving DecidableEq, Repr

/-- A Narta flit: header fields, the fifteen transaction slots, the link CRC, and whether its codeword decoded
(R267, R268). -/
structure Flit where
  seq   : BitVec 12
  ack   : BitVec 12
  nak   : Bool
  first : BitVec 4
  pcr   : BitVec 8
  ncr   : BitVec 8
  ccr   : BitVec 8
  slots : List Byte
  crc   : BitVec 64
  cwOk  : Bool
deriving DecidableEq, Repr

/-- A receiver of firmware-block messages (R325). -/
inductive Receiver where
  | steward (d : DieId)
  | towerBase (t : TowerId)
deriving DecidableEq, Repr

/-- The power-good inputs (R467). -/
inductive PgPin where
  | aux | mem | io | core
deriving DecidableEq, Repr

/-- The SRAM stores of Table — uncorrectable SRAM words (R415). -/
inductive SramStore where
  | stepMemory (n : CoreId)
  | scratch (n : CoreId)
  | accMemory (n : CoreId)
  | slice (r : RegionId) (s : Fin 32)
  | floorStore (t : TowerId)
  | blockBitmap (t : TowerId)
  | pageMap (t : TowerId)
  | housekeeping (t : TowerId)
  | steward (d : DieId) (k : Fin 2)
  | linkBuffer (r : RegionId) (link : LinkSel)
deriving DecidableEq, Repr

/-- The commands, in the table's order. -/
inductive Instr where
  /-- R100. A MOVE COPY step issues and copies scratch to scratch over the crossbar path without a port. -/
  | moveCopy (n : CoreId)
  /-- R100. A MOVE LOAD_T step issues and reads units of the core's own tower into scratch under its bank-column token. -/
  | loadT (n : CoreId)
  /-- R100. A MOVE STORE_T step issues and writes scratch units into the core's own tower under its token. -/
  | storeT (n : CoreId)
  /-- R100. A MOVE LOAD_X step issues and reads a shared slice into scratch under the slice port token. -/
  | moveLoadX (n : CoreId)
  /-- R100. A MOVE STORE_X step issues and writes scratch into a shared slice under the slice port token. -/
  | storeX (n : CoreId)
  /-- R128. A MOVE T_TO_X step issues and moves tower data to a slice through a crossbar tower port under a join token. -/
  | tToX (n : CoreId)
  /-- R128. A MOVE X_TO_T step issues and moves slice data to the tower through a crossbar tower port under a join token. -/
  | xToT (n : CoreId)
  /-- R214. A MOVE SEND_O step issues and sends scratch bytes as sequenced optical frames on peer channel to region PEER. -/
  | sendO (n : CoreId)
  /-- R104. A MOVE RECV_O step issues and receives the matched optical send into scratch. -/
  | recvO (n : CoreId)
  /-- R106. A MOVE FEED_T step issues and delivers tower bytes into elastic link 0 for direct streams. -/
  | feedT (n : CoreId)
  /-- R106. A MOVE FEED_O step issues and delivers a matched optical receive into elastic link 0. -/
  | feedO (n : CoreId)
  /-- R105. A MOVE GATHER_T step issues and moves tower rows chosen by an index list into scratch in list order. -/
  | gatherT (n : CoreId)
  /-- R105. A MOVE GATHER_X step issues and moves slice rows chosen by an index list into scratch in list order. -/
  | gatherX (n : CoreId)
  /-- R45. An ARRAY LOAD_N step loads a weight tile normally into the shadow weights with its masks. -/
  | loadN (n : CoreId)
  /-- R47. An ARRAY LOAD_X step loads a weight tile transposed into the shadow weights, with row shifts for unequal scales. -/
  | arrayLoadX (n : CoreId)
  /-- R51. An ARRAY STREAM step streams activation rows through the array and promotes the chunks into tile rows. -/
  | stream (n : CoreId)
  /-- R80. An ACC CLEAR step makes every enabled element of its tile rows empty with X cleared. -/
  | accClear (n : CoreId)
  /-- R110. An ACC DRAIN_V step sends tile rows in F32 through the drain lanes to the vector unit. -/
  | drainV (n : CoreId)
  /-- R85. An ACC DRAIN_S step converts tile rows to F32 or I32 and writes them and their flag words to scratch. -/
  | drainS (n : CoreId)
  /-- R89. An ACC SAVE step writes each element of its tile rows to scratch as a 12-byte record. -/
  | save (n : CoreId)
  /-- R90. An ACC RESTORE step writes saved records back into their elements unchanged. -/
  | restore (n : CoreId)
  /-- R90. An ACC MERGE step promotes saved records into their elements as contributions. -/
  | merge (n : CoreId)
  /-- R111. A VEC ADD step adds source rows lane by lane with round-to-nearest-even. -/
  | vecAdd (n : CoreId)
  /-- R111. A VEC SUB step subtracts source rows lane by lane. -/
  | vecSub (n : CoreId)
  /-- R111. A VEC MUL step multiplies source rows lane by lane. -/
  | vecMul (n : CoreId)
  /-- R111. A VEC FMA step computes a times b plus c with one rounding per lane. -/
  | fma (n : CoreId)
  /-- R111. A VEC MIN step returns the minimumNumber of two sources per lane. -/
  | vecMin (n : CoreId)
  /-- R111. A VEC MAX step returns the maximumNumber of two sources per lane. -/
  | vecMax (n : CoreId)
  /-- R111. A VEC CMPLT step writes 1.0 where a is below b and +0 otherwise. -/
  | cmplt (n : CoreId)
  /-- R111. A VEC CMPEQ step writes 1.0 where a equals b and +0 otherwise. -/
  | cmpeq (n : CoreId)
  /-- R114. A VEC CVT_TO step converts binary32 rows to a narrower format with saturation or infinity rules. -/
  | cvtTo (n : CoreId)
  /-- R114. A VEC CVT_FROM step converts rows of a narrow format exactly to binary32. -/
  | cvtFrom (n : CoreId)
  /-- R58. A VEC RCP step computes the correctly rounded reciprocal per lane. -/
  | rcp (n : CoreId)
  /-- R58. A VEC RSQRT step computes the correctly rounded reciprocal square root per lane. -/
  | rsqrt (n : CoreId)
  /-- R58. A VEC EXP2 step computes 2 to the power a per lane. -/
  | exp2 (n : CoreId)
  /-- R58. A VEC LOG2 step computes the base-2 logarithm per lane. -/
  | log2 (n : CoreId)
  /-- R111. A VEC ADD_FOLD step sums N rows in ascending row order into one row. -/
  | addFold (n : CoreId)
  /-- R111. A VEC MAX_FOLD step takes the maximum over N rows into one row. -/
  | maxFold (n : CoreId)
  /-- R111. A VEC MIN_FOLD step takes the minimum over N rows into one row. -/
  | minFold (n : CoreId)
  /-- R111. A VEC SETK step sets a vector constant to a binary32 value. -/
  | setk (n : CoreId)
  /-- R115. A SYNC TAKE step occupies a token holder to take the core's next token of an order list. -/
  | syncTake (n : CoreId)
  /-- R115. A SYNC RELEASE step waits for the token and earlier steps naming the holder, then passes the token on. -/
  | release (n : CoreId)
  /-- R115. A SYNC GIVE step waits for every earlier step and enough leashes, then sends k leashes to the far end. -/
  | give (n : CoreId)
  /-- R115. A SYNC WAIT step holds issue until the sync link holds at least k leashes. -/
  | syncWait (n : CoreId)
  /-- R117. A CTRL NOP step takes one issue cycle and does nothing. -/
  | ctrlNop (n : CoreId)
  /-- R118. A CTRL LOOP step pushes a counted loop level onto the loop stack. -/
  | loop (n : CoreId)
  /-- R119. A CTRL BRANCH step moves issue to its target when its loop condition is true. -/
  | branch (n : CoreId)
  /-- R120. A CTRL PHASE step sets CORE_STAT.PHASE, which the power manager uses to pick the preferred point. -/
  | phase (n : CoreId)
  /-- R117. A CTRL SETA step sets an address register at issue. -/
  | seta (n : CoreId)
  /-- R117. A CTRL ADDA step adds a signed addend to an address register at issue. -/
  | adda (n : CoreId)
  /-- R117. A CTRL SETTLE step holds issue until every engine has completed every issued step. -/
  | settle (n : CoreId)
  /-- R120. A CTRL END step settles the core, checks holders and drained rows, and completes the program. -/
  | ctrlEnd (n : CoreId)
  /-- R93. A step with a reserved class or operation reaches issue and faults the core with code 4. -/
  | reservedStep (n : CoreId)
  /-- R96. An engine completes an issued step, freeing bank claims and marks and letting waiting steps, gives and releases proceed. -/
  | stepComplete (n : CoreId) (e : Engine)
  /-- R64. HEEL_REQ stops issue at the next step boundary and enters heel when every engine has finished. -/
  | coreHeelReq (n : CoreId)
  /-- R64. RESUME leaves heel and continues issue on a core brought to heel by HEEL_REQ. -/
  | coreResume (n : CoreId)
  /-- R131. A token grant message reaches a core and parks there until a TAKE takes it. -/
  | tokenGrant (r : RegionId) (p : LocalPort) (user : Fin 128) (turn : BitVec 14) (crcOk : Bool)
  /-- R132. A token release message reaches its port, which ends the turn and advances along its list. -/
  | tokenRelease (r : RegionId) (p : LocalPort) (user : Fin 128) (turn : BitVec 14) (crcOk : Bool)
  /-- R133. An acknowledge message of a grant or release reaches its sender. -/
  | tokenAck (r : RegionId) (p : LocalPort) (turn : BitVec 14) (crcOk : Bool)
  /-- R133. A token message with no acknowledge after 64 A-cycles is resent, up to 8 times. -/
  | tokenResend (r : RegionId) (p : LocalPort)
  /-- R136. A token that waits in one place longer than ORD_WDOG.LIMIT raises a token-stall bark. -/
  | tokenStall (r : RegionId) (p : LocalPort)
  /-- R137. A 64-byte unit reaches a shared port and its conflict detector checks it against the token. -/
  | portAccess (r : RegionId) (p : LocalPort) (a : UnitAccess) (clash : Option UnitAccess)
  /-- R127. A FETCH turn ends after LEN + 1 M-cycles or when no host access or background work remains. -/
  | fetchTurnEnd (t : TowerId) (b : ColId)
  /-- R144. A leash message arrives and adds its count to the sync link at this end, releasing waiting steps. -/
  | leash (dst src : CoreId) (srcLink : Fin 16) (count : BitVec 8) (seq : BitVec 12) (crcOk : Bool)
  /-- R143. A whistle acknowledge message reaches the source of a message that requires delivery. -/
  | whistleAck (src dst : Station) (seq : BitVec 12) (crcOk : Bool)
  /-- R143. A whistle message with no acknowledge after 1,024 C-cycles is resent, up to 8 times. -/
  | whistleResend (src dst : Station) (seq : BitVec 12)
  /-- R147. CHECK runs the table checker on the pending slot table and sets WHS_CHECK.RESULT. -/
  | whsCheck (w : Fin 33)
  /-- R148. TAKE schedules a checked pending slot table for the next frame boundary, or completes with NOT_NOW. -/
  | whsTake (w : Fin 33)
  /-- R148. At the frame boundary the ring changes to the taken slot table. -/
  | slotTableSwitch (w : Fin 33) (ring : Fin 8)
  /-- R174. A host piece of up to 256 bytes is served in a FETCH turn of its bank column after the access checks. -/
  | hostPiece (t : TowerId) (b : ColId)
  /-- R167. CLEAR advances the page's generation, clears WRITTEN and makes the page FRESH, or rebuilds a RETIRED page. -/
  | twrClear (t : TowerId) (k : BitVec 15)
  /-- R181. SET_ATTR writes the permissions and owning partition of a page. -/
  | setAttr (t : TowerId) (k : BitVec 15) (perm : BitVec 4) (part : BitVec 3)
  /-- R181. SWEEP starts a sweep of the page at once, or completes OK when one runs. -/
  | twrSweep (t : TowerId) (k : BitVec 15)
  /-- R178. MIGRATE copies a FRESH or VALID page to a new frame and retires the old one. -/
  | migrate (t : TowerId) (k : BitVec 15)
  /-- R182. LAT_RESTART sets HOST_LAT_MAX to 0 and records again from the next host read. -/
  | latRestart (t : TowerId)
  /-- R169. A sweep reads one block and rewrites its stale words as zero in time left by host pieces. -/
  | sweepBlock (t : TowerId)
  /-- R171. A refresh tick of the current band raises each bank column's refresh debt by 1. -/
  | refreshTick (t : TowerId)
  /-- R171. A column at debt 8 stops at the next M-cycle and performs a forced refresh operation. -/
  | refreshForced (t : TowerId) (b : ColId)
  /-- R171. A column at debt 4 or more refreshes at the next step, unit or host-access boundary. -/
  | refreshStretch (t : TowerId) (b : ColId)
  /-- R193. A floor MV_ROW command multiplies weight rows in every selected column by broadcast vectors into lane accumulators. -/
  | mvRow (t : TowerId)
  /-- R196. A floor REDUCE command merges lane accumulators of every selected column into column DCOL. -/
  | reduce (t : TowerId)
  /-- R194. A floor ST_ACC command writes lane accumulators in a drain format with flag words to its D run. -/
  | stAcc (t : TowerId)
  /-- R197. A floor EW_ADD command adds the S run into the D run element by element. -/
  | ewAdd (t : TowerId)
  /-- R197. A floor EW_MUL command multiplies the D run by the S run element by element. -/
  | ewMul (t : TowerId)
  /-- R197. A floor FILL command writes a 32-byte pattern over its D run. -/
  | fill (t : TowerId)
  /-- R197. A floor COPY command copies its S run to its D run in each selected column. -/
  | floorCopy (t : TowerId)
  /-- R198. A floor CLEAR command clears the pages of a slot in each selected column. -/
  | floorClear (t : TowerId)
  /-- R199. A floor GATHER command copies indexed rows of the S run to the D run in each selected column. -/
  | floorGather (t : TowerId)
  /-- R195. A floor VLOAD command copies each selected column's S run into work SRAM. -/
  | vload (t : TowerId)
  /-- R195. A floor VSTORE command writes work SRAM bytes to each selected column's D run, split or broadcast. -/
  | vstore (t : TowerId)
  /-- R200. A floor HOLE command is a compiled refresh hole that refreshes where debt is at least -1. -/
  | hole (t : TowerId)
  /-- R188. A floor TURN command releases held FLOOR tokens and waits for the next FLOOR token of every masked column. -/
  | turn (t : TowerId)
  /-- R187. A floor END command completes the sequence and releases every held token. -/
  | floorEnd (t : TowerId)
  /-- R207. HEEL_REQ stops the floor sequencer before its next command, keeping its tokens. -/
  | flrHeelReq (t : TowerId)
  /-- R207. RESUME leaves heel and continues the floor sequence. -/
  | flrResume (t : TowerId)
  /-- R204. A 125 ns sub-window of the activation cap ends and the count window moves on. -/
  | capSubwindow (t : TowerId)
  /-- R215. A DATA frame arrives on a peer channel and is accepted, discarded or NAKed by CRC and SEQ. -/
  | optDataFrame (i j : RegionId) (f : OptFrame)
  /-- R214. A LAST frame arrives and ends the send at the receive step, which checks its length. -/
  | optLastFrame (i j : RegionId) (f : OptFrame)
  /-- R215. An IDLE frame arrives carrying ACK and NAK and revealing lost frames by its SEQ. -/
  | optIdleFrame (i j : RegionId) (f : OptFrame)
  /-- R214. A FENCED frame arrives and the matched receive fails with FENCED. -/
  | optFencedFrame (i j : RegionId) (f : OptFrame)
  /-- R214. A REFUSED frame arrives and the matched receive fails with SCHEDULE. -/
  | optRefusedFrame (i j : RegionId) (f : OptFrame)
  /-- R222. A control slot with its data frame arrives on a vertical bundle and is accepted or NAKed. -/
  | bundleSlot (t : TowerId) (b : ColId) (up : Bool) (f : BundleSlot)
  /-- R225. A 1 ms CRC window ends, and a link over CRC_LIM for three windows declares a lane failed. -/
  | crcWindow (r : RegionId) (link : LinkSel) (weak : WeakLane)
  /-- R224. A BYPASS training word arrives naming the position of a group that needs bypass. -/
  | trainBypass (r : RegionId) (link : LinkSel) (far : Bool) (group : BitVec 3) (pos : BitVec 6)
  /-- R229. An ADV training word arrives with the far end's usable halves. -/
  | trainAdv (r : RegionId) (link : LinkSel) (far : Bool) (halves : BitVec 2) (joint : Bool) (tid : BitVec 8)
  /-- R229. A CONF training word arrives and, matching, sets AGREED and brings the link up. -/
  | trainConf (r : RegionId) (link : LinkSel) (far : Bool) (halves : BitVec 2) (joint : Bool) (tid : BitVec 8)
  /-- R210. A comb laser fails and firmware raises the other to full bias, or all channels are lost. -/
  | combFail (c : Fin 2)
  /-- R227. RETRAIN trains the selected link with saved settings. -/
  | retrain (r : RegionId)
  /-- R230. JOINT_TRAIN trains both ends of the selected link together, every phase fresh. -/
  | jointTrain (r : RegionId)
  /-- R233. LOOP_SELF loops PRBS31 frames from an outbound channel back into the region's own detectors. -/
  | loopSelf (r : RegionId)
  /-- R233. LOOP_FAR makes the far end return what it receives and counts mismatches. -/
  | loopFar (r : RegionId)
  /-- R233. LOOP_END ends a running loop-back mode. -/
  | loopEnd (r : RegionId)
  /-- R241. LOAD reads and checks a plan image and writes its programs, lists and placements into the partition. -/
  | planLoad (p : PartId)
  /-- R242. UNLOAD fails live records, heels units, resets lists and releases the region set. -/
  | planUnload (p : PartId)
  /-- R260. A RING_CFG write that sets ENABLE restarts the ring and first writes pending stream mirrors. -/
  | ringEnable (p : PartId) (cfg : Word64)
  /-- R252. ABORT fails with ABORTED every descriptor of the ring that has not started. -/
  | ringAbort (p : PartId)
  /-- R244. A write of the SQ_TAIL doorbell gives the device new descriptors to read. -/
  | sqTail (p : PartId) (q : RingId) (v : BitVec 16)
  /-- R249. A write of the CQ_HEAD doorbell frees CQ places and lets held completions be written. -/
  | cqHead (p : PartId) (q : RingId) (v : BitVec 16)
  /-- R240. A RUN descriptor starts entry e on its cores and floor sequencers with the given arguments. -/
  | run (p : PartId) (q : RingId)
  /-- R259. A BATCH_STEP descriptor checks its batch table, marks records BUSY and starts its entry. -/
  | batchStep (p : PartId) (q : RingId)
  /-- R256. A STREAM_OPEN descriptor writes a FREE record as OPEN with its fields. -/
  | streamOpen (p : PartId) (q : RingId)
  /-- R257. A STREAM_ABORT descriptor fails an OPEN or ACTIVE record with ABORTED, waiting on BUSY. -/
  | streamAbort (p : PartId) (q : RingId)
  /-- R257. A STREAM_RELEASE descriptor frees an ENDED or FAILED record, optionally clearing its KV pages. -/
  | streamRelease (p : PartId) (q : RingId)
  /-- R245. A NOP descriptor completes with no effect. -/
  | nop (p : PartId) (q : RingId)
  /-- R268. A TLP flit arrives on a Narta port, is checked and accepted or NAKed, and its ACK and credits are taken. -/
  | flitTlp (h : HostPort) (f : Flit)
  /-- R267. An IDLE flit arrives carrying ACK, NAK and credit returns. -/
  | flitIdle (h : HostPort) (f : Flit)
  /-- R278. A host MWR is performed as host accesses of its bank-column pieces in arrival order. -/
  | mwr (h : HostPort)
  /-- R278. A host MRD is read piece by piece and answered with CPLs, or flushes when LEN is 0. -/
  | mrd (h : HostPort)
  /-- R279. A host CRD reads a control register over the whistle network and returns one CPL. -/
  | crd (h : HostPort)
  /-- R279. A host CWR writes a control register after earlier MWRs are performed and returns one CPL. -/
  | cwr (h : HostPort)
  /-- R281. A completion of a device read arrives and delivers its data, freeing the tag at LAST. -/
  | cpl (h : HostPort)
  /-- R286. A SQ_DOORBELL message acts as a write to SQ_TAIL of the named ring. -/
  | sqDoorbell (h : HostPort)
  /-- R286. A CQ_DOORBELL message acts as a write to CQ_HEAD of the named ring. -/
  | cqDoorbell (h : HostPort)
  /-- R281. A device MRD with no LAST completion within CPL_TIMEOUT frees its tag and fails its item with LINK. -/
  | cplTimeout (h : HostPort) (tag : BitVec 12)
  /-- R275. The receiver finds no valid codeword for 2 us while up, and the port fails. -/
  | nartaNoCodeword (h : HostPort)
  /-- R275. Every 100 ms a failed port with signal restarts fresh training. -/
  | portRetry (h : HostPort) (signal : Bool)
  /-- R275. A Narta training or width retrain that does not complete in its time fails the port. -/
  | trainingTimeout (h : HostPort)
  /-- R274. A 1 ms window of corrected symbols ends, and a lane over LANE_LIM three times is failed with a width retrain. -/
  | laneWindow (h : HostPort) (corrected : List Nat) (cwUncorr : Nat)
  /-- R270. A LANE training record is accepted and the lane map is set straight or reversed. -/
  | nartaLane (h : HostPort) (record : Word64) (lane : BitVec 4)
  /-- R270. An EQ training record is accepted and transmitter presets are chosen. -/
  | nartaEq (h : HostPort) (record : Word64)
  /-- R273. An ADV training record is accepted, restarting fresh when FULL is set and this end did not train fresh. -/
  | nartaAdv (h : HostPort) (record : Word64) (usable : BitVec 16)
  /-- R272. A CONF training record is accepted and, matching, completes the Agree phase at the chosen width. -/
  | nartaConf (h : HostPort) (record : Word64)
  /-- R270. A START training record is accepted, credits are advertised and flits begin. -/
  | nartaStart (h : HostPort) (record : Word64)
  /-- R270. FULL_TRAIN trains the port fresh. -/
  | fullTrain (h : HostPort)
  /-- R309. DISABLE holds a port down, failing it under failover when the other port is up. -/
  | hlkDisable (h : HostPort)
  /-- R275. ENABLE releases a port held down by DISABLE. -/
  | hlkEnable (h : HostPort)
  /-- R289. A write of HLK_CTL changes a home or the system port after a flush on the old port. -/
  | hlkCtl (home : BitVec 8) (sysPort : HostPort)
  /-- R298. A write to PAGE_GUARD unlocks the page for 1,024 accesses or locks it. -/
  | pageGuard (pg : PageIdx) (key : Word64)
  /-- R300. A write to a register with no behaviour of its own is checked for reserved codes and state and stored. -/
  | registerWrite (pg : PageIdx) (off : BitVec 12) (v : Word64)
  /-- R306. A write of EVT_HEAD frees event ring places and lets queued barks be written. -/
  | evtHead (v : BitVec 16)
  /-- R314. A write of RCPT_HEAD frees receipt ring places and lets held entries be written. -/
  | rcptHead (v : BitVec 16)
  /-- R307. WARM_REQ requests a package warm reset. -/
  | warmReq
  /-- R316. A write to NOTE_TIME records a calendar note with the lead die's stamp. -/
  | noteTime (utc : Word64)
  /-- R429. A calendar note becomes durable in flash and NOTE_IDX names it. -/
  | noteDurable
  /-- R444. ATTEST builds a report, signs it with the identity key and writes it to ATT_ADDR. -/
  | attest
  /-- R444. The RSA engine completes the report signature and the report is written. -/
  | reportSigned
  /-- R441. ADVANCE burns anti-rollback steps on every up die to the running image's level. -/
  | advance
  /-- R313. ALERT_ACK deasserts ALERT_N until a new cause asserts it. -/
  | alertAck
  /-- R399. REBASE takes a new heat-path baseline when every up die has 16 samples. -/
  | rebase
  /-- R317. With cold reset deasserted, power-good asserted and the reference present, each die leaves reset and runs its boot ROM. -/
  | deviceStart
  /-- R319. At 20 ms the die checks end and each healthy die sends READY to every other die. -/
  | dieChecks (d : DieId) (passed : BitVec 8)
  /-- R321. A READY steward message from another healthy die is received. -/
  | ready (src dst : DieId)
  /-- R321. At 40 ms each die closes its set S and the election rounds begin. -/
  | electionClose (d : DieId)
  /-- R321. A LEAD message from a candidate is received and accepted first or refused. -/
  | lead (src dst : DieId)
  /-- R321. A REFUSE message is received and the candidate withdraws, sending ACCEPT. -/
  | refuse (src dst named : DieId)
  /-- R321. An ACCEPT message reaches the named die. -/
  | accept (src dst : DieId)
  /-- R321. A 20 ms election round ends, electing a lead or removing a silent candidate. -/
  | electionRoundEnd
  /-- R322. The lead's acting steward fails and the other steward or another die takes the lead. -/
  | stewardFail (d : DieId) (k : Fin 2)
  /-- R323. The lead reads and checks an image from the next source and runs the first acceptable one. -/
  | firmwareSelect
  /-- R324. LOAD_HOST reads the host image by device reads and checks it. -/
  | loadHost
  /-- R326. WRITE_SLOT writes a checked host image into a flash slot and reads it back. -/
  | writeSlot (slot : Fin 2)
  /-- R325. A firmware-block message reaches its receiver, which checks the section digest. -/
  | firmwareBlock (rcv : Receiver) (sec : Fin 32) (data : List Byte)
  /-- R330. Each checker is driven with injected patterns and a failing checker makes its unit bad. -/
  | checkerSelfTest (c : Checker) (pass : Bool)
  /-- R333. A known-answer run completes and a failed run makes its unit bad. -/
  | knownAnswerRun (ent : BitVec 32) (pass : Bool)
  /-- R341. The map build places logical cores, maps pages, computes slot tables and fills the status pages. -/
  | mapBuild
  /-- R347. RUN repeats memory tests and known-answer runs on a region outside any region set. -/
  | katRun (r : RegionId) (failed : List (BitVec 32))
  /-- R346. KENL_ADD records a host kennel entry with cause 8. -/
  | kenlAdd (ent : BitVec 32)
  /-- R357. RST_XCMD CORE resets one logical core's site. -/
  | rstCore (target : BitVec 12)
  /-- R357. RST_XCMD PACK resets every site of a pack and restarts its pack ring. -/
  | rstPack (target : BitVec 12)
  /-- R359. RST_XCMD TOWER runs a tower reset through hold-off, drain, fail, reset and retrain. -/
  | rstTower (target : BitVec 12)
  /-- R361. After retraining, traffic resumes once both ends agree on leashes, windows and tokens. -/
  | towerResetResume (t : TowerId) (disagree : List ColId)
  /-- R363. RST_CMD PARTITION stops, drains and restores every unit of the region set and returns it to LOADED. -/
  | rstPartition (p : PartId)
  /-- R365. RST_CMD WARM drains the package and restarts every die. -/
  | rstWarm
  /-- R365. A completion with no CQ place within 1 s of a warm drain is sent as bark 0x0E02. -/
  | warmDrainTimeout (p : PartId) (q : RingId)
  /-- R366. RST_XCMD COLD drains the package and then performs a package cold reset. -/
  | rstCold
  /-- R351. The firmware watchdog expires and starts a package warm reset. -/
  | firmwareWatchdog
  /-- R367. RGN_XCMD MUZZLE muzzles a logical core of the region and holds its number empty. -/
  | muzzle (r : RegionId) (user : BitVec 7)
  /-- R26. A tower's clock bond fails, and with both failed the region fails after start. -/
  | clockBondFail (t : TowerId) (bond : Fin 2)
  /-- R471. Assertion of COLD_RST_N for 1 us or more starts a package cold reset. -/
  | coldRstN (pulse : Nat)
  /-- R317. A power-good input deasserted for 1 us or more starts a package cold reset. -/
  | powerGoodFall (pin : PgPin) (pulse : Nat)
  /-- R467. Assertion of PG_AUX latches the SMBus address straps. -/
  | pgAux (addr1 addr0 : Bool)
  /-- R470. No reference edge for 1 us while PG_CORE is asserted acts as a cold reset. -/
  | refclkLoss
  /-- R384. Every 2 us each rail's current is estimated and swallow demands and levels are updated. -/
  | currentEstimate (d : DieId)
  /-- R386. After 100 us over the limit at L_max the limiter steps the quadrant one point slower. -/
  | limiterStepDown (d : DieId)
  /-- R386. After 1 ms at level 0 with headroom the limiter steps one point back towards P. -/
  | limiterStepUp (d : DieId)
  /-- R387. After 1 ms over the limit at the slowest usable point overload protection steps one point slower. -/
  | protectionStep (d : DieId)
  /-- R387. After 10 ms below 90 % protection releases the quadrant by one point. -/
  | protectionRelease (d : DieId)
  /-- R378. An unlimited rail's estimate over its limit for 100 us raises bark 0x2002. -/
  | unlimitedRailOver (rail : RailId)
  /-- R449. Every 100 ms regulator energy is read and booked to the accounts, and package power is checked. -/
  | reconciliation (eout : List Eout)
  /-- R388. After 1 s below 97 % of POWER_W the power ceiling moves back one point. -/
  | powerCeilRelease
  /-- R382. Every 20 ms the quadrant moves its ramp ceiling by the temperature rise. -/
  | rampUpdate (d : DieId)
  /-- R383. 100 us after a new VOUT_COMMAND the device reads STATUS_WORD and takes the faster ramp ceiling. -/
  | voltageConfirm (d : DieId) (confirmed : Bool)
  /-- R383. The root PLL finishes slewing to the new point's frequency. -/
  | slewEnd (d : DieId)
  /-- R381. A quadrant with no step issued for 1 ms and floors in heel takes the target OP6. -/
  | quadrantIdle (d : DieId)
  /-- R380. Hourly, path monitors are checked and the ageing guard or ceiling is stepped. -/
  | ageingCheck (d : DieId) (slacks : List (Int × Int))
  /-- R390. Every 50 us every sensor is converted and die temperatures, tiers and thermal responses are evaluated. -/
  | sensorConversion (readings : List (Option Int))
  /-- R393. Every 1 ms each tower updates its thermal model and governing temperature. -/
  | thermalModelUpdate (t : TowerId)
  /-- R391. Every 1 ms each die estimates each hot spot from its activity and grid sensors. -/
  | hotSpotModel (d : DieId)
  /-- R391. A twin difference above 8 degrees for 10 s marks the further sensor suspect. -/
  | sensorSuspect (d : DieId) (h : Fin 8)
  /-- R392. A sensor with no valid conversion for 1 ms is failed and excluded. -/
  | sensorFail (n : SensorId)
  /-- R394. A layer estimate above its sensors by 6 degrees for 1 s raises a hidden-heat bark and ALERT_N. -/
  | hiddenHeat (t : TowerId) (layer : Fin 16)
  /-- R395. Every 10 ms at or above 95 degrees the die's thermal ceiling moves one point slower. -/
  | thermalCeilStep (d : DieId)
  /-- R395. Every 100 ms below 92 degrees the thermal ceiling is released by one point. -/
  | thermalCeilRelease (d : DieId)
  /-- R398. A hot-spot comparator at 115 degrees asserts THERMTRIP_N and stops the gated clocks. -/
  | hardwareTrip (d : DieId) (h : Fin 8) (reading : Int)
  /-- R399. After a power step held for 1 s a die takes a heat-path sample and the coolant index acts. -/
  | heatPathSample (d : DieId) (dTemp dPower : Int)
  /-- R414. Every LEAK_S seconds each leaky bucket's LEVEL falls by 1. -/
  | bucketLeak
  /-- R413. Hourly each SRAM controller reads every word in idle cycles and corrects in place. -/
  | sramScrub (st : SramStore) (words : List (BitVec 32)) (uncorrectable : Bool)
  /-- R417. A patrol scrubber pass starts when the previous one ends. -/
  | scrubPass (t : TowerId) (margins : List (BitVec 3))
  /-- R418. The scrubber reads one block and writes back corrected and stale words in spare bank-bus time. -/
  | scrubBlock (t : TowerId)
  /-- R418. A pass more than 1 hour behind pace sets BEHIND and takes 16 M-cycles of each FETCH turn. -/
  | scrubBehind (t : TowerId)
  /-- R420. Once per powered day and at each start every ageing indicator is sampled and predicted. -/
  | ageingSample (slacks : List Int) (eyeA eyeB : List (BitVec 8))
  /-- R425. Every 60 s the summary and thermal-cycle records are written to the life log. -/
  | lifeSummary
  /-- R456. ROOT_MS after its first receipt the open batch closes. -/
  | batchTimeout
  /-- R458. The metering key signs a closed batch's root and its root and SIG entries enter the receipt ring. -/
  | rootSigned
  /-- R437. The Hash_DRBG is reseeded from the health-tested entropy source. -/
  | rngReseed (d : DieId) (health : BitVec 2)
  /-- R476. SET_ADDR starts a read of the named register for the SMBus target. -/
  | smbSetAddr (pg : BitVec 16) (off : BitVec 16) (pecOk : Bool)
  /-- R476. READ returns the status and the value last read. -/
  | smbRead (pecOk : Bool)
  /-- R476. STATUS returns the status that READ would return. -/
  | smbStatus (pecOk : Bool)
  /-- R475. With SCL held low for 25 ms the target releases the bus. -/
  | smbTimeout
  /-- R478. JTAG EXTEST drives the boundary scan cells of the sideband pins. -/
  | extest (cells : BitVec 20)
  /-- R478. JTAG SAMPLE/PRELOAD samples or preloads the boundary scan register. -/
  | samplePreload (sampled preload : BitVec 20)
  /-- R478. JTAG IDCODE selects the 32-bit identification register. -/
  | idcode
  /-- R478. JTAG DIE_SEL selects a die or the optical base. -/
  | dieSel (sel : BitVec 4)
  /-- R479. JTAG PAGE_READ starts a page read at Update-DR and captures its result later. -/
  | jtagPageRead (pg : BitVec 16) (off : BitVec 12)
  /-- R479. JTAG STANDALONE enters the stand-alone test mode on the selected die and removes it from service. -/
  | standalone (bit : Bool)
  /-- R478. JTAG BYPASS selects the 1-bit bypass register. -/
  | bypass (code : BitVec 8)
  /-- R479. LOCK makes the die instructions act as BYPASS until the next package cold reset. -/
  | jtagLock
  /-- R190. A floor command makes its last bank-bus access and ends its tail, so the commands that wait on it may start. -/
  | floorCmdComplete (t : TowerId)
  /-- R332. The SRAM march and the frame test of a package cold start complete and make failing frames and stores bad. -/
  | startUpTest (failed : List (BitVec 32))
  /-- R227. In the Detect phase of a bundle or peer channel training, both ends lock on PRBS31 or on the comb line, and Centre and Measure may run. -/
  | linkDetectLock (r : RegionId) (link : LinkSel) (eyes : LinkEyes) (centre : List (BitVec 16))
  /-- R231. A bundle or peer channel training that does not complete within its time fails and the link is lost. -/
  | linkTrainingTimeout (r : RegionId) (link : LinkSel)
  /-- R270. In the Detect phase of a Narta training, the receiver locks on PRBS31 and corrects lane polarity. -/
  | nartaDetectLock (h : HostPort) (inverted : BitVec 16)
  /-- R458. A closed receipt batch that has waited 100 ms for the engine raises bark 0x0603 and counts in BATCH_WAITS. -/
  | closedBatchWait
  /-- R478. Assertion of TRST_N puts the JTAG port into Test-Logic-Reset and selects IDCODE. -/
  | trstN
deriving DecidableEq, Repr

end Sys2Proof
end

