-- ==== Sys2Proof/Decode.lean ====
section
/-!
DEFINITION. Commands as words. The table gives no row of this block any bits, so no word spells a command.
-/
namespace Sys2Proof

/-- The command that a word of `nbits` bits spells: none. -/
def decodeTableWord (_nbits _w : Nat) : Option Instr := none

end Sys2Proof
end

