-- ==== Sys2Proof/Machine/RegTable.lean ====
section
/-!
DEFINITION. The register maps of the control pages, transcribed from the register tables of the spec: one `Fld` per
field that is not reserved, named as the manual names it (register, then field), under the page type that holds it.
-/
namespace Sys2Proof.Machine

/-- Access codes (R299). -/
inductive Acc where
  | rw | ro | w1c | w1s | wo
deriving DecidableEq, Repr

/-- One field of a page's register table: first offset, the distance and number of its repeats, lowest bit, width,
access code, and reset value where the table states a number. -/
structure Fld where
  off : Nat
  stride : Nat
  cnt : Nat
  lo : Nat
  w : Nat
  acc : Acc
  reset : Nat
deriving DecidableEq, Repr

/-- Repeat `i` of an arrayed field. Tables of bytes and half-words pack several repeats into one register. -/
def Fld.at (f : Fld) (i : Nat) : Fld :=
  let a := f.off + f.stride * i
  { f with off := a / 8 * 8, lo := f.lo + 8 * (a % 8), cnt := 1, stride := 0 }

/-! Page type PKG (R307). -/
def PKG.PKG_CTL_WARM_REQ : Fld := ⟨0x040, 0, 1, 0, 1, .w1s, 0⟩
def PKG.PKG_SCRATCH : Fld := ⟨0x048, 0, 1, 0, 64, .rw, 0⟩
def PKG.PKG_INFO_PART : Fld := ⟨0x100, 0, 1, 32, 16, .ro, 0⟩
def PKG.PKG_INFO_REV : Fld := ⟨0x100, 0, 1, 24, 8, .ro, 0⟩
def PKG.PKG_INFO_DIES_UP : Fld := ⟨0x100, 0, 1, 16, 8, .ro, 0⟩
def PKG.PKG_INFO_LEAD : Fld := ⟨0x100, 0, 1, 13, 3, .ro, 0⟩
def PKG.PKG_INFO_PSTATE : Fld := ⟨0x100, 0, 1, 0, 4, .ro, 0⟩
def PKG.PKG_LIMITS_POWER_W : Fld := ⟨0x108, 0, 1, 32, 16, .ro, 0⟩
def PKG.PKG_LIMITS_ACLK_MAX : Fld := ⟨0x108, 0, 1, 6, 10, .ro, 0⟩
def PKG.PKG_LIMITS_CORES_PER_PACK : Fld := ⟨0x108, 0, 1, 0, 6, .ro, 0⟩
def PKG.PKG_UNITS_REGIONS_UP : Fld := ⟨0x110, 0, 1, 32, 32, .ro, 0⟩
def PKG.PKG_UNITS_LOGICAL_CORES : Fld := ⟨0x110, 0, 1, 0, 13, .ro, 0⟩
def PKG.PKG_MEM_MEM_GIB : Fld := ⟨0x118, 0, 1, 48, 16, .ro, 0⟩
def PKG.PKG_MEM_PAGES_UNBACKED : Fld := ⟨0x118, 0, 1, 0, 21, .ro, 0⟩
def PKG.WARM_RESETS : Fld := ⟨0x808, 0, 1, 0, 64, .ro, 0⟩

/-! Page type PWR (R312). -/
def PWR.PWR_MENU : Fld := ⟨0x040, 0, 1, 0, 64, .rw, 0⟩
def PWR.PWR_STAT_PKG_W : Fld := ⟨0x100, 0, 1, 32, 16, .ro, 0⟩
def PWR.PWR_STAT_LIMIT_W : Fld := ⟨0x100, 0, 1, 16, 16, .ro, 0⟩
def PWR.PWR_DIE_PREF : Fld := ⟨0x200, 8, 8, 0, 64, .rw, 0x8888888888888888⟩
def PWR.PHASE_MARKS : Fld := ⟨0x808, 0, 1, 0, 64, .ro, 0⟩

/-! Page type THM (R313). -/
def THM.THM_CTL_ALERT_ACK : Fld := ⟨0x040, 0, 1, 0, 1, .w1s, 0⟩
def THM.THM_STAT_DIE_MAX : Fld := ⟨0x100, 0, 1, 56, 8, .ro, 0⟩
def THM.THM_STAT_TWR_MAX : Fld := ⟨0x100, 0, 1, 48, 8, .ro, 0⟩
def THM.THM_STAT_OB_MAX : Fld := ⟨0x100, 0, 1, 40, 8, .ro, 0⟩
def THM.THM_STAT_BAND_MAX : Fld := ⟨0x100, 0, 1, 34, 2, .ro, 0⟩
def THM.THM_STAT_TIER_MAX : Fld := ⟨0x100, 0, 1, 32, 2, .ro, 0⟩
def THM.THM_STAT_CEIL : Fld := ⟨0x100, 0, 1, 24, 3, .ro, 0⟩
def THM.THM_STAT_ALERT : Fld := ⟨0x100, 0, 1, 7, 1, .ro, 0⟩
def THM.THM_STAT_TRIPPED : Fld := ⟨0x100, 0, 1, 6, 1, .ro, 0⟩
def THM.THM_STAT_DRAINED : Fld := ⟨0x100, 0, 1, 5, 1, .ro, 0⟩
def THM.THM_STAT_COOL_WARN : Fld := ⟨0x100, 0, 1, 4, 1, .ro, 0⟩
def THM.THM_STAT_COOL_LIMIT : Fld := ⟨0x100, 0, 1, 3, 1, .ro, 0⟩
def THM.HEAT_INDEX : Fld := ⟨0x108, 0, 1, 0, 16, .ro, 0⟩
def THM.SENS_SUSPECT : Fld := ⟨0x110, 0, 1, 0, 11, .ro, 0⟩
def THM.THM_XCTL_REBASE : Fld := ⟨0x200, 0, 1, 0, 1, .w1s, 0⟩
def THM.SENS_SEL_SENSOR : Fld := ⟨0x208, 0, 1, 0, 11, .rw, 0⟩
def THM.SENS_VAL_SUSPECT : Fld := ⟨0x600, 0, 1, 16, 1, .ro, 0⟩
def THM.SENS_VAL : Fld := ⟨0x600, 0, 1, 0, 16, .ro, 0⟩
def THM.HIDDEN_HEAT : Fld := ⟨0x808, 0, 1, 0, 64, .ro, 0⟩
def THM.TWIN_DISAGREE : Fld := ⟨0x810, 0, 1, 0, 64, .ro, 0⟩
def THM.COOL_WARNS : Fld := ⟨0x818, 0, 1, 0, 64, .ro, 0⟩
def THM.DRAINS : Fld := ⟨0x820, 0, 1, 0, 64, .ro, 0⟩
def THM.TRIPS : Fld := ⟨0x828, 0, 1, 0, 64, .ro, 0⟩

/-! Page type EVT (R306). -/
def EVT.EVT_CFG_LOG2 : Fld := ⟨0x040, 0, 1, 4, 5, .rw, 4⟩
def EVT.EVT_CFG_MIN_SEV : Fld := ⟨0x040, 0, 1, 2, 2, .rw, 0⟩
def EVT.EVT_CFG_LOC : Fld := ⟨0x040, 0, 1, 1, 1, .rw, 0⟩
def EVT.EVT_CFG_ENABLE : Fld := ⟨0x040, 0, 1, 0, 1, .rw, 0⟩
def EVT.EVT_BASE : Fld := ⟨0x048, 0, 1, 0, 64, .rw, 0⟩
def EVT.EVT_HEAD : Fld := ⟨0x050, 0, 1, 0, 16, .rw, 0⟩
def EVT.EVT_STAT_TAIL : Fld := ⟨0x100, 0, 1, 32, 16, .ro, 0⟩
def EVT.EVT_STAT_PHASE : Fld := ⟨0x100, 0, 1, 17, 1, .ro, 1⟩
def EVT.EVT_STAT_ENABLED : Fld := ⟨0x100, 0, 1, 16, 1, .ro, 0⟩
def EVT.EVT_STAT_QUEUED : Fld := ⟨0x100, 0, 1, 0, 9, .ro, 0⟩
def EVT.BARKS_RAISED : Fld := ⟨0x808, 0, 1, 0, 64, .ro, 0⟩
def EVT.BARKS_WRITTEN : Fld := ⟨0x810, 0, 1, 0, 64, .ro, 0⟩
def EVT.BARKS_FILTERED : Fld := ⟨0x818, 0, 1, 0, 64, .ro, 0⟩
def EVT.BARKS_DROPPED : Fld := ⟨0x820, 0, 1, 0, 64, .ro, 0⟩

/-! Page type LEDG (R310). -/
def LEDG.LEDG_SEL_RECORD : Fld := ⟨0x040, 0, 1, 0, 20, .rw, 0⟩
def LEDG.LEDG_REC_RING : Fld := ⟨0x100, 0, 1, 20, 6, .ro, 0⟩
def LEDG.LEDG_REC_PART : Fld := ⟨0x100, 0, 1, 17, 3, .ro, 0⟩
def LEDG.LEDG_REC_PENDING : Fld := ⟨0x100, 0, 1, 16, 1, .ro, 0⟩
def LEDG.LEDG_REC_BUSY : Fld := ⟨0x100, 0, 1, 15, 1, .ro, 0⟩
def LEDG.LEDG_REC_STATE : Fld := ⟨0x100, 0, 1, 0, 4, .ro, 0⟩
def LEDG.LEDG_SUM_PENDING_CNT : Fld := ⟨0x108, 0, 1, 32, 21, .ro, 0⟩
def LEDG.LEDG_SUM_LIVE : Fld := ⟨0x108, 0, 1, 0, 21, .ro, 0⟩
def LEDG.WALK_BUSY : Fld := ⟨0x110, 0, 1, 0, 32, .ro, 0⟩
def LEDG.WALK_UPDATES : Fld := ⟨0x808, 0, 1, 0, 64, .ro, 0⟩
def LEDG.RECORDS_LOST : Fld := ⟨0x810, 0, 1, 0, 64, .ro, 0⟩
def LEDG.PENDING_WRITTEN : Fld := ⟨0x818, 0, 1, 0, 64, .ro, 0⟩

/-! Page type METR (R314). -/
def METR.METR_CFG_ROOT_MS : Fld := ⟨0x040, 0, 1, 0, 5, .rw, 0x14⟩
def METR.RCPT_CFG_LOG2 : Fld := ⟨0x048, 0, 1, 4, 5, .rw, 4⟩
def METR.RCPT_CFG_LOC : Fld := ⟨0x048, 0, 1, 1, 1, .rw, 0⟩
def METR.RCPT_CFG_ENABLE : Fld := ⟨0x048, 0, 1, 0, 1, .rw, 0⟩
def METR.RCPT_BASE : Fld := ⟨0x050, 0, 1, 0, 64, .rw, 0⟩
def METR.RCPT_HEAD : Fld := ⟨0x058, 0, 1, 0, 16, .rw, 0⟩
def METR.RCPT_STAT_TAIL : Fld := ⟨0x100, 0, 1, 32, 16, .ro, 0⟩
def METR.RCPT_STAT_PHASE : Fld := ⟨0x100, 0, 1, 16, 1, .ro, 1⟩
def METR.RCPT_STAT_ENABLED : Fld := ⟨0x100, 0, 1, 0, 1, .ro, 0⟩
def METR.ACCT_IDLE : Fld := ⟨0x108, 0, 1, 0, 64, .ro, 0⟩
def METR.ACCT_RESIDUE : Fld := ⟨0x110, 0, 1, 0, 64, .ro, 0⟩
def METR.ACCT_LIVE : Fld := ⟨0x118, 0, 1, 0, 64, .ro, 0⟩
def METR.ACCT_RECEIPTED : Fld := ⟨0x120, 0, 1, 0, 64, .ro, 0⟩
def METR.ACCT_MEASURED : Fld := ⟨0x128, 0, 1, 0, 64, .ro, 0⟩
def METR.METR_SEQ_ROOT_SEQ : Fld := ⟨0x130, 0, 1, 32, 32, .ro, 0⟩
def METR.METR_SEQ_RECEIPT_SEQ : Fld := ⟨0x130, 0, 1, 0, 32, .ro, 0⟩
def METR.RECONCILES : Fld := ⟨0x808, 0, 1, 0, 64, .ro, 0⟩
def METR.RECEIPTS : Fld := ⟨0x810, 0, 1, 0, 64, .ro, 0⟩
def METR.ROOTS : Fld := ⟨0x818, 0, 1, 0, 64, .ro, 0⟩
def METR.PMBUS_FAILS : Fld := ⟨0x820, 0, 1, 0, 64, .ro, 0⟩

/-! Page type SEC (R315). -/
def SEC.ATT_CMD_OP : Fld := ⟨0x040, 0, 1, 60, 4, .rw, 0⟩
def SEC.ATT_NONCE : Fld := ⟨0x048, 0, 1, 0, 64, .rw, 0⟩
def SEC.ATT_ADDR : Fld := ⟨0x050, 0, 1, 0, 64, .rw, 0⟩
def SEC.SEC_STAT_ROLLBACK : Fld := ⟨0x100, 0, 1, 48, 8, .ro, 0⟩
def SEC.SEC_STAT_SLOT : Fld := ⟨0x100, 0, 1, 40, 2, .ro, 0⟩
def SEC.SEC_STAT_FW_VER : Fld := ⟨0x100, 0, 1, 0, 32, .ro, 0⟩
def SEC.ATT_STAT_BUSY : Fld := ⟨0x108, 0, 1, 8, 1, .ro, 0⟩
def SEC.ATT_STAT_STATUS : Fld := ⟨0x108, 0, 1, 0, 4, .ro, 0⟩
def SEC.ID_DIGEST : Fld := ⟨0x140, 8, 8, 0, 64, .ro, 0⟩
def SEC.MK_DIGEST : Fld := ⟨0x180, 8, 8, 0, 64, .ro, 0⟩
def SEC.SEC_XCTL_ADVANCE : Fld := ⟨0x200, 0, 1, 0, 1, .w1s, 0⟩
def SEC.ATTESTS : Fld := ⟨0x808, 0, 1, 0, 64, .ro, 0⟩
def SEC.SIGNATURES : Fld := ⟨0x810, 0, 1, 0, 64, .ro, 0⟩
def SEC.VERIFY_FAILS : Fld := ⟨0x818, 0, 1, 0, 64, .ro, 0⟩

/-! Page type LIFE (R316). -/
def LIFE.NOTE_TIME : Fld := ⟨0x040, 0, 1, 0, 64, .rw, 0⟩
def LIFE.LIFE_SEL_DIE : Fld := ⟨0x048, 0, 1, 0, 3, .rw, 0⟩
def LIFE.LIFE_STAT_NOTE_IDX : Fld := ⟨0x100, 0, 1, 32, 32, .ro, 0⟩
def LIFE.LIFE_STAT_WEAKEST : Fld := ⟨0x100, 0, 1, 28, 4, .ro, 0⟩
def LIFE.LIFE_PRED_DAYS : Fld := ⟨0x108, 0, 1, 32, 16, .ro, 0⟩
def LIFE.LIFE_PRED_LOW : Fld := ⟨0x108, 0, 1, 16, 16, .ro, 0⟩
def LIFE.LIFE_PRED_HIGH : Fld := ⟨0x108, 0, 1, 0, 16, .ro, 0⟩
def LIFE.POWERED : Fld := ⟨0x110, 0, 1, 0, 64, .ro, 0⟩
def LIFE.THERMAL_CYCLES : Fld := ⟨0x118, 0, 1, 0, 64, .ro, 0⟩
def LIFE.ENERGY_J : Fld := ⟨0x120, 0, 1, 0, 64, .ro, 0⟩
def LIFE.NOTES : Fld := ⟨0x808, 0, 1, 0, 64, .ro, 0⟩
def LIFE.LOG_WRITES : Fld := ⟨0x810, 0, 1, 0, 64, .ro, 0⟩

/-! Page type BOOT (R345). -/
def BOOT.BOOT_CFG_HOST_NEXT : Fld := ⟨0x040, 0, 1, 2, 1, .rw, 0⟩
def BOOT.BOOT_CFG_FRESH : Fld := ⟨0x040, 0, 1, 1, 1, .rw, 0⟩
def BOOT.BOOT_CFG_SLOT_PREF : Fld := ⟨0x040, 0, 1, 0, 1, .rw, 0⟩
def BOOT.BOOT_CMD_OP : Fld := ⟨0x048, 0, 1, 60, 4, .rw, 0⟩
def BOOT.BOOT_CMD_SLOT : Fld := ⟨0x048, 0, 1, 0, 1, .rw, 0⟩
def BOOT.BOOT_HOST_ADDR : Fld := ⟨0x050, 0, 1, 0, 64, .rw, 0⟩
def BOOT.BOOT_HOST_LEN : Fld := ⟨0x058, 0, 1, 0, 24, .rw, 0⟩
def BOOT.BOOT_STAT_START_TIME : Fld := ⟨0x100, 0, 1, 32, 16, .ro, 0⟩
def BOOT.BOOT_STAT_KIND : Fld := ⟨0x100, 0, 1, 16, 2, .ro, 0⟩
def BOOT.BOOT_STAT_VERIFY0 : Fld := ⟨0x100, 0, 1, 12, 4, .ro, 0⟩
def BOOT.BOOT_STAT_VERIFY1 : Fld := ⟨0x100, 0, 1, 8, 4, .ro, 0⟩
def BOOT.BOOT_STAT_VERIFYH : Fld := ⟨0x100, 0, 1, 4, 4, .ro, 0⟩
def BOOT.BOOT_STAT_PHASE : Fld := ⟨0x100, 0, 1, 0, 4, .ro, 0⟩
def BOOT.BOOT_CMD_STAT_BUSY : Fld := ⟨0x108, 0, 1, 8, 1, .ro, 0⟩
def BOOT.BOOT_CMD_STAT_STATUS : Fld := ⟨0x108, 0, 1, 0, 4, .ro, 0⟩
def BOOT.STARTS_FAST : Fld := ⟨0x808, 0, 1, 0, 64, .ro, 0⟩
def BOOT.STARTS_FULL : Fld := ⟨0x810, 0, 1, 0, 64, .ro, 0⟩
def BOOT.SLOT_WRITES : Fld := ⟨0x818, 0, 1, 0, 64, .ro, 0⟩

/-! Page type KENL (R346). -/
def KENL.KENL_SEL_RECORD : Fld := ⟨0x040, 0, 1, 0, 17, .rw, 0⟩
def KENL.KENL_STAT_FULL : Fld := ⟨0x100, 0, 1, 50, 1, .ro, 0⟩
def KENL.KENL_STAT_RECORDS : Fld := ⟨0x100, 0, 1, 32, 18, .ro, 0⟩
def KENL.KENL_STAT_COPY1_OK : Fld := ⟨0x100, 0, 1, 1, 1, .ro, 0⟩
def KENL.KENL_STAT_COPY0_OK : Fld := ⟨0x100, 0, 1, 0, 1, .ro, 0⟩
def KENL.KENL_REC : Fld := ⟨0x108, 8, 4, 0, 64, .ro, 0⟩
def KENL.KENL_ADD_ENTRY : Fld := ⟨0x200, 0, 1, 0, 32, .wo, 0⟩
def KENL.COL_RETIRE_LIM : Fld := ⟨0x208, 0, 1, 0, 8, .rw, 0x20⟩
def KENL.LYR_RETIRE_LIM : Fld := ⟨0x210, 0, 1, 0, 8, .rw, 0x40⟩
def KENL.KENL_ADDED : Fld := ⟨0x808, 0, 1, 0, 64, .ro, 0⟩
def KENL.COPY_REPAIRS : Fld := ⟨0x810, 0, 1, 0, 64, .ro, 0⟩

/-! Page type FLSH (R434). -/
def FLSH.LOG_SEL : Fld := ⟨0x040, 0, 1, 0, 22, .rw, 0⟩
def FLSH.NOTE_SEL_NOTE_IDX : Fld := ⟨0x048, 0, 1, 0, 32, .rw, 0⟩
def FLSH.FLSH_STAT_BAD_BLOCKS : Fld := ⟨0x100, 0, 1, 32, 10, .ro, 0⟩
def FLSH.FLSH_STAT_WEAR : Fld := ⟨0x100, 0, 1, 0, 10, .ro, 0⟩
def FLSH.FLSH_NOTE : Fld := ⟨0x108, 8, 4, 0, 64, .ro, 0⟩
def FLSH.FLSH_LOG : Fld := ⟨0x140, 8, 8, 0, 64, .ro, 0⟩
def FLSH.ERASES : Fld := ⟨0x808, 0, 1, 0, 64, .ro, 0⟩
def FLSH.PROGRAM_FAILS : Fld := ⟨0x810, 0, 1, 0, 64, .ro, 0⟩
def FLSH.COMPACTIONS : Fld := ⟨0x818, 0, 1, 0, 64, .ro, 0⟩
def FLSH.NOTES_OVERWRITTEN : Fld := ⟨0x820, 0, 1, 0, 64, .ro, 0⟩

/-! Page type PMB (R408). -/
def PMB.PMB_STAT_RAILS_OK : Fld := ⟨0x100, 0, 1, 0, 44, .ro, 0⟩
def PMB.PMB_READS : Fld := ⟨0x808, 0, 1, 0, 64, .ro, 0⟩
def PMB.PMB_WRITES : Fld := ⟨0x810, 0, 1, 0, 64, .ro, 0⟩
def PMB.PEC_FAILS : Fld := ⟨0x818, 0, 1, 0, 64, .ro, 0⟩
def PMB.NACKS : Fld := ⟨0x820, 0, 1, 0, 64, .ro, 0⟩

/-! Page type SMB (R481). -/
def SMB.SMB_STAT_ADDR : Fld := ⟨0x100, 0, 1, 0, 7, .ro, 0⟩
def SMB.SMB_READS : Fld := ⟨0x808, 0, 1, 0, 64, .ro, 0⟩
def SMB.SMB_REFUSED : Fld := ⟨0x810, 0, 1, 0, 64, .ro, 0⟩
def SMB.SMB_PEC_FAILS : Fld := ⟨0x818, 0, 1, 0, 64, .ro, 0⟩
def SMB.SMB_TIMEOUTS : Fld := ⟨0x820, 0, 1, 0, 64, .ro, 0⟩

/-! Page type RST (R374). -/
def RST.RST_CMD_OP : Fld := ⟨0x040, 0, 1, 60, 4, .rw, 0⟩
def RST.RST_CMD_PART : Fld := ⟨0x040, 0, 1, 0, 3, .rw, 0⟩
def RST.RST_STAT_RUNNING : Fld := ⟨0x100, 0, 1, 32, 6, .ro, 0⟩
def RST.RST_STAT_LAST_SCOPE : Fld := ⟨0x100, 0, 1, 16, 4, .ro, 0⟩
def RST.RST_STAT_LAST_TARGET : Fld := ⟨0x100, 0, 1, 4, 12, .ro, 0⟩
def RST.RST_STAT_LAST_STATUS : Fld := ⟨0x100, 0, 1, 0, 4, .ro, 0⟩
def RST.RST_XCMD_OP : Fld := ⟨0x200, 0, 1, 60, 4, .rw, 0⟩
def RST.RST_XCMD_TARGET : Fld := ⟨0x200, 0, 1, 0, 12, .rw, 0⟩
def RST.CORE_RESETS : Fld := ⟨0x808, 0, 1, 0, 64, .ro, 0⟩
def RST.PACK_RESETS : Fld := ⟨0x810, 0, 1, 0, 64, .ro, 0⟩
def RST.TOWER_RESETS : Fld := ⟨0x818, 0, 1, 0, 64, .ro, 0⟩
def RST.PART_RESETS : Fld := ⟨0x820, 0, 1, 0, 64, .ro, 0⟩
def RST.ITEMS_DRAINED : Fld := ⟨0x828, 0, 1, 0, 64, .ro, 0⟩
def RST.ITEMS_ABSORBED : Fld := ⟨0x830, 0, 1, 0, 64, .ro, 0⟩
def RST.LEASHES_RETURNED : Fld := ⟨0x838, 0, 1, 0, 64, .ro, 0⟩
def RST.CPL_AS_BARK : Fld := ⟨0x840, 0, 1, 0, 64, .ro, 0⟩

/-! Page type ECC (R431). -/
def ECC.ECC_LEAK_LEAK_S : Fld := ⟨0x200, 0, 1, 0, 12, .rw, 0xa⟩
def ECC.CORR_TOWER : Fld := ⟨0x808, 0, 1, 0, 64, .ro, 0⟩
def ECC.CORR_DIE : Fld := ⟨0x810, 0, 1, 0, 64, .ro, 0⟩
def ECC.UNCORR_SRAM : Fld := ⟨0x818, 0, 1, 0, 64, .ro, 0⟩
def ECC.OVERFLOWS : Fld := ⟨0x820, 0, 1, 0, 64, .ro, 0⟩
def ECC.ECC_BUCKET_OVERFLOWS : Fld := ⟨0xC00, 8, 128, 16, 16, .ro, 0⟩
def ECC.ECC_BUCKET_LEVEL : Fld := ⟨0xC00, 8, 128, 0, 8, .ro, 0⟩

/-! Page type JTAG (R481). -/
def JTAG.JTAG_STAT_LOCKED : Fld := ⟨0x100, 0, 1, 16, 1, .ro, 0⟩
def JTAG.JTAG_STAT_STANDALONE : Fld := ⟨0x100, 0, 1, 8, 8, .ro, 0⟩
def JTAG.JTAG_STAT_ACTIVE : Fld := ⟨0x100, 0, 1, 0, 1, .ro, 0⟩
def JTAG.JTAG_XCTL_LOCK : Fld := ⟨0x200, 0, 1, 0, 1, .w1s, 0⟩
def JTAG.PAGE_READS : Fld := ⟨0x808, 0, 1, 0, 64, .ro, 0⟩

/-! Page type KAT (R347). -/
def KAT.KAT_STAT_BUSY : Fld := ⟨0x100, 0, 1, 32, 1, .ro, 0⟩
def KAT.KAT_STAT_FAILS_LAST : Fld := ⟨0x100, 0, 1, 0, 32, .ro, 0⟩
def KAT.KAT_LAST_ENTRY : Fld := ⟨0x108, 0, 1, 0, 32, .ro, 0⟩
def KAT.KAT_CMD_OP : Fld := ⟨0x200, 0, 1, 60, 4, .rw, 0⟩
def KAT.KAT_CMD_REGION : Fld := ⟨0x200, 0, 1, 0, 5, .rw, 0⟩
def KAT.KAT_RUNS : Fld := ⟨0x808, 0, 1, 0, 64, .ro, 0⟩
def KAT.KAT_FAILS : Fld := ⟨0x810, 0, 1, 0, 64, .ro, 0⟩

/-! Page type RSA (R460). -/
def RSA.RSA_STAT_WAITING : Fld := ⟨0x100, 0, 1, 16, 8, .ro, 0⟩
def RSA.RSA_STAT_ENGINE : Fld := ⟨0x100, 0, 1, 8, 2, .ro, 0⟩
def RSA.RSA_STAT_MK_OK : Fld := ⟨0x100, 0, 1, 2, 1, .ro, 0⟩
def RSA.RSA_STAT_ID_OK : Fld := ⟨0x100, 0, 1, 1, 1, .ro, 0⟩
def RSA.RSA_LAT_SIGN_MAX : Fld := ⟨0x108, 0, 1, 0, 32, .ro, 0⟩
def RSA.SIGN_ROOT : Fld := ⟨0x808, 0, 1, 0, 64, .ro, 0⟩
def RSA.SIGN_ATTEST : Fld := ⟨0x810, 0, 1, 0, 64, .ro, 0⟩
def RSA.BATCH_WAITS : Fld := ⟨0x818, 0, 1, 0, 64, .ro, 0⟩

/-! Page type RNG (R461). -/
def RNG.RNG_STAT_FAILED : Fld := ⟨0x100, 0, 1, 1, 1, .ro, 0⟩
def RNG.RNG_STAT_SEEDED : Fld := ⟨0x100, 0, 1, 0, 1, .ro, 0⟩
def RNG.RESEEDS : Fld := ⟨0x808, 0, 1, 0, 64, .ro, 0⟩
def RNG.HEALTH_FAILS : Fld := ⟨0x810, 0, 1, 0, 64, .ro, 0⟩

/-! Page type CLNT (R409). -/
def CLNT.CLNT_CFG_LIMIT_PCT : Fld := ⟨0x200, 0, 1, 16, 16, .rw, 0x12c⟩
def CLNT.CLNT_CFG_WARN_PCT : Fld := ⟨0x200, 0, 1, 0, 16, .rw, 0x96⟩
def CLNT.SAMPLES : Fld := ⟨0x808, 0, 1, 0, 64, .ro, 0⟩
def CLNT.DIE_INDEX : Fld := ⟨0xC00, 8, 8, 48, 16, .ro, 0⟩
def CLNT.DIE_INDEX_STAMP : Fld := ⟨0xC00, 8, 8, 0, 48, .ro, 0⟩
def CLNT.DIE_BASE : Fld := ⟨0xC40, 8, 8, 0, 32, .ro, 0⟩

/-! Page type SPR (R348). -/
def SPR.SPR_SITES_INV : Fld := ⟨0x100, 0, 1, 40, 20, .ro, 0⟩
def SPR.SPR_SITES_USED : Fld := ⟨0x100, 0, 1, 20, 20, .ro, 0⟩
def SPR.SPR_SITES_FREE : Fld := ⟨0x100, 0, 1, 0, 20, .ro, 0⟩
def SPR.SPR_FRAMES_INV : Fld := ⟨0x108, 0, 1, 40, 20, .ro, 0⟩
def SPR.SPR_FRAMES_USED : Fld := ⟨0x108, 0, 1, 20, 20, .ro, 0⟩
def SPR.SPR_FRAMES_FREE : Fld := ⟨0x108, 0, 1, 0, 20, .ro, 0⟩
def SPR.SPR_BLANES_INV : Fld := ⟨0x110, 0, 1, 40, 20, .ro, 0⟩
def SPR.SPR_BLANES_USED : Fld := ⟨0x110, 0, 1, 20, 20, .ro, 0⟩
def SPR.SPR_BLANES_FREE : Fld := ⟨0x110, 0, 1, 0, 20, .ro, 0⟩
def SPR.SPR_OLANES_INV : Fld := ⟨0x118, 0, 1, 40, 20, .ro, 0⟩
def SPR.SPR_OLANES_USED : Fld := ⟨0x118, 0, 1, 20, 20, .ro, 0⟩
def SPR.SPR_OLANES_FREE : Fld := ⟨0x118, 0, 1, 0, 20, .ro, 0⟩

/-! Page type TRIP (R410). -/
def TRIP.TRIP_STAT_CAUSE : Fld := ⟨0x100, 0, 1, 52, 4, .ro, 0⟩
def TRIP.TRIP_STAT_DIE : Fld := ⟨0x100, 0, 1, 49, 3, .ro, 0⟩
def TRIP.TRIP_STAT_STAMP : Fld := ⟨0x100, 0, 1, 0, 48, .ro, 0⟩
def TRIP.TRIP_CFG_DTDT_DIES : Fld := ⟨0x200, 0, 1, 8, 4, .rw, 2⟩
def TRIP.TRIP_CFG_DTDT_LIM : Fld := ⟨0x200, 0, 1, 0, 8, .rw, 0x14⟩
def TRIP.ITEMS_THERMAL : Fld := ⟨0x808, 0, 1, 0, 64, .ro, 0⟩

/-! Page type HLK (R309). -/
def HLK.HLK_CTL_SYS_PORT : Fld := ⟨0x040, 0, 1, 8, 1, .rw, 0⟩
def HLK.HLK_CTL_HOME : Fld := ⟨0x040, 0, 1, 0, 8, .rw, 0⟩
def HLK.HLK_STAT_AGREED : Fld := ⟨0x100, 0, 1, 48, 16, .ro, 0xffff⟩
def HLK.HLK_STAT_WIDTH : Fld := ⟨0x100, 0, 1, 42, 2, .ro, 3⟩
def HLK.HLK_STAT_STATE : Fld := ⟨0x100, 0, 1, 32, 4, .ro, 0⟩
def HLK.HLK_STAT_NEXT_SEQ : Fld := ⟨0x100, 0, 1, 20, 12, .ro, 0⟩
def HLK.HLK_STAT_ACCEPTED : Fld := ⟨0x100, 0, 1, 8, 12, .ro, 0⟩
def HLK.HLK_LANES_USABLE : Fld := ⟨0x108, 0, 1, 48, 16, .ro, 0⟩
def HLK.HLK_LANES_FAILED : Fld := ⟨0x108, 0, 1, 32, 16, .ro, 0⟩
def HLK.HLK_LANES_REVERSED : Fld := ⟨0x108, 0, 1, 0, 1, .ro, 0⟩
def HLK.HLK_CREDIT_HELD_P : Fld := ⟨0x110, 0, 1, 45, 9, .ro, 0⟩
def HLK.HLK_CREDIT_HELD_N : Fld := ⟨0x110, 0, 1, 36, 9, .ro, 0⟩
def HLK.HLK_CREDIT_ADV_P : Fld := ⟨0x110, 0, 1, 27, 9, .ro, 0⟩
def HLK.HLK_CREDIT_ADV_N : Fld := ⟨0x110, 0, 1, 18, 9, .ro, 0⟩
def HLK.HLK_TAGS_HOST_TAGS : Fld := ⟨0x118, 0, 1, 16, 13, .ro, 0⟩
def HLK.HLK_TAGS_DEV_TAGS : Fld := ⟨0x118, 0, 1, 0, 13, .ro, 0⟩
def HLK.LANE_LIM : Fld := ⟨0x200, 0, 1, 0, 16, .rw, 0x1000⟩
def HLK.CPL_TIMEOUT : Fld := ⟨0x208, 0, 1, 0, 32, .rw, 0xc350⟩
def HLK.HLK_CMD_OP : Fld := ⟨0x210, 0, 1, 60, 4, .rw, 0⟩
def HLK.FLITS_DISCARDED : Fld := ⟨0x808, 0, 1, 0, 64, .ro, 0⟩
def HLK.CW_UNCORR : Fld := ⟨0x810, 0, 1, 0, 64, .ro, 0⟩
def HLK.REPLAYS : Fld := ⟨0x818, 0, 1, 0, 64, .ro, 0⟩
def HLK.PORT_FAILS : Fld := ⟨0x820, 0, 1, 0, 64, .ro, 0⟩
def HLK.BAD_REQ : Fld := ⟨0x828, 0, 1, 0, 64, .ro, 0⟩
def HLK.CPL_TIMEOUTS : Fld := ⟨0x830, 0, 1, 0, 64, .ro, 0⟩
def HLK.LATE_CPL : Fld := ⟨0x838, 0, 1, 0, 64, .ro, 0⟩
def HLK.LANE_CORR : Fld := ⟨0x880, 8, 16, 0, 64, .ro, 0⟩

/-! Page type LASR (R433). -/
def LASR.LASR_STAT_BASE_SHARED : Fld := ⟨0x100, 0, 1, 32, 16, .ro, 0⟩
def LASR.LASR_STAT_BASE_SOLE : Fld := ⟨0x100, 0, 1, 16, 16, .ro, 0⟩
def LASR.LASR_STAT_CREEP : Fld := ⟨0x100, 0, 1, 0, 16, .ro, 0⟩

/-! Page type DIE (R308). -/
def DIE.DIE_STAT_OP_CEIL : Fld := ⟨0x100, 0, 1, 10, 3, .ro, 0⟩
def DIE.DIE_STAT_OP_PREF : Fld := ⟨0x100, 0, 1, 7, 3, .ro, 0⟩
def DIE.DIE_STAT_STEWARDS : Fld := ⟨0x100, 0, 1, 5, 2, .ro, 0⟩
def DIE.DIE_STAT_STATE : Fld := ⟨0x100, 0, 1, 0, 3, .ro, 0⟩
def DIE.DIE_UNITS_REDUCED : Fld := ⟨0x108, 0, 1, 32, 16, .ro, 0⟩
def DIE.DIE_UNITS_LOGICAL : Fld := ⟨0x108, 0, 1, 0, 10, .ro, 0⟩
def DIE.DIE_SPARES_SPARE_INV : Fld := ⟨0x110, 0, 1, 32, 16, .ro, 0⟩
def DIE.DIE_SPARES_SPARE_USED : Fld := ⟨0x110, 0, 1, 16, 16, .ro, 0⟩
def DIE.DIE_SPARES_SPARE_FREE : Fld := ⟨0x110, 0, 1, 0, 16, .ro, 0⟩
def DIE.DIE_FUSE_FIELD_FREE : Fld := ⟨0x118, 0, 1, 0, 10, .ro, 0⟩
def DIE.DIE_STAMP_STAMP : Fld := ⟨0x120, 0, 1, 0, 48, .ro, 0⟩
def DIE.MUZZLES : Fld := ⟨0x808, 0, 1, 0, 64, .ro, 0⟩
def DIE.KAT_FAILS : Fld := ⟨0x810, 0, 1, 0, 64, .ro, 0⟩
def DIE.PRESENT : Fld := ⟨0xC00, 8, 8, 0, 64, .ro, 0⟩

/-! Page type PART (R263). -/
def PART.PLAN_CMD_OP : Fld := ⟨0x040, 0, 1, 60, 4, .rw, 0⟩
def PART.PLAN_ADDR : Fld := ⟨0x048, 0, 1, 0, 64, .rw, 0⟩
def PART.PLAN_LOC : Fld := ⟨0x050, 0, 1, 0, 1, .rw, 0⟩
def PART.RING_SEL_RING : Fld := ⟨0x058, 0, 1, 0, 6, .rw, 0⟩
def PART.RING_CFG_NOTIFY : Fld := ⟨0x060, 0, 1, 17, 2, .rw, 0⟩
def PART.RING_CFG_CQ_LOC : Fld := ⟨0x060, 0, 1, 16, 1, .rw, 0⟩
def PART.RING_CFG_SQ_LOC : Fld := ⟨0x060, 0, 1, 15, 1, .rw, 0⟩
def PART.RING_CFG_CQ_LOG2 : Fld := ⟨0x060, 0, 1, 10, 5, .rw, 4⟩
def PART.RING_CFG_SQ_LOG2 : Fld := ⟨0x060, 0, 1, 5, 5, .rw, 4⟩
def PART.RING_CFG_ENABLE : Fld := ⟨0x060, 0, 1, 0, 1, .rw, 0⟩
def PART.SQ_BASE : Fld := ⟨0x068, 0, 1, 0, 64, .rw, 0⟩
def PART.CQ_BASE : Fld := ⟨0x070, 0, 1, 0, 64, .rw, 0⟩
def PART.RING_CTL_ABORT : Fld := ⟨0x078, 0, 1, 0, 1, .w1s, 0⟩
def PART.PART_STAT_STATE : Fld := ⟨0x100, 0, 1, 32, 4, .ro, 0⟩
def PART.PART_STAT_REGIONS : Fld := ⟨0x100, 0, 1, 0, 32, .ro, 0⟩
def PART.PLAN_STAT_BUSY : Fld := ⟨0x108, 0, 1, 8, 1, .ro, 0⟩
def PART.PLAN_STAT_STATUS : Fld := ⟨0x108, 0, 1, 0, 4, .ro, 0⟩
def PART.MAP_EPOCH_EPOCH : Fld := ⟨0x110, 0, 1, 0, 32, .ro, 0⟩
def PART.RING_STAT_CQ_TAIL : Fld := ⟨0x118, 0, 1, 32, 16, .ro, 0⟩
def PART.RING_STAT_SQ_HEAD : Fld := ⟨0x118, 0, 1, 16, 16, .ro, 0⟩
def PART.RING_STAT_PHASE : Fld := ⟨0x118, 0, 1, 1, 1, .ro, 1⟩
def PART.RING_STAT_ENABLED : Fld := ⟨0x118, 0, 1, 0, 1, .ro, 0⟩
def PART.PLAN_DIGEST : Fld := ⟨0x140, 8, 8, 0, 64, .ro, 0⟩
def PART.RING_ISSUED : Fld := ⟨0x808, 0, 1, 0, 64, .ro, 0⟩
def PART.RING_COMPLETED : Fld := ⟨0x810, 0, 1, 0, 64, .ro, 0⟩
def PART.RING_FAILED : Fld := ⟨0x818, 0, 1, 0, 64, .ro, 0⟩
def PART.RING_OUTSTANDING : Fld := ⟨0x820, 0, 1, 0, 64, .ro, 0⟩
def PART.RING_STREAM_CPL : Fld := ⟨0x828, 0, 1, 0, 64, .ro, 0⟩
def PART.CQ_FULL_WAIT : Fld := ⟨0x830, 0, 1, 0, 64, .ro, 0⟩
def PART.STREAMS_OPENED : Fld := ⟨0x838, 0, 1, 0, 64, .ro, 0⟩
def PART.STREAMS_ENDED : Fld := ⟨0x840, 0, 1, 0, 64, .ro, 0⟩
def PART.STREAMS_FAILED : Fld := ⟨0x848, 0, 1, 0, 64, .ro, 0⟩
def PART.STREAMS_LIVE : Fld := ⟨0x850, 0, 1, 0, 64, .ro, 0⟩
def PART.STREAMS_RELEASED : Fld := ⟨0x858, 0, 1, 0, 64, .ro, 0⟩
def PART.PLAN_LOADS : Fld := ⟨0x860, 0, 1, 0, 64, .ro, 0⟩
def PART.SQ_TAIL : Fld := ⟨0xC00, 16, 64, 0, 16, .wo, 0⟩
def PART.CQ_HEAD : Fld := ⟨0xC08, 16, 64, 0, 16, .wo, 0⟩

/-! Page type CLK (R404). -/
def CLK.CLK_STAT_RC : Fld := ⟨0x100, 0, 1, 24, 3, .ro, 6⟩
def CLK.CLK_STAT_PART_CEIL : Fld := ⟨0x100, 0, 1, 21, 3, .ro, 0⟩
def CLK.CLK_STAT_THERM_CEIL : Fld := ⟨0x100, 0, 1, 18, 3, .ro, 0⟩
def CLK.CLK_STAT_COOL_CEIL : Fld := ⟨0x100, 0, 1, 15, 3, .ro, 0⟩
def CLK.CLK_STAT_AGE_CEIL : Fld := ⟨0x100, 0, 1, 12, 3, .ro, 0⟩
def CLK.CLK_STAT_PWR_CEIL : Fld := ⟨0x100, 0, 1, 9, 3, .ro, 0⟩
def CLK.CLK_STAT_TARGET : Fld := ⟨0x100, 0, 1, 6, 3, .ro, 6⟩
def CLK.CLK_STAT_POINT : Fld := ⟨0x100, 0, 1, 3, 3, .ro, 6⟩
def CLK.CLK_VOLT_G : Fld := ⟨0x108, 0, 1, 24, 8, .ro, 0⟩
def CLK.CLK_VOLT_VDD_M : Fld := ⟨0x108, 0, 1, 12, 12, .ro, 0⟩
def CLK.CLK_VOLT_VDD_A : Fld := ⟨0x108, 0, 1, 0, 12, .ro, 0⟩
def CLK.CLK_AGE_SLACK_MIN : Fld := ⟨0x200, 0, 1, 0, 8, .rw, 5⟩
def CLK.POINT_CHANGES : Fld := ⟨0x808, 0, 1, 0, 64, .ro, 0⟩
def CLK.RC_CHANGES : Fld := ⟨0x810, 0, 1, 0, 64, .ro, 0⟩
def CLK.THERM_STEPS : Fld := ⟨0x818, 0, 1, 0, 64, .ro, 0⟩
def CLK.VTABLE_VDD_M : Fld := ⟨0xC00, 8, 8, 12, 12, .ro, 0⟩
def CLK.VTABLE_VDD_A : Fld := ⟨0xC00, 8, 8, 0, 12, .ro, 0⟩

/-! Page type FUSE (R348). -/
def FUSE.FUSE_STAT_FACTORY_BAD : Fld := ⟨0x100, 0, 1, 32, 16, .ro, 0⟩
def FUSE.FUSE_STAT_FIELD_USED : Fld := ⟨0x100, 0, 1, 10, 10, .ro, 0⟩
def FUSE.FUSE_STAT_PART_MATCH : Fld := ⟨0x100, 0, 1, 3, 1, .ro, 0⟩
def FUSE.FUSE_STAT_MATCH : Fld := ⟨0x100, 0, 1, 2, 1, .ro, 0⟩
def FUSE.FUSE_STAT_COPY_B_OK : Fld := ⟨0x100, 0, 1, 1, 1, .ro, 0⟩
def FUSE.FUSE_STAT_COPY_A_OK : Fld := ⟨0x100, 0, 1, 0, 1, .ro, 0⟩
def FUSE.FIELD_ENTRY_HI : Fld := ⟨0xC00, 8, 256, 32, 32, .ro, 0⟩
def FUSE.FIELD_ENTRY_LO : Fld := ⟨0xC00, 8, 256, 0, 32, .ro, 0⟩

/-! Page type ACT (R405). -/
def ACT.ACT_COUNT : Fld := ⟨0x808, 8, 18, 0, 64, .ro, 0⟩
def ACT.ACT_WEIGHT : Fld := ⟨0xC00, 8, 18, 0, 32, .ro, 0⟩

/-! Page type DBG (R350). -/
def DBG.DBG_CHECK : Fld := ⟨0x100, 0, 1, 0, 9, .ro, 0⟩
def DBG.DBG_MODE_STANDALONE : Fld := ⟨0x108, 0, 1, 0, 1, .ro, 0⟩

/-! Page type STEW (R350). -/
def STEW.STEW_STAT_ROLE : Fld := ⟨0x100, 0, 1, 3, 2, .ro, 0⟩
def STEW.STEW_STAT_STATE : Fld := ⟨0x100, 0, 1, 0, 3, .ro, 0⟩

/-! Page type RAIL (R406). -/
def RAIL.RAIL_STAT_LIMIT : Fld := ⟨0x100, 0, 1, 48, 16, .ro, 0⟩
def RAIL.RAIL_STAT_VOUT : Fld := ⟨0x100, 0, 1, 32, 16, .ro, 0⟩
def RAIL.RAIL_STAT_EST : Fld := ⟨0x100, 0, 1, 16, 16, .ro, 0⟩
def RAIL.RAIL_STAT_MEAS_W : Fld := ⟨0x100, 0, 1, 0, 16, .ro, 0⟩
def RAIL.RAIL_SET : Fld := ⟨0x200, 0, 1, 0, 16, .rw, 0⟩
def RAIL.PROT_STEPS : Fld := ⟨0x808, 0, 1, 0, 64, .ro, 0⟩
def RAIL.OVER_NOLIM : Fld := ⟨0x810, 0, 1, 0, 64, .ro, 0⟩
def RAIL.VOUT_FAILS : Fld := ⟨0x818, 0, 1, 0, 64, .ro, 0⟩

/-! Page type TZON (R407). -/
def TZON.TZON_STAT_TEMP : Fld := ⟨0x100, 0, 1, 48, 16, .ro, 0⟩
def TZON.TZON_STAT_SENS_MAX : Fld := ⟨0x100, 0, 1, 32, 16, .ro, 0⟩
def TZON.TZON_STAT_MODEL_MAX : Fld := ⟨0x100, 0, 1, 16, 16, .ro, 0⟩
def TZON.TZON_STAT_HOLD : Fld := ⟨0x100, 0, 1, 1, 1, .ro, 0⟩
def TZON.TZON_STAT_HIDDEN : Fld := ⟨0x100, 0, 1, 0, 1, .ro, 0⟩
def TZON.HIDDEN_EVENTS : Fld := ⟨0x808, 0, 1, 0, 64, .ro, 0⟩
def TZON.SENSOR_FAILS : Fld := ⟨0x810, 0, 1, 0, 64, .ro, 0⟩
def TZON.CYCLES : Fld := ⟨0x818, 0, 1, 0, 64, .ro, 0⟩
def TZON.ZONE_ENTRY_SUSPECT : Fld := ⟨0xC00, 8, 128, 48, 2, .ro, 0⟩
def TZON.ZONE_ENTRY_MODEL : Fld := ⟨0xC00, 8, 128, 32, 16, .ro, 0⟩
def TZON.ZONE_ENTRY_S1 : Fld := ⟨0xC00, 8, 128, 16, 16, .ro, 0⟩
def TZON.ZONE_ENTRY_S0 : Fld := ⟨0xC00, 8, 128, 0, 16, .ro, 0⟩

/-! Page type RGN (R375). -/
def RGN.RGN_STAT_HELD : Fld := ⟨0x100, 0, 1, 32, 8, .ro, 0⟩
def RGN.RGN_STAT_PART : Fld := ⟨0x100, 0, 1, 8, 3, .ro, 0⟩
def RGN.RGN_STAT_IN_SET : Fld := ⟨0x100, 0, 1, 7, 1, .ro, 0⟩
def RGN.RGN_STAT_STATE : Fld := ⟨0x100, 0, 1, 0, 3, .ro, 0⟩
def RGN.RGN_XCMD_OP : Fld := ⟨0x200, 0, 1, 60, 4, .rw, 0⟩
def RGN.RGN_XCMD_USER : Fld := ⟨0x200, 0, 1, 0, 7, .rw, 0⟩
def RGN.TOWER_RESETS : Fld := ⟨0x808, 0, 1, 0, 64, .ro, 0⟩
def RGN.MUZZLES : Fld := ⟨0x810, 0, 1, 0, 64, .ro, 0⟩
def RGN.ITEMS_FENCED : Fld := ⟨0x818, 0, 1, 0, 64, .ro, 0⟩
def RGN.RECON_FAILS : Fld := ⟨0x820, 0, 1, 0, 64, .ro, 0⟩
def RGN.HELD_MAP : Fld := ⟨0xC00, 8, 2, 0, 64, .ro, 0⟩

/-! Page type TWR (R182). -/
def TWR.TWR_CMD_OP : Fld := ⟨0x040, 0, 1, 60, 4, .rw, 0⟩
def TWR.TWR_CMD_PERM : Fld := ⟨0x040, 0, 1, 56, 4, .rw, 0⟩
def TWR.TWR_CMD_PART : Fld := ⟨0x040, 0, 1, 53, 3, .rw, 0⟩
def TWR.TWR_CMD_PAGE : Fld := ⟨0x040, 0, 1, 0, 15, .rw, 0⟩
def TWR.TWR_CMD_STAT_BUSY : Fld := ⟨0x048, 0, 1, 8, 1, .ro, 0⟩
def TWR.TWR_CMD_STAT_STATUS : Fld := ⟨0x048, 0, 1, 0, 4, .ro, 0⟩
def TWR.MAP_SEL_PAGE : Fld := ⟨0x050, 0, 1, 0, 15, .rw, 0⟩
def TWR.TWR_LAT_CTL_LAT_RESTART : Fld := ⟨0x058, 0, 1, 0, 1, .w1s, 0⟩
def TWR.TWR_STAT_DEBT_MAX : Fld := ⟨0x100, 0, 1, 12, 5, .ro, 0⟩
def TWR.TWR_STAT_BAND : Fld := ⟨0x100, 0, 1, 8, 2, .ro, 0⟩
def TWR.TWR_STAT_TIER : Fld := ⟨0x100, 0, 1, 4, 2, .ro, 0⟩
def TWR.TWR_STAT_PLAN : Fld := ⟨0x100, 0, 1, 0, 1, .ro, 0⟩
def TWR.TWR_SPARE_SPARE_INV : Fld := ⟨0x108, 0, 1, 48, 12, .ro, 0⟩
def TWR.TWR_SPARE_SPARE_USED : Fld := ⟨0x108, 0, 1, 36, 12, .ro, 0⟩
def TWR.TWR_SPARE_SPARE_FREE : Fld := ⟨0x108, 0, 1, 24, 12, .ro, 0⟩
def TWR.TWR_SPARE_PAGES_UNBACKED : Fld := ⟨0x108, 0, 1, 8, 16, .ro, 0⟩
def TWR.TWR_SPARE_COLS_FAILED : Fld := ⟨0x108, 0, 1, 0, 8, .ro, 0⟩
def TWR.MAP_ENTRY : Fld := ⟨0x110, 0, 1, 0, 64, .ro, 0⟩
def TWR.HOST_LAT_MAX : Fld := ⟨0x118, 0, 1, 0, 32, .ro, 0⟩
def TWR.TWR_XCMD_OP : Fld := ⟨0x200, 0, 1, 60, 4, .rw, 0⟩
def TWR.TWR_XCMD_PAGE : Fld := ⟨0x200, 0, 1, 0, 15, .rw, 0⟩
def TWR.SUSPECT_LIM : Fld := ⟨0x208, 0, 1, 0, 8, .rw, 8⟩
def TWR.SWEEP_STAT_ACTIVE : Fld := ⟨0x600, 0, 1, 63, 1, .ro, 0⟩
def TWR.SWEEP_STAT_BLOCK : Fld := ⟨0x600, 0, 1, 16, 10, .ro, 0⟩
def TWR.SWEEP_STAT_PAGE : Fld := ⟨0x600, 0, 1, 0, 15, .ro, 0⟩
def TWR.SUSPECT_CNT : Fld := ⟨0x608, 0, 1, 0, 16, .ro, 0⟩
def TWR.HOST_READS : Fld := ⟨0x808, 0, 1, 0, 64, .ro, 0⟩
def TWR.HOST_WRITES : Fld := ⟨0x810, 0, 1, 0, 64, .ro, 0⟩
def TWR.FETCH_TURNS : Fld := ⟨0x818, 0, 1, 0, 64, .ro, 0⟩
def TWR.READ_SKIPS : Fld := ⟨0x820, 0, 1, 0, 64, .ro, 0⟩
def TWR.STALE_ZERO : Fld := ⟨0x828, 0, 1, 0, 64, .ro, 0⟩
def TWR.CORRECTED : Fld := ⟨0x830, 0, 1, 0, 64, .ro, 0⟩
def TWR.UNCORRECTED : Fld := ⟨0x838, 0, 1, 0, 64, .ro, 0⟩
def TWR.FRAMES_RETIRED : Fld := ⟨0x840, 0, 1, 0, 64, .ro, 0⟩
def TWR.CLEARS : Fld := ⟨0x848, 0, 1, 0, 64, .ro, 0⟩
def TWR.SWEEPS : Fld := ⟨0x850, 0, 1, 0, 64, .ro, 0⟩
def TWR.CLEAR_WAITS : Fld := ⟨0x858, 0, 1, 0, 64, .ro, 0⟩
def TWR.FILLS : Fld := ⟨0x860, 0, 1, 0, 64, .ro, 0⟩
def TWR.REFRESH_OPS : Fld := ⟨0x868, 0, 1, 0, 64, .ro, 0⟩
def TWR.REFRESH_HOLE : Fld := ⟨0x870, 0, 1, 0, 64, .ro, 0⟩
def TWR.REFRESH_IDLE : Fld := ⟨0x878, 0, 1, 0, 64, .ro, 0⟩
def TWR.STRETCHES : Fld := ⟨0x880, 0, 1, 0, 64, .ro, 0⟩
def TWR.STRETCH_FORCED : Fld := ⟨0x888, 0, 1, 0, 64, .ro, 0⟩
def TWR.MIGRATIONS : Fld := ⟨0x890, 0, 1, 0, 64, .ro, 0⟩
def TWR.COL_STAT_FAILED : Fld := ⟨0xC00, 2, 136, 15, 1, .ro, 0⟩
def TWR.COL_STAT_DEBT : Fld := ⟨0xC00, 2, 136, 9, 5, .ro, 0⟩
def TWR.COL_STAT_FREE : Fld := ⟨0xC00, 2, 136, 0, 9, .ro, 0⟩

/-! Page type FLR (R207). -/
def FLR.FLR_CTL_RESUME : Fld := ⟨0x040, 0, 1, 1, 1, .w1s, 0⟩
def FLR.FLR_CTL_HEEL_REQ : Fld := ⟨0x040, 0, 1, 0, 1, .w1s, 0⟩
def FLR.FLR_STAT_CMD : Fld := ⟨0x100, 0, 1, 32, 15, .ro, 0⟩
def FLR.FLR_STAT_WAIT : Fld := ⟨0x100, 0, 1, 20, 4, .ro, 0⟩
def FLR.FLR_STAT_TIER : Fld := ⟨0x100, 0, 1, 4, 2, .ro, 0⟩
def FLR.FLR_STAT_STATE : Fld := ⟨0x100, 0, 1, 0, 3, .ro, 0⟩
def FLR.FLR_FAULT_COLUMN : Fld := ⟨0x108, 0, 1, 48, 8, .ro, 0⟩
def FLR.FLR_FAULT_CMD : Fld := ⟨0x108, 0, 1, 32, 15, .ro, 0⟩
def FLR.FLR_FAULT_CODE : Fld := ⟨0x108, 0, 1, 0, 16, .ro, 0⟩
def FLR.FLR_SEQ_ENTRY : Fld := ⟨0x110, 0, 1, 0, 15, .ro, 0⟩
def FLR.FLR_TIER_MIN_MIN : Fld := ⟨0x200, 0, 1, 0, 2, .rw, 0⟩
def FLR.SEQ_STARTED : Fld := ⟨0x808, 0, 1, 0, 64, .ro, 0⟩
def FLR.SEQ_DONE : Fld := ⟨0x810, 0, 1, 0, 64, .ro, 0⟩
def FLR.SEQ_FAILED : Fld := ⟨0x818, 0, 1, 0, 64, .ro, 0⟩
def FLR.CMDS : Fld := ⟨0x820, 0, 1, 0, 64, .ro, 0⟩
def FLR.MAC_8 : Fld := ⟨0x828, 0, 1, 0, 64, .ro, 0⟩
def FLR.MAC_4 : Fld := ⟨0x830, 0, 1, 0, 64, .ro, 0⟩
def FLR.ACTIVATIONS : Fld := ⟨0x838, 0, 1, 0, 64, .ro, 0⟩
def FLR.CAP_WAIT : Fld := ⟨0x840, 0, 1, 0, 64, .ro, 0⟩
def FLR.GAP_WAIT : Fld := ⟨0x848, 0, 1, 0, 64, .ro, 0⟩
def FLR.SPACE_WAIT : Fld := ⟨0x850, 0, 1, 0, 64, .ro, 0⟩
def FLR.STRETCH_PAUSE : Fld := ⟨0x858, 0, 1, 0, 64, .ro, 0⟩
def FLR.HOLES : Fld := ⟨0x860, 0, 1, 0, 64, .ro, 0⟩
def FLR.TURNS : Fld := ⟨0x868, 0, 1, 0, 64, .ro, 0⟩
def FLR.INEXACT_ACC : Fld := ⟨0x870, 0, 1, 0, 64, .ro, 0⟩
def FLR.SPECIAL_ACC : Fld := ⟨0x878, 0, 1, 0, 64, .ro, 0⟩
def FLR.TIER_CHANGES : Fld := ⟨0x880, 0, 1, 0, 64, .ro, 0⟩
def FLR.TIER_TIME : Fld := ⟨0xC00, 8, 4, 0, 64, .ro, 0⟩

/-! Page type ORD (R149). -/
def ORD.ORD_SEL_PORT : Fld := ⟨0x040, 0, 1, 0, 9, .rw, 0⟩
def ORD.ORD_WIN_FIRST : Fld := ⟨0x048, 0, 1, 0, 11, .rw, 0⟩
def ORD.ORD_STAT_TURN : Fld := ⟨0x100, 0, 1, 48, 16, .ro, 0⟩
def ORD.ORD_STAT_ENTRY : Fld := ⟨0x100, 0, 1, 37, 11, .ro, 0⟩
def ORD.ORD_STAT_TOKEN : Fld := ⟨0x100, 0, 1, 32, 3, .ro, 7⟩
def ORD.ORD_STAT_USER : Fld := ⟨0x100, 0, 1, 25, 7, .ro, 0⟩
def ORD.ORD_STAT_KIND : Fld := ⟨0x100, 0, 1, 22, 3, .ro, 0⟩
def ORD.ORD_FAULT_VALID : Fld := ⟨0x108, 0, 1, 63, 1, .ro, 0⟩
def ORD.ORD_FAULT_COND : Fld := ⟨0x108, 0, 1, 59, 4, .ro, 0⟩
def ORD.ORD_FAULT_PORT : Fld := ⟨0x108, 0, 1, 50, 9, .ro, 0⟩
def ORD.ORD_FAULT_USER : Fld := ⟨0x108, 0, 1, 43, 7, .ro, 0⟩
def ORD.ORD_FAULT_STEP : Fld := ⟨0x108, 0, 1, 31, 12, .ro, 0⟩
def ORD.ORD_FAULT_TURN : Fld := ⟨0x108, 0, 1, 15, 16, .ro, 0⟩
def ORD.ORD_FAULT_FLOOR : Fld := ⟨0x108, 0, 1, 14, 1, .ro, 0⟩
def ORD.ORD_OUT : Fld := ⟨0x110, 0, 1, 0, 9, .ro, 0⟩
def ORD.ORD_WDOG_LIMIT : Fld := ⟨0x200, 0, 1, 0, 32, .rw, 0x3e8⟩
def ORD.SCHED_FAULTS : Fld := ⟨0x808, 0, 1, 0, 64, .ro, 0⟩
def ORD.TOK_GRANTS : Fld := ⟨0x810, 0, 1, 0, 64, .ro, 0⟩
def ORD.TOK_RELEASES : Fld := ⟨0x818, 0, 1, 0, 64, .ro, 0⟩
def ORD.TOK_RETURNED : Fld := ⟨0x820, 0, 1, 0, 64, .ro, 0⟩
def ORD.TURN_SKIPPED : Fld := ⟨0x828, 0, 1, 0, 64, .ro, 0⟩
def ORD.TOK_RESENDS : Fld := ⟨0x830, 0, 1, 0, 64, .ro, 0⟩
def ORD.TOKEN_STALLS : Fld := ⟨0x838, 0, 1, 0, 64, .ro, 0⟩
def ORD.ORD_LIST_ODD : Fld := ⟨0xC00, 8, 128, 32, 32, .ro, 0⟩
def ORD.ORD_LIST_EVEN : Fld := ⟨0xC00, 8, 128, 0, 32, .ro, 0⟩

/-! Page type OPT (R234). -/
def OPT.OPT_SEL_LINK : Fld := ⟨0x040, 0, 1, 0, 8, .rw, 0⟩
def OPT.LINK_STAT_LAT : Fld := ⟨0x100, 0, 1, 56, 8, .ro, 0⟩
def OPT.LINK_STAT_SPARE_USED : Fld := ⟨0x100, 0, 1, 48, 8, .ro, 0⟩
def OPT.LINK_STAT_AGREED : Fld := ⟨0x100, 0, 1, 42, 2, .ro, 3⟩
def OPT.LINK_STAT_WIDTH : Fld := ⟨0x100, 0, 1, 36, 2, .ro, 0⟩
def OPT.LINK_STAT_STATE : Fld := ⟨0x100, 0, 1, 32, 4, .ro, 0⟩
def OPT.LINK_STAT_UNACKED : Fld := ⟨0x100, 0, 1, 22, 10, .ro, 0⟩
def OPT.LINK_LANES_WEAKEST : Fld := ⟨0x108, 0, 1, 32, 9, .ro, 0⟩
def OPT.LINK_LANES_MARGIN_MIN : Fld := ⟨0x108, 0, 1, 24, 8, .ro, 0⟩
def OPT.LINK_LANES_FAILED : Fld := ⟨0x108, 0, 1, 0, 8, .ro, 0⟩
def OPT.COMB_STAT_BIAS1 : Fld := ⟨0x110, 0, 1, 32, 16, .ro, 0⟩
def OPT.COMB_STAT_BIAS0 : Fld := ⟨0x110, 0, 1, 16, 16, .ro, 0⟩
def OPT.COMB_STAT_COMB1 : Fld := ⟨0x110, 0, 1, 2, 2, .ro, 0⟩
def OPT.COMB_STAT_COMB0 : Fld := ⟨0x110, 0, 1, 0, 2, .ro, 0⟩
def OPT.OPT_CMD_OP : Fld := ⟨0x200, 0, 1, 60, 4, .rw, 0⟩
def OPT.CRC_LIM : Fld := ⟨0x208, 0, 1, 0, 16, .rw, 0x10⟩
def OPT.MARGIN_THR : Fld := ⟨0x210, 0, 1, 0, 8, .rw, 0x14⟩
def OPT.LOOP_STAT_RUNNING : Fld := ⟨0x600, 0, 1, 63, 1, .ro, 0⟩
def OPT.LOOP_STAT_FRAMES : Fld := ⟨0x600, 0, 1, 0, 32, .ro, 0⟩
def OPT.CRC_FAILS : Fld := ⟨0x808, 0, 1, 0, 64, .ro, 0⟩
def OPT.REPLAYS : Fld := ⟨0x810, 0, 1, 0, 64, .ro, 0⟩
def OPT.LANES_FAILED : Fld := ⟨0x818, 0, 1, 0, 64, .ro, 0⟩
def OPT.WIDTH_RETRAINS : Fld := ⟨0x820, 0, 1, 0, 64, .ro, 0⟩
def OPT.WIDTH_MISMATCH : Fld := ⟨0x828, 0, 1, 0, 64, .ro, 0⟩
def OPT.LINKS_LOST : Fld := ⟨0x830, 0, 1, 0, 64, .ro, 0⟩
def OPT.LOOP_ERRORS : Fld := ⟨0x838, 0, 1, 0, 64, .ro, 0⟩
def OPT.WINDOW_WAIT : Fld := ⟨0x840, 0, 1, 0, 64, .ro, 0⟩
def OPT.LINK_MAP_WIDTH : Fld := ⟨0xC00, 1, 200, 6, 2, .ro, 0⟩
def OPT.LINK_MAP_AGREED : Fld := ⟨0xC00, 1, 200, 4, 2, .ro, 3⟩
def OPT.LINK_MAP_STATE : Fld := ⟨0xC00, 1, 200, 0, 4, .ro, 0⟩

/-! Page type XBAR (R66). -/
def XBAR.XBAR_STAT_SLICE_GOOD : Fld := ⟨0x100, 0, 1, 32, 32, .ro, 0⟩
def XBAR.XBAR_STAT_TPORT_GOOD : Fld := ⟨0x100, 0, 1, 0, 4, .ro, 0⟩
def XBAR.XBAR_HALT : Fld := ⟨0x108, 0, 1, 0, 36, .ro, 0⟩
def XBAR.SLICE_UNITS : Fld := ⟨0x808, 0, 1, 0, 64, .ro, 0⟩
def XBAR.TPORT_UNITS : Fld := ⟨0x810, 0, 1, 0, 64, .ro, 0⟩
def XBAR.SITE_UNITS : Fld := ⟨0x818, 0, 1, 0, 64, .ro, 0⟩
def XBAR.PORT_REFUSED : Fld := ⟨0x820, 0, 1, 0, 64, .ro, 0⟩
def XBAR.PORT_UNITS : Fld := ⟨0xC00, 8, 36, 0, 64, .ro, 0⟩

/-! Page type SCRB (R432). -/
def SCRB.SCRB_STAT_BEHIND : Fld := ⟨0x100, 0, 1, 63, 1, .ro, 0⟩
def SCRB.SCRB_STAT_PAGE : Fld := ⟨0x100, 0, 1, 32, 15, .ro, 0⟩
def SCRB.SCRB_STAT_ELAPSED : Fld := ⟨0x100, 0, 1, 0, 32, .ro, 0⟩
def SCRB.SCRB_LAST : Fld := ⟨0x108, 0, 1, 0, 32, .ro, 0⟩
def SCRB.PASSES : Fld := ⟨0x808, 0, 1, 0, 64, .ro, 0⟩
def SCRB.BLOCKS : Fld := ⟨0x810, 0, 1, 0, 64, .ro, 0⟩
def SCRB.WRITEBACKS : Fld := ⟨0x818, 0, 1, 0, 64, .ro, 0⟩
def SCRB.STALE_REWRITES : Fld := ⟨0x820, 0, 1, 0, 64, .ro, 0⟩
def SCRB.SCRUB_UNCORR : Fld := ⟨0x828, 0, 1, 0, 64, .ro, 0⟩
def SCRB.AHEAD_TURNS : Fld := ⟨0x830, 0, 1, 0, 64, .ro, 0⟩

/-! Page type AGE (R433). -/
def AGE.AGE_PAIR_FAR : Fld := ⟨0xC00, 8, 4, 16, 16, .ro, 0⟩
def AGE.AGE_PAIR_NEAR : Fld := ⟨0xC00, 8, 4, 0, 16, .ro, 0⟩

/-! Page type WHS (R150). -/
def WHS.WHS_SEL_RING : Fld := ⟨0x040, 0, 1, 0, 3, .rw, 0⟩
def WHS.WHS_STAT_ACTIVE_CRC : Fld := ⟨0x100, 0, 1, 32, 32, .ro, 0⟩
def WHS.WHS_STAT_MIN_SLOTS : Fld := ⟨0x100, 0, 1, 16, 8, .ro, 0⟩
def WHS.WHS_STAT_STATIONS : Fld := ⟨0x100, 0, 1, 0, 6, .ro, 0⟩
def WHS.WHS_CTL_TAKE : Fld := ⟨0x200, 0, 1, 1, 1, .w1s, 0⟩
def WHS.WHS_CTL_CHECK : Fld := ⟨0x200, 0, 1, 0, 1, .w1s, 0⟩
def WHS.WHS_PEND_CRC : Fld := ⟨0x208, 0, 1, 0, 32, .rw, 0⟩
def WHS.WHS_CHECK_AT : Fld := ⟨0x600, 0, 1, 8, 8, .ro, 0⟩
def WHS.WHS_CHECK_RESULT : Fld := ⟨0x600, 0, 1, 0, 4, .ro, 0⟩
def WHS.WHS_FRAMES : Fld := ⟨0x808, 0, 1, 0, 64, .ro, 0⟩
def WHS.SLOTS_USED : Fld := ⟨0x810, 0, 1, 0, 64, .ro, 0⟩
def WHS.SLOTS_IDLE : Fld := ⟨0x818, 0, 1, 0, 64, .ro, 0⟩
def WHS.CHECK_FAILS : Fld := ⟨0x820, 0, 1, 0, 64, .ro, 0⟩
def WHS.MSG_CRC_ERR : Fld := ⟨0x828, 0, 1, 0, 64, .ro, 0⟩
def WHS.MSG_RESENDS : Fld := ⟨0x830, 0, 1, 0, 64, .ro, 0⟩
def WHS.WHS_PEND : Fld := ⟨0xC00, 1, 256, 0, 8, .rw, 0⟩
def WHS.WHS_ACTIVE : Fld := ⟨0xD00, 1, 256, 0, 8, .ro, 0⟩
def WHS.WHS_WEIGHT_W : Fld := ⟨0xE00, 1, 64, 4, 4, .rw, 0⟩
def WHS.WHS_WEIGHT_REACH : Fld := ⟨0xE00, 1, 64, 2, 2, .rw, 0⟩

/-! Page type PACK (R65). -/
def PACK.PACK_INV_SPARE_SHORT : Fld := ⟨0x100, 0, 1, 52, 6, .ro, 0⟩
def PACK.PACK_INV_SPARE_INV : Fld := ⟨0x100, 0, 1, 48, 4, .ro, 0⟩
def PACK.PACK_INV_SPARE_USED : Fld := ⟨0x100, 0, 1, 44, 4, .ro, 0⟩
def PACK.PACK_INV_SPARE_FREE : Fld := ⟨0x100, 0, 1, 40, 4, .ro, 0⟩
def PACK.PACK_INV_LOGICAL : Fld := ⟨0x100, 0, 1, 34, 6, .ro, 0⟩
def PACK.PACK_INV_SITE_GOOD : Fld := ⟨0x100, 0, 1, 0, 34, .ro, 0⟩
def PACK.PACK_MUZZLED : Fld := ⟨0x108, 0, 1, 0, 34, .ro, 0⟩
def PACK.PACK_LMAP_PRESENT : Fld := ⟨0xC00, 8, 32, 63, 1, .ro, 0⟩
def PACK.PACK_LMAP_SITE : Fld := ⟨0xC00, 8, 32, 0, 6, .ro, 0⟩

/-! Page type LYR (R433). -/
def LYR.LYR_STAT_FAILED : Fld := ⟨0x100, 0, 1, 63, 1, .ro, 0⟩
def LYR.LYR_STAT_RET_MARGIN : Fld := ⟨0x100, 0, 1, 16, 3, .ro, 0⟩
def LYR.LYR_STAT_FRAMES_RETIRED : Fld := ⟨0x100, 0, 1, 0, 16, .ro, 0⟩
def LYR.CORRECTED : Fld := ⟨0x808, 0, 1, 0, 64, .ro, 0⟩

/-! Page type SLC (R433). -/
def SLC.CORRECTED : Fld := ⟨0x808, 0, 1, 0, 64, .ro, 0⟩
def SLC.UNCORRECTED : Fld := ⟨0x810, 0, 1, 0, 64, .ro, 0⟩

/-! Page type CORE (R64, R86, R122). -/
def CORE.CORE_CTL_RESUME : Fld := ⟨0x040, 0, 1, 1, 1, .w1s, 0⟩
def CORE.CORE_CTL_HEEL_REQ : Fld := ⟨0x040, 0, 1, 0, 1, .w1s, 0⟩
def CORE.CORE_STAT_PHASE : Fld := ⟨0x100, 0, 1, 44, 4, .ro, 0⟩
def CORE.CORE_STAT_STEP : Fld := ⟨0x100, 0, 1, 32, 12, .ro, 0⟩
def CORE.CORE_STAT_WAIT : Fld := ⟨0x100, 0, 1, 20, 4, .ro, 0⟩
def CORE.CORE_STAT_STATE : Fld := ⟨0x100, 0, 1, 0, 3, .ro, 0⟩
def CORE.CORE_SITE_VALID : Fld := ⟨0x108, 0, 1, 31, 1, .ro, 0⟩
def CORE.CORE_SITE_D : Fld := ⟨0x108, 0, 1, 16, 3, .ro, 0⟩
def CORE.CORE_SITE_G : Fld := ⟨0x108, 0, 1, 12, 2, .ro, 0⟩
def CORE.CORE_SITE_P : Fld := ⟨0x108, 0, 1, 8, 2, .ro, 0⟩
def CORE.CORE_SITE_S : Fld := ⟨0x108, 0, 1, 0, 6, .ro, 0⟩
def CORE.CORE_FAULT_STEP : Fld := ⟨0x110, 0, 1, 32, 12, .ro, 0⟩
def CORE.CORE_FAULT_CODE : Fld := ⟨0x110, 0, 1, 0, 16, .ro, 0⟩
def CORE.CORE_GATE_NO_GATE : Fld := ⟨0x200, 0, 1, 0, 1, .rw, 0⟩
def CORE.LEASH_SEL_LINK : Fld := ⟨0x208, 0, 1, 0, 4, .rw, 0⟩
def CORE.LEASH_STAT_DEPTH : Fld := ⟨0x600, 0, 1, 24, 8, .ro, 0⟩
def CORE.LEASH_STAT_RETURNING : Fld := ⟨0x600, 0, 1, 16, 8, .ro, 0⟩
def CORE.LEASH_STAT_BUFFERED : Fld := ⟨0x600, 0, 1, 8, 8, .ro, 0⟩
def CORE.LEASH_STAT_HELD : Fld := ⟨0x600, 0, 1, 0, 8, .ro, 0⟩
def CORE.MAC_8 : Fld := ⟨0x808, 0, 1, 0, 64, .ro, 0⟩
def CORE.MAC_4 : Fld := ⟨0x810, 0, 1, 0, 64, .ro, 0⟩
def CORE.MAC_16 : Fld := ⟨0x818, 0, 1, 0, 64, .ro, 0⟩
def CORE.ARRAY_BUSY : Fld := ⟨0x820, 0, 1, 0, 64, .ro, 0⟩
def CORE.STALL_ROW : Fld := ⟨0x828, 0, 1, 0, 64, .ro, 0⟩
def CORE.STALL_COL : Fld := ⟨0x830, 0, 1, 0, 64, .ro, 0⟩
def CORE.INEXACT_ELEM : Fld := ⟨0x838, 0, 1, 0, 64, .ro, 0⟩
def CORE.SPECIAL_ELEM : Fld := ⟨0x840, 0, 1, 0, 64, .ro, 0⟩
def CORE.DRAIN_SAT : Fld := ⟨0x848, 0, 1, 0, 64, .ro, 0⟩
def CORE.MERGE_CNT : Fld := ⟨0x850, 0, 1, 0, 64, .ro, 0⟩
def CORE.CORE_PROG_ENTRY : Fld := ⟨0x118, 0, 1, 16, 12, .ro, 0⟩
def CORE.CORE_PROG_DEPTH : Fld := ⟨0x118, 0, 1, 0, 3, .ro, 0⟩
def CORE.SYNC_SEL_LINK : Fld := ⟨0x210, 0, 1, 0, 4, .rw, 0⟩
def CORE.ADDR_SEL_REG : Fld := ⟨0x218, 0, 1, 0, 4, .rw, 0⟩
def CORE.SYNC_STAT_FAR_CORE : Fld := ⟨0x608, 0, 1, 28, 12, .ro, 0⟩
def CORE.SYNC_STAT_FAR_LINK : Fld := ⟨0x608, 0, 1, 24, 4, .ro, 0⟩
def CORE.SYNC_STAT_DEPTH : Fld := ⟨0x608, 0, 1, 16, 8, .ro, 0⟩
def CORE.SYNC_STAT_HELD : Fld := ⟨0x608, 0, 1, 0, 8, .ro, 0⟩
def CORE.TOKEN_STAT : Fld := ⟨0x610, 0, 1, 0, 8, .ro, 0⟩
def CORE.ADDR_VAL : Fld := ⟨0x618, 0, 1, 0, 48, .ro, 0⟩
def CORE.STEPS_ISSUED : Fld := ⟨0x858, 0, 1, 0, 64, .ro, 0⟩
def CORE.STEPS_SKIPPED : Fld := ⟨0x860, 0, 1, 0, 64, .ro, 0⟩
def CORE.TOKEN_WAIT : Fld := ⟨0x868, 0, 1, 0, 64, .ro, 0⟩
def CORE.LEASH_WAIT : Fld := ⟨0x870, 0, 1, 0, 64, .ro, 0⟩

/-- Commands of a page completed with NOT_NOW (R300); every page has this counter. -/
def notNowCnt : Fld := ⟨0x800, 0, 1, 0, 64, .ro, 0⟩

/-- A row of Table — block types (R303): code, level, number of instances and first page index. -/
structure PageType where
  code : Nat
  level : Nat
  insts : Nat
  first : Nat
  expert : Bool
  table : Bool
  fields : List Fld
deriving DecidableEq, Repr

def PKG.page : PageType := ⟨0x01, 5, 1, 0x0000, false, false, [
  PKG.PKG_CTL_WARM_REQ, PKG.PKG_SCRATCH, PKG.PKG_INFO_PART, PKG.PKG_INFO_REV, PKG.PKG_INFO_DIES_UP, 
  PKG.PKG_INFO_LEAD, PKG.PKG_INFO_PSTATE, PKG.PKG_LIMITS_POWER_W, PKG.PKG_LIMITS_ACLK_MAX, 
  PKG.PKG_LIMITS_CORES_PER_PACK, PKG.PKG_UNITS_REGIONS_UP, PKG.PKG_UNITS_LOGICAL_CORES, PKG.PKG_MEM_MEM_GIB, 
  PKG.PKG_MEM_PAGES_UNBACKED, PKG.WARM_RESETS]⟩
def PWR.page : PageType := ⟨0x02, 5, 1, 0x0001, true, false, [
  PWR.PWR_MENU, PWR.PWR_STAT_PKG_W, PWR.PWR_STAT_LIMIT_W, PWR.PWR_DIE_PREF, PWR.PHASE_MARKS]⟩
def THM.page : PageType := ⟨0x03, 5, 1, 0x0002, true, false, [
  THM.THM_CTL_ALERT_ACK, THM.THM_STAT_DIE_MAX, THM.THM_STAT_TWR_MAX, THM.THM_STAT_OB_MAX, 
  THM.THM_STAT_BAND_MAX, THM.THM_STAT_TIER_MAX, THM.THM_STAT_CEIL, THM.THM_STAT_ALERT, THM.THM_STAT_TRIPPED, 
  THM.THM_STAT_DRAINED, THM.THM_STAT_COOL_WARN, THM.THM_STAT_COOL_LIMIT, THM.HEAT_INDEX, THM.SENS_SUSPECT, 
  THM.THM_XCTL_REBASE, THM.SENS_SEL_SENSOR, THM.SENS_VAL_SUSPECT, THM.SENS_VAL, THM.HIDDEN_HEAT, 
  THM.TWIN_DISAGREE, THM.COOL_WARNS, THM.DRAINS, THM.TRIPS]⟩
def EVT.page : PageType := ⟨0x04, 5, 1, 0x0003, false, false, [
  EVT.EVT_CFG_LOG2, EVT.EVT_CFG_MIN_SEV, EVT.EVT_CFG_LOC, EVT.EVT_CFG_ENABLE, EVT.EVT_BASE, EVT.EVT_HEAD, 
  EVT.EVT_STAT_TAIL, EVT.EVT_STAT_PHASE, EVT.EVT_STAT_ENABLED, EVT.EVT_STAT_QUEUED, EVT.BARKS_RAISED, 
  EVT.BARKS_WRITTEN, EVT.BARKS_FILTERED, EVT.BARKS_DROPPED]⟩
def LEDG.page : PageType := ⟨0x05, 5, 1, 0x0004, false, false, [
  LEDG.LEDG_SEL_RECORD, LEDG.LEDG_REC_RING, LEDG.LEDG_REC_PART, LEDG.LEDG_REC_PENDING, LEDG.LEDG_REC_BUSY, 
  LEDG.LEDG_REC_STATE, LEDG.LEDG_SUM_PENDING_CNT, LEDG.LEDG_SUM_LIVE, LEDG.WALK_BUSY, LEDG.WALK_UPDATES, 
  LEDG.RECORDS_LOST, LEDG.PENDING_WRITTEN]⟩
def METR.page : PageType := ⟨0x06, 5, 1, 0x0005, false, false, [
  METR.METR_CFG_ROOT_MS, METR.RCPT_CFG_LOG2, METR.RCPT_CFG_LOC, METR.RCPT_CFG_ENABLE, METR.RCPT_BASE, 
  METR.RCPT_HEAD, METR.RCPT_STAT_TAIL, METR.RCPT_STAT_PHASE, METR.RCPT_STAT_ENABLED, METR.ACCT_IDLE, 
  METR.ACCT_RESIDUE, METR.ACCT_LIVE, METR.ACCT_RECEIPTED, METR.ACCT_MEASURED, METR.METR_SEQ_ROOT_SEQ, 
  METR.METR_SEQ_RECEIPT_SEQ, METR.RECONCILES, METR.RECEIPTS, METR.ROOTS, METR.PMBUS_FAILS]⟩
def SEC.page : PageType := ⟨0x07, 5, 1, 0x0006, true, false, [
  SEC.ATT_CMD_OP, SEC.ATT_NONCE, SEC.ATT_ADDR, SEC.SEC_STAT_ROLLBACK, SEC.SEC_STAT_SLOT, SEC.SEC_STAT_FW_VER, 
  SEC.ATT_STAT_BUSY, SEC.ATT_STAT_STATUS, SEC.ID_DIGEST, SEC.MK_DIGEST, SEC.SEC_XCTL_ADVANCE, SEC.ATTESTS, 
  SEC.SIGNATURES, SEC.VERIFY_FAILS]⟩
def LIFE.page : PageType := ⟨0x08, 5, 1, 0x0007, false, false, [
  LIFE.NOTE_TIME, LIFE.LIFE_SEL_DIE, LIFE.LIFE_STAT_NOTE_IDX, LIFE.LIFE_STAT_WEAKEST, LIFE.LIFE_PRED_DAYS, 
  LIFE.LIFE_PRED_LOW, LIFE.LIFE_PRED_HIGH, LIFE.POWERED, LIFE.THERMAL_CYCLES, LIFE.ENERGY_J, LIFE.NOTES, 
  LIFE.LOG_WRITES]⟩
def BOOT.page : PageType := ⟨0x09, 5, 1, 0x0008, false, false, [
  BOOT.BOOT_CFG_HOST_NEXT, BOOT.BOOT_CFG_FRESH, BOOT.BOOT_CFG_SLOT_PREF, BOOT.BOOT_CMD_OP, BOOT.BOOT_CMD_SLOT, 
  BOOT.BOOT_HOST_ADDR, BOOT.BOOT_HOST_LEN, BOOT.BOOT_STAT_START_TIME, BOOT.BOOT_STAT_KIND, 
  BOOT.BOOT_STAT_VERIFY0, BOOT.BOOT_STAT_VERIFY1, BOOT.BOOT_STAT_VERIFYH, BOOT.BOOT_STAT_PHASE, 
  BOOT.BOOT_CMD_STAT_BUSY, BOOT.BOOT_CMD_STAT_STATUS, BOOT.STARTS_FAST, BOOT.STARTS_FULL, BOOT.SLOT_WRITES]⟩
def KENL.page : PageType := ⟨0x0A, 5, 1, 0x0009, true, false, [
  KENL.KENL_SEL_RECORD, KENL.KENL_STAT_FULL, KENL.KENL_STAT_RECORDS, KENL.KENL_STAT_COPY1_OK, 
  KENL.KENL_STAT_COPY0_OK, KENL.KENL_REC, KENL.KENL_ADD_ENTRY, KENL.COL_RETIRE_LIM, KENL.LYR_RETIRE_LIM, 
  KENL.KENL_ADDED, KENL.COPY_REPAIRS]⟩
def FLSH.page : PageType := ⟨0x0B, 4, 1, 0x000A, false, false, [
  FLSH.LOG_SEL, FLSH.NOTE_SEL_NOTE_IDX, FLSH.FLSH_STAT_BAD_BLOCKS, FLSH.FLSH_STAT_WEAR, FLSH.FLSH_NOTE, 
  FLSH.FLSH_LOG, FLSH.ERASES, FLSH.PROGRAM_FAILS, FLSH.COMPACTIONS, FLSH.NOTES_OVERWRITTEN]⟩
def PMB.page : PageType := ⟨0x0C, 5, 1, 0x000B, false, false, [
  PMB.PMB_STAT_RAILS_OK, PMB.PMB_READS, PMB.PMB_WRITES, PMB.PEC_FAILS, PMB.NACKS]⟩
def SMB.page : PageType := ⟨0x0D, 5, 1, 0x000C, false, false, [
  SMB.SMB_STAT_ADDR, SMB.SMB_READS, SMB.SMB_REFUSED, SMB.SMB_PEC_FAILS, SMB.SMB_TIMEOUTS]⟩
def RST.page : PageType := ⟨0x0E, 5, 1, 0x000D, true, false, [
  RST.RST_CMD_OP, RST.RST_CMD_PART, RST.RST_STAT_RUNNING, RST.RST_STAT_LAST_SCOPE, RST.RST_STAT_LAST_TARGET, 
  RST.RST_STAT_LAST_STATUS, RST.RST_XCMD_OP, RST.RST_XCMD_TARGET, RST.CORE_RESETS, RST.PACK_RESETS, 
  RST.TOWER_RESETS, RST.PART_RESETS, RST.ITEMS_DRAINED, RST.ITEMS_ABSORBED, RST.LEASHES_RETURNED, 
  RST.CPL_AS_BARK]⟩
def ECC.page : PageType := ⟨0x0F, 5, 1, 0x000E, true, true, [
  ECC.ECC_LEAK_LEAK_S, ECC.CORR_TOWER, ECC.CORR_DIE, ECC.UNCORR_SRAM, ECC.OVERFLOWS, ECC.ECC_BUCKET_OVERFLOWS, 
  ECC.ECC_BUCKET_LEVEL]⟩
def JTAG.page : PageType := ⟨0x10, 5, 1, 0x000F, true, false, [
  JTAG.JTAG_STAT_LOCKED, JTAG.JTAG_STAT_STANDALONE, JTAG.JTAG_STAT_ACTIVE, JTAG.JTAG_XCTL_LOCK, 
  JTAG.PAGE_READS]⟩
def KAT.page : PageType := ⟨0x11, 5, 1, 0x0010, true, false, [
  KAT.KAT_STAT_BUSY, KAT.KAT_STAT_FAILS_LAST, KAT.KAT_LAST_ENTRY, KAT.KAT_CMD_OP, KAT.KAT_CMD_REGION, 
  KAT.KAT_RUNS, KAT.KAT_FAILS]⟩
def RSA.page : PageType := ⟨0x12, 5, 1, 0x0011, false, false, [
  RSA.RSA_STAT_WAITING, RSA.RSA_STAT_ENGINE, RSA.RSA_STAT_MK_OK, RSA.RSA_STAT_ID_OK, RSA.RSA_LAT_SIGN_MAX, 
  RSA.SIGN_ROOT, RSA.SIGN_ATTEST, RSA.BATCH_WAITS]⟩
def RNG.page : PageType := ⟨0x13, 5, 1, 0x0012, false, false, [
  RNG.RNG_STAT_FAILED, RNG.RNG_STAT_SEEDED, RNG.RESEEDS, RNG.HEALTH_FAILS]⟩
def CLNT.page : PageType := ⟨0x14, 5, 1, 0x0013, true, true, [
  CLNT.CLNT_CFG_LIMIT_PCT, CLNT.CLNT_CFG_WARN_PCT, CLNT.SAMPLES, CLNT.DIE_INDEX, CLNT.DIE_INDEX_STAMP, 
  CLNT.DIE_BASE]⟩
def SPR.page : PageType := ⟨0x15, 5, 1, 0x0014, false, false, [
  SPR.SPR_SITES_INV, SPR.SPR_SITES_USED, SPR.SPR_SITES_FREE, SPR.SPR_FRAMES_INV, SPR.SPR_FRAMES_USED, 
  SPR.SPR_FRAMES_FREE, SPR.SPR_BLANES_INV, SPR.SPR_BLANES_USED, SPR.SPR_BLANES_FREE, SPR.SPR_OLANES_INV, 
  SPR.SPR_OLANES_USED, SPR.SPR_OLANES_FREE]⟩
def TRIP.page : PageType := ⟨0x16, 5, 1, 0x0015, true, false, [
  TRIP.TRIP_STAT_CAUSE, TRIP.TRIP_STAT_DIE, TRIP.TRIP_STAT_STAMP, TRIP.TRIP_CFG_DTDT_DIES, 
  TRIP.TRIP_CFG_DTDT_LIM, TRIP.ITEMS_THERMAL]⟩
def HLK.page : PageType := ⟨0x17, 5, 2, 0x0016, true, false, [
  HLK.HLK_CTL_SYS_PORT, HLK.HLK_CTL_HOME, HLK.HLK_STAT_AGREED, HLK.HLK_STAT_WIDTH, HLK.HLK_STAT_STATE, 
  HLK.HLK_STAT_NEXT_SEQ, HLK.HLK_STAT_ACCEPTED, HLK.HLK_LANES_USABLE, HLK.HLK_LANES_FAILED, 
  HLK.HLK_LANES_REVERSED, HLK.HLK_CREDIT_HELD_P, HLK.HLK_CREDIT_HELD_N, HLK.HLK_CREDIT_ADV_P, 
  HLK.HLK_CREDIT_ADV_N, HLK.HLK_TAGS_HOST_TAGS, HLK.HLK_TAGS_DEV_TAGS, HLK.LANE_LIM, HLK.CPL_TIMEOUT, 
  HLK.HLK_CMD_OP, HLK.FLITS_DISCARDED, HLK.CW_UNCORR, HLK.REPLAYS, HLK.PORT_FAILS, HLK.BAD_REQ, 
  HLK.CPL_TIMEOUTS, HLK.LATE_CPL, HLK.LANE_CORR]⟩
def LASR.page : PageType := ⟨0x18, 4, 2, 0x0018, false, false, [
  LASR.LASR_STAT_BASE_SHARED, LASR.LASR_STAT_BASE_SOLE, LASR.LASR_STAT_CREEP]⟩
def DIE.page : PageType := ⟨0x19, 4, 8, 0x0020, false, true, [
  DIE.DIE_STAT_OP_CEIL, DIE.DIE_STAT_OP_PREF, DIE.DIE_STAT_STEWARDS, DIE.DIE_STAT_STATE, DIE.DIE_UNITS_REDUCED, 
  DIE.DIE_UNITS_LOGICAL, DIE.DIE_SPARES_SPARE_INV, DIE.DIE_SPARES_SPARE_USED, DIE.DIE_SPARES_SPARE_FREE, 
  DIE.DIE_FUSE_FIELD_FREE, DIE.DIE_STAMP_STAMP, DIE.MUZZLES, DIE.KAT_FAILS, DIE.PRESENT]⟩
def PART.page : PageType := ⟨0x1A, 0, 8, 0x0028, false, true, [
  PART.PLAN_CMD_OP, PART.PLAN_ADDR, PART.PLAN_LOC, PART.RING_SEL_RING, PART.RING_CFG_NOTIFY, 
  PART.RING_CFG_CQ_LOC, PART.RING_CFG_SQ_LOC, PART.RING_CFG_CQ_LOG2, PART.RING_CFG_SQ_LOG2, 
  PART.RING_CFG_ENABLE, PART.SQ_BASE, PART.CQ_BASE, PART.RING_CTL_ABORT, PART.PART_STAT_STATE, 
  PART.PART_STAT_REGIONS, PART.PLAN_STAT_BUSY, PART.PLAN_STAT_STATUS, PART.MAP_EPOCH_EPOCH, 
  PART.RING_STAT_CQ_TAIL, PART.RING_STAT_SQ_HEAD, PART.RING_STAT_PHASE, PART.RING_STAT_ENABLED, 
  PART.PLAN_DIGEST, PART.RING_ISSUED, PART.RING_COMPLETED, PART.RING_FAILED, PART.RING_OUTSTANDING, 
  PART.RING_STREAM_CPL, PART.CQ_FULL_WAIT, PART.STREAMS_OPENED, PART.STREAMS_ENDED, PART.STREAMS_FAILED, 
  PART.STREAMS_LIVE, PART.STREAMS_RELEASED, PART.PLAN_LOADS, PART.SQ_TAIL, PART.CQ_HEAD]⟩
def CLK.page : PageType := ⟨0x1B, 4, 8, 0x0030, true, true, [
  CLK.CLK_STAT_RC, CLK.CLK_STAT_PART_CEIL, CLK.CLK_STAT_THERM_CEIL, CLK.CLK_STAT_COOL_CEIL, 
  CLK.CLK_STAT_AGE_CEIL, CLK.CLK_STAT_PWR_CEIL, CLK.CLK_STAT_TARGET, CLK.CLK_STAT_POINT, CLK.CLK_VOLT_G, 
  CLK.CLK_VOLT_VDD_M, CLK.CLK_VOLT_VDD_A, CLK.CLK_AGE_SLACK_MIN, CLK.POINT_CHANGES, CLK.RC_CHANGES, 
  CLK.THERM_STEPS, CLK.VTABLE_VDD_M, CLK.VTABLE_VDD_A]⟩
def FUSE.page : PageType := ⟨0x1C, 4, 8, 0x0038, false, true, [
  FUSE.FUSE_STAT_FACTORY_BAD, FUSE.FUSE_STAT_FIELD_USED, FUSE.FUSE_STAT_PART_MATCH, FUSE.FUSE_STAT_MATCH, 
  FUSE.FUSE_STAT_COPY_B_OK, FUSE.FUSE_STAT_COPY_A_OK, FUSE.FIELD_ENTRY_HI, FUSE.FIELD_ENTRY_LO]⟩
def ACT.page : PageType := ⟨0x1D, 4, 8, 0x0040, false, true, [
  ACT.ACT_COUNT, ACT.ACT_WEIGHT]⟩
def DBG.page : PageType := ⟨0x1E, 4, 8, 0x0048, false, false, [
  DBG.DBG_CHECK, DBG.DBG_MODE_STANDALONE]⟩
def STEW.page : PageType := ⟨0x1F, 4, 16, 0x0050, false, false, [
  STEW.STEW_STAT_ROLE, STEW.STEW_STAT_STATE]⟩
def RAIL.page : PageType := ⟨0x20, 4, 44, 0x0080, true, false, [
  RAIL.RAIL_STAT_LIMIT, RAIL.RAIL_STAT_VOUT, RAIL.RAIL_STAT_EST, RAIL.RAIL_STAT_MEAS_W, RAIL.RAIL_SET, 
  RAIL.PROT_STEPS, RAIL.OVER_NOLIM, RAIL.VOUT_FAILS]⟩
def TZON.page : PageType := ⟨0x21, 4, 41, 0x00C0, false, true, [
  TZON.TZON_STAT_TEMP, TZON.TZON_STAT_SENS_MAX, TZON.TZON_STAT_MODEL_MAX, TZON.TZON_STAT_HOLD, 
  TZON.TZON_STAT_HIDDEN, TZON.HIDDEN_EVENTS, TZON.SENSOR_FAILS, TZON.CYCLES, TZON.ZONE_ENTRY_SUSPECT, 
  TZON.ZONE_ENTRY_MODEL, TZON.ZONE_ENTRY_S1, TZON.ZONE_ENTRY_S0]⟩
def RGN.page : PageType := ⟨0x22, 3, 32, 0x0100, true, true, [
  RGN.RGN_STAT_HELD, RGN.RGN_STAT_PART, RGN.RGN_STAT_IN_SET, RGN.RGN_STAT_STATE, RGN.RGN_XCMD_OP, 
  RGN.RGN_XCMD_USER, RGN.TOWER_RESETS, RGN.MUZZLES, RGN.ITEMS_FENCED, RGN.RECON_FAILS, RGN.HELD_MAP]⟩
def TWR.page : PageType := ⟨0x23, 3, 32, 0x0120, true, true, [
  TWR.TWR_CMD_OP, TWR.TWR_CMD_PERM, TWR.TWR_CMD_PART, TWR.TWR_CMD_PAGE, TWR.TWR_CMD_STAT_BUSY, 
  TWR.TWR_CMD_STAT_STATUS, TWR.MAP_SEL_PAGE, TWR.TWR_LAT_CTL_LAT_RESTART, TWR.TWR_STAT_DEBT_MAX, 
  TWR.TWR_STAT_BAND, TWR.TWR_STAT_TIER, TWR.TWR_STAT_PLAN, TWR.TWR_SPARE_SPARE_INV, TWR.TWR_SPARE_SPARE_USED, 
  TWR.TWR_SPARE_SPARE_FREE, TWR.TWR_SPARE_PAGES_UNBACKED, TWR.TWR_SPARE_COLS_FAILED, TWR.MAP_ENTRY, 
  TWR.HOST_LAT_MAX, TWR.TWR_XCMD_OP, TWR.TWR_XCMD_PAGE, TWR.SUSPECT_LIM, TWR.SWEEP_STAT_ACTIVE, 
  TWR.SWEEP_STAT_BLOCK, TWR.SWEEP_STAT_PAGE, TWR.SUSPECT_CNT, TWR.HOST_READS, TWR.HOST_WRITES, TWR.FETCH_TURNS, 
  TWR.READ_SKIPS, TWR.STALE_ZERO, TWR.CORRECTED, TWR.UNCORRECTED, TWR.FRAMES_RETIRED, TWR.CLEARS, TWR.SWEEPS, 
  TWR.CLEAR_WAITS, TWR.FILLS, TWR.REFRESH_OPS, TWR.REFRESH_HOLE, TWR.REFRESH_IDLE, TWR.STRETCHES, 
  TWR.STRETCH_FORCED, TWR.MIGRATIONS, TWR.COL_STAT_FAILED, TWR.COL_STAT_DEBT, TWR.COL_STAT_FREE]⟩
def FLR.page : PageType := ⟨0x24, 3, 32, 0x0140, true, true, [
  FLR.FLR_CTL_RESUME, FLR.FLR_CTL_HEEL_REQ, FLR.FLR_STAT_CMD, FLR.FLR_STAT_WAIT, FLR.FLR_STAT_TIER, 
  FLR.FLR_STAT_STATE, FLR.FLR_FAULT_COLUMN, FLR.FLR_FAULT_CMD, FLR.FLR_FAULT_CODE, FLR.FLR_SEQ_ENTRY, 
  FLR.FLR_TIER_MIN_MIN, FLR.SEQ_STARTED, FLR.SEQ_DONE, FLR.SEQ_FAILED, FLR.CMDS, FLR.MAC_8, FLR.MAC_4, 
  FLR.ACTIVATIONS, FLR.CAP_WAIT, FLR.GAP_WAIT, FLR.SPACE_WAIT, FLR.STRETCH_PAUSE, FLR.HOLES, FLR.TURNS, 
  FLR.INEXACT_ACC, FLR.SPECIAL_ACC, FLR.TIER_CHANGES, FLR.TIER_TIME]⟩
def ORD.page : PageType := ⟨0x25, 3, 32, 0x0160, true, true, [
  ORD.ORD_SEL_PORT, ORD.ORD_WIN_FIRST, ORD.ORD_STAT_TURN, ORD.ORD_STAT_ENTRY, ORD.ORD_STAT_TOKEN, 
  ORD.ORD_STAT_USER, ORD.ORD_STAT_KIND, ORD.ORD_FAULT_VALID, ORD.ORD_FAULT_COND, ORD.ORD_FAULT_PORT, 
  ORD.ORD_FAULT_USER, ORD.ORD_FAULT_STEP, ORD.ORD_FAULT_TURN, ORD.ORD_FAULT_FLOOR, ORD.ORD_OUT, 
  ORD.ORD_WDOG_LIMIT, ORD.SCHED_FAULTS, ORD.TOK_GRANTS, ORD.TOK_RELEASES, ORD.TOK_RETURNED, ORD.TURN_SKIPPED, 
  ORD.TOK_RESENDS, ORD.TOKEN_STALLS, ORD.ORD_LIST_ODD, ORD.ORD_LIST_EVEN]⟩
def OPT.page : PageType := ⟨0x26, 3, 32, 0x0180, true, true, [
  OPT.OPT_SEL_LINK, OPT.LINK_STAT_LAT, OPT.LINK_STAT_SPARE_USED, OPT.LINK_STAT_AGREED, OPT.LINK_STAT_WIDTH, 
  OPT.LINK_STAT_STATE, OPT.LINK_STAT_UNACKED, OPT.LINK_LANES_WEAKEST, OPT.LINK_LANES_MARGIN_MIN, 
  OPT.LINK_LANES_FAILED, OPT.COMB_STAT_BIAS1, OPT.COMB_STAT_BIAS0, OPT.COMB_STAT_COMB1, OPT.COMB_STAT_COMB0, 
  OPT.OPT_CMD_OP, OPT.CRC_LIM, OPT.MARGIN_THR, OPT.LOOP_STAT_RUNNING, OPT.LOOP_STAT_FRAMES, OPT.CRC_FAILS, 
  OPT.REPLAYS, OPT.LANES_FAILED, OPT.WIDTH_RETRAINS, OPT.WIDTH_MISMATCH, OPT.LINKS_LOST, OPT.LOOP_ERRORS, 
  OPT.WINDOW_WAIT, OPT.LINK_MAP_WIDTH, OPT.LINK_MAP_AGREED, OPT.LINK_MAP_STATE]⟩
def XBAR.page : PageType := ⟨0x27, 3, 32, 0x01A0, false, true, [
  XBAR.XBAR_STAT_SLICE_GOOD, XBAR.XBAR_STAT_TPORT_GOOD, XBAR.XBAR_HALT, XBAR.SLICE_UNITS, XBAR.TPORT_UNITS, 
  XBAR.SITE_UNITS, XBAR.PORT_REFUSED, XBAR.PORT_UNITS]⟩
def SCRB.page : PageType := ⟨0x28, 3, 32, 0x01C0, false, false, [
  SCRB.SCRB_STAT_BEHIND, SCRB.SCRB_STAT_PAGE, SCRB.SCRB_STAT_ELAPSED, SCRB.SCRB_LAST, SCRB.PASSES, SCRB.BLOCKS, 
  SCRB.WRITEBACKS, SCRB.STALE_REWRITES, SCRB.SCRUB_UNCORR, SCRB.AHEAD_TURNS]⟩
def AGE.page : PageType := ⟨0x29, 3, 32, 0x01E0, false, true, [
  AGE.AGE_PAIR_FAR, AGE.AGE_PAIR_NEAR]⟩
def WHS.page : PageType := ⟨0x2A, 3, 33, 0x0200, true, true, [
  WHS.WHS_SEL_RING, WHS.WHS_STAT_ACTIVE_CRC, WHS.WHS_STAT_MIN_SLOTS, WHS.WHS_STAT_STATIONS, WHS.WHS_CTL_TAKE, 
  WHS.WHS_CTL_CHECK, WHS.WHS_PEND_CRC, WHS.WHS_CHECK_AT, WHS.WHS_CHECK_RESULT, WHS.WHS_FRAMES, WHS.SLOTS_USED, 
  WHS.SLOTS_IDLE, WHS.CHECK_FAILS, WHS.MSG_CRC_ERR, WHS.MSG_RESENDS, WHS.WHS_PEND, WHS.WHS_ACTIVE, 
  WHS.WHS_WEIGHT_W, WHS.WHS_WEIGHT_REACH]⟩
def PACK.page : PageType := ⟨0x2B, 2, 128, 0x0400, false, true, [
  PACK.PACK_INV_SPARE_SHORT, PACK.PACK_INV_SPARE_INV, PACK.PACK_INV_SPARE_USED, PACK.PACK_INV_SPARE_FREE, 
  PACK.PACK_INV_LOGICAL, PACK.PACK_INV_SITE_GOOD, PACK.PACK_MUZZLED, PACK.PACK_LMAP_PRESENT, 
  PACK.PACK_LMAP_SITE]⟩
def LYR.page : PageType := ⟨0x2C, 4, 512, 0x0600, false, false, [
  LYR.LYR_STAT_FAILED, LYR.LYR_STAT_RET_MARGIN, LYR.LYR_STAT_FRAMES_RETIRED, LYR.CORRECTED]⟩
def SLC.page : PageType := ⟨0x2D, 1, 1024, 0x0800, false, false, [
  SLC.CORRECTED, SLC.UNCORRECTED]⟩
def CORE.page : PageType := ⟨0x2E, 1, 4096, 0x1000, true, false, [
  CORE.CORE_CTL_RESUME, CORE.CORE_CTL_HEEL_REQ, CORE.CORE_STAT_PHASE, CORE.CORE_STAT_STEP, CORE.CORE_STAT_WAIT, 
  CORE.CORE_STAT_STATE, CORE.CORE_SITE_VALID, CORE.CORE_SITE_D, CORE.CORE_SITE_G, CORE.CORE_SITE_P, 
  CORE.CORE_SITE_S, CORE.CORE_FAULT_STEP, CORE.CORE_FAULT_CODE, CORE.CORE_GATE_NO_GATE, CORE.LEASH_SEL_LINK, 
  CORE.LEASH_STAT_DEPTH, CORE.LEASH_STAT_RETURNING, CORE.LEASH_STAT_BUFFERED, CORE.LEASH_STAT_HELD, CORE.MAC_8, 
  CORE.MAC_4, CORE.MAC_16, CORE.ARRAY_BUSY, CORE.STALL_ROW, CORE.STALL_COL, CORE.INEXACT_ELEM, 
  CORE.SPECIAL_ELEM, CORE.DRAIN_SAT, CORE.MERGE_CNT, CORE.CORE_PROG_ENTRY, CORE.CORE_PROG_DEPTH, 
  CORE.SYNC_SEL_LINK, CORE.ADDR_SEL_REG, CORE.SYNC_STAT_FAR_CORE, CORE.SYNC_STAT_FAR_LINK, 
  CORE.SYNC_STAT_DEPTH, CORE.SYNC_STAT_HELD, CORE.TOKEN_STAT, CORE.ADDR_VAL, CORE.STEPS_ISSUED, 
  CORE.STEPS_SKIPPED, CORE.TOKEN_WAIT, CORE.LEASH_WAIT]⟩

/-- Table — block types (R303), in the order of the codes. -/
def pageTypes : List PageType := [
  PKG.page, PWR.page, THM.page, EVT.page, LEDG.page, METR.page, SEC.page, LIFE.page, BOOT.page, KENL.page, 
  FLSH.page, PMB.page, SMB.page, RST.page, ECC.page, JTAG.page, KAT.page, RSA.page, RNG.page, CLNT.page, 
  SPR.page, TRIP.page, HLK.page, LASR.page, DIE.page, PART.page, CLK.page, FUSE.page, ACT.page, DBG.page, 
  STEW.page, RAIL.page, TZON.page, RGN.page, TWR.page, FLR.page, ORD.page, OPT.page, XBAR.page, SCRB.page, 
  AGE.page, WHS.page, PACK.page, LYR.page, SLC.page, CORE.page]

/-- Page index of instance `i` of a type (R303). -/
def PageType.pg (t : PageType) (i : Nat) : Nat := t.first + i

/-- The type a page index belongs to, or none where Table — block types assigns it to no instance (R300). -/
def pageTypeOf (pg : Nat) : Option PageType :=
  pageTypes.find? (fun t => t.first ≤ pg && pg < t.first + t.insts)

end Sys2Proof.Machine
end

