-- ==== Sys2Proof/Config.lean ====
section
/-!
DEFINITION. What a part, its fuses and its implementation fix, and the values the spec leaves open as constants
without a body.
-/
namespace Sys2Proof

/-- The parts of Table — parts covered (R2). -/
inductive Part where
  | ist8432 | ist8428 | ist8416
deriving DecidableEq, Repr

namespace Config

/-- PKG_INFO.PART. -/
def partCode : Part → Nat
  | .ist8432 => 0x8432 | .ist8428 => 0x8428 | .ist8416 => 0x8416

def coresPerPack : Part → Nat
  | .ist8428 => 28 | _ => 32

/-- Package limit in W, A clock ceiling in MHz, memory in GiB (R2). -/
def powerW : Part → Nat
  | .ist8432 => 3200 | .ist8428 => 2800 | .ist8416 => 2400
def aclkMax : Part → Nat
  | .ist8416 => 800 | _ => 940
def memGib : Part → Nat
  | .ist8416 => 1024 | _ => 2048

/-- Logical pages of a tower and frames of a bank column (R32, R153). -/
def pages : Part → Nat
  | .ist8416 => 16384 | _ => 32768
def framesPerCol : Part → Nat
  | .ist8416 => 128 | _ => 256
/-- DRAM layers in use. -/
def layers : Part → Nat
  | .ist8416 => 8 | _ => 16
/-- SPARE_INV of a tower (R180). -/
def spareFrames (p : Part) : Nat := 136 * framesPerCol p - pages p

/-- Part ceiling of ACLK_MAX (R343). -/
def partCeil : Part → Nat
  | .ist8416 => 2 | _ => 0

/-- Fused limit of a RAIL instance in 0.1 A (R376). -/
def railLimit (p : Part) (r : Nat) : Nat :=
  if r < 40 then
    let row : List Nat := match p with
      | .ist8432 => [1900, 620, 1600, 100, 20]
      | .ist8428 => [1660, 540, 1400, 100, 20]
      | .ist8416 => [1600, 540, 1160, 60, 12]
    row.getD (r / 8) 0
  else [1300, 350, 450, 100].getD (r - 40) 0

/-- Nominal VDD_A and VDD_M of an operating point in mV (R379). -/
def nominalMv (q : Nat) : Nat := [850, 820, 780, 740, 700, 670, 640, 600].getD q 0

/-- A clock of an operating point in MHz (R379). -/
def aclk (q : Nat) : Nat := [940, 880, 800, 720, 640, 560, 470, 235].getD q 0

/-! ## Fused per module: values the spec bounds or names and does not give -/

/-- Silicon revision. -/
opaque revision : BitVec 8
/-- Place of a die's voltage for a point within the 70 mV about nominal (R379); `m` for VDD_M. -/
opaque vtableStep : Nat → Nat → Bool → Fin 71
/-- Weights of the activity groups of a die, 0.01 pC (R384). -/
opaque actWeight : Nat → Nat → BitVec 32
/-- Leakage of a rail kind of a die in mA, by temperature in 5 °C steps and voltage in mV (R384). -/
opaque leakMa : Nat → Nat → Int → Nat → Nat
/-- Heat-path baseline of a die from the assembly test, 0.001 °C/W (R399). -/
opaque dieBase : Nat → BitVec 32
/-- Bias of a comb at the assembly test, shared and sole, 0.1 mA. -/
opaque combBase : Nat → Bool → BitVec 16
/-- Root key digest fused on a die (R439, R440). -/
opaque rootDigest : Nat → BitVec 512
/-- Latency of a link as LINK_STAT shows it. -/
opaque linkLat : Nat → BitVec 8

/-- VTABLE: voltage of a die at a point before the guard, in mV. -/
def vtable (die q : Nat) (m : Bool) : Nat := nominalMv q - 40 + (vtableStep die q m).val

/-- Registers whose reset value is fused, by page and offset. -/
def fusedWord (p : Part) (pg off : Nat) : Option Nat :=
  if pg < 0x30 then
    if pg == 0 then
      if off == 0x100 then some (partCode p * 2 ^ 32 + revision.toNat * 2 ^ 24)
      else if off == 0x108 then some (powerW p * 2 ^ 32 + aclkMax p * 2 ^ 6 + coresPerPack p)
      else if off == 0x118 then some (memGib p * 2 ^ 48)
      else none
    else if pg == 1 then if off == 0x100 then some (powerW p * 2 ^ 16) else none
    else if pg == 0x13 then
      if 0xC40 ≤ off && off < 0xC80 then some (dieBase ((off - 0xC40) / 8)).toNat else none
    else if pg == 0x18 || pg == 0x19 then
      if off == 0x100 then
        some ((combBase (pg - 0x18) false).toNat * 2 ^ 32 + (combBase (pg - 0x18) true).toNat * 2 ^ 16)
      else none
    else none
  else if pg < 0x38 then
    let die := pg - 0x30
    if off == 0x100 then some (6 * 2 ^ 24 + partCeil p * 2 ^ 21 + 6 * 2 ^ 6 + 6 * 2 ^ 3)
    else if off == 0x108 then some (680 * 2 ^ 12 + 680)
    else if 0xC00 ≤ off && off < 0xC40 then
      some (vtable die ((off - 0xC00) / 8) true * 2 ^ 12 + vtable die ((off - 0xC00) / 8) false)
    else none
  else if 0x40 ≤ pg && pg < 0x48 then
    if 0xC00 ≤ off && off < 0xC90 then some (actWeight (pg - 0x40) ((off - 0xC00) / 8)).toNat else none
  else if 0x80 ≤ pg && pg < 0xAC then
    if off == 0x100 then some (railLimit p (pg - 0x80) * 2 ^ 48)
    else if off == 0x200 then some (railLimit p (pg - 0x80))
    else none
  else if pg == 0x220 then if off == 0x040 then some 7 else none
  else none

/-! ## Free values -/

/-- Condition recorded for a unit on a vertical channel that belongs to no running step (R137 names none). -/
opaque freeCond : Nat → BitVec 3

/-- The lane CVT_FROM gives for a source that is no packed row in memory (kinds 2 and 3). -/
opaque freeLane : Nat → BitVec 32

/-- The step programs of a known-answer section of a firmware image: how many steps, and each step (R323 gives the section no layout). -/
opaque katSteps : List (BitVec 8) → Fin 4097
opaque katStep : List (BitVec 8) → Nat → BitVec 128

/-- State in which the PRBS31 of a loop-back begins (R233 names no seed). -/
opaque freePrbs : Nat → BitVec 31

/-- Preset that a port's receiver asks of the far transmitter on a lane, modulo 11 (R270 leaves how it is chosen to the receiver). -/
opaque eqWant : Nat → Nat → BitVec 4

/-- Would the estimate of VDD_LZ exceed its limit with the other comb at full bias (R378 gives no formula)? -/
opaque combOverLimit : Nat → Bool

/-- The placement firmware gives a ring's slots (R146 asks only that it meet the gap limit). -/
opaque freeSlotTable : Nat → Nat → Nat → List (BitVec 8)

/-- Payload words of a whistle message of a type that carries a payload (R143 gives 0 to 14 and names none for a type). -/
opaque whsPayload : Nat → Fin 15

/-- MIN_SLOTS where every station with weight owns all 256 slots of a frame, which 8 bits do not hold (R150). -/
opaque freeMinSlots : BitVec 8

/-- SEQ and SQ_IDX of a STREAM completion that no descriptor's step caused, or that covers several (R248, R260). -/
opaque freeSeq : Nat → BitVec 48

/-- The code that bark 0x1A01 carries for a check of a plan image (R305 names none). -/
opaque freeCheck : Nat → BitVec 8

/-- The section index of bark 0x1A01 when no one section is at fault. -/
opaque freeSection : Nat → BitVec 32

/-- Link and leash counts that bark 0x2202 shows for a site whose ends disagree (the command names the site alone). -/
opaque freeRecon : Nat → BitVec 32

/-- Estimate of a rail that has no limiter, in 0.1 A (R378: its loads are not activity). -/
opaque fixedEst : Nat → Nat → BitVec 16

/-- Which of two units an event concerns where its rule names neither: the regulator that did not confirm (R383), the twin that
lies as far from the model as the other (R391). -/
opaque freeBit : Nat → Bool

/-- Estimate of a node of a tower's thermal model: 0 the base die, 1 + L the layers, 17 the interface, in 1/16 °C (R393 gives
its inputs and no formula). -/
opaque towerNode : Nat → Nat → Nat → Int

/-- Estimate of a die's hot-spot model, in 1/16 °C (R391). -/
opaque hotSpot : Nat → Nat → Nat → Int

/-- Estimates of a stream's life in a receipt that is issued again after a warm reset, which no record keeps (R455). -/
opaque freeEst : Nat → BitVec 64

/-- Code of a store in bark 0x0F02 (R430 names none): 0 step memory, 1 scratch, 2 accumulator memory, 3 slice, 4 floor stores,
5 block bitmap, 6 page map, 7 housekeeping, 8 steward, 9 link buffer. -/
opaque storeCode : Nat → BitVec 8

/-- Slack of a die's path monitors per mV of guard, 0.1 % of an A-cycle (R420 calls it fused). -/
opaque slackPerMv : Nat → Nat

/-- RSASSA-PSS signature of a message under the identity key, or the metering key, with the salt of the n-th draw (R438). -/
opaque signature : Bool → List (BitVec 8) → Nat → BitVec 4096

/-- Moduli of the identity key and of the metering key: a module's own, made inside it (R435). -/
opaque idModulus : BitVec 4096
opaque mkModulus : BitVec 4096

end Config
end Sys2Proof
end

