-- ==== Sys2Proof/Machine/Numerics.lean ====
section
/-!
DEFINITION. Exact arithmetic of the number formats: dyadic values, rounding to nearest-even, binary32 operations, the
four special functions, element decode, chunks, promotion, drains and conversions (chapter 3, R57, R58, R111, R114).
-/
namespace Sys2Proof.Machine

/-- A value in IEEE terms: NaN, an infinity, or `±m × 2^e` with the sign of a zero kept. -/
inductive FVal where
  | nan
  | inf (neg : Bool)
  | fin (neg : Bool) (m : Nat) (e : Int)
deriving DecidableEq, Repr

/-- The quiet NaN every operation returns (R58). -/
def qnan : BitVec 32 := 0x7FC00000#32

/-- `2^n` for a non-negative integer exponent; negative exponents do not occur where it is used. -/
def pow2 (n : Int) : Int := 2 ^ n.toNat

/-- The value of an IEEE pattern with `eb` exponent and `mb` mantissa bits. -/
def decodeIeee (eb mb : Nat) (b : Nat) : FVal :=
  let neg := b / 2 ^ (eb + mb) % 2 == 1
  let ex := b / 2 ^ mb % 2 ^ eb
  let m := b % 2 ^ mb
  let bias : Int := 2 ^ (eb - 1) - 1
  if ex == 2 ^ eb - 1 then (if m == 0 then .inf neg else .nan)
  else if ex == 0 then .fin neg m (1 - bias - mb)
  else .fin neg (m + 2 ^ mb) (ex - bias - mb)

/-- A magnitude rounded to nearest-even: pattern without sign, whether it overflowed, and whether it is inexact. -/
structure Rounded where
  bits : Nat
  overrun : Bool
  inexact : Bool
deriving DecidableEq, Repr

/-- Round `m × 2^e`, with `sticky` telling of a non-zero tail below `m`, to `eb` exponent and `mb` mantissa bits,
ties to even, keeping subnormals. A caller that sets `sticky` gives `m` at least `mb + 3` bits. The pattern is not
limited: one at or beyond `maxp` has overflowed. -/
def roundMag (eb mb maxp : Nat) (m : Nat) (e : Int) (sticky : Bool) : Rounded :=
  if m == 0 then ⟨0, false, sticky⟩
  else
    let qmin : Int := 2 - 2 ^ (eb - 1) - mb
    let q : Int := max (e + (Nat.log2 m : Int) - mb) qmin
    if q ≤ e then
      let n := m * 2 ^ (e - q).toNat
      let b := (q - qmin).toNat * 2 ^ mb + n
      ⟨b, b ≥ maxp, sticky || b ≥ maxp⟩
    else
      let s := (q - e).toNat
      let n := m / 2 ^ s
      let r := m % 2 ^ s
      let h := 2 ^ (s - 1)
      let up := r > h || (r == h && (sticky || n % 2 == 1))
      let n' := if up then n + 1 else n
      let b := (q - qmin).toNat * 2 ^ mb + n'
      ⟨b, b ≥ maxp, sticky || r != 0 || b ≥ maxp⟩

/-- Pattern and inexactness of a value in binary32. -/
def toF32 (neg : Bool) (m : Nat) (e : Int) (sticky : Bool) : BitVec 32 × Bool :=
  let r := roundMag 8 23 0x7F800000 m e sticky
  let b := if r.overrun then 0x7F800000 else r.bits
  (BitVec.ofNat 32 (b + if neg then 0x80000000 else 0), r.inexact)

def decF32 (b : BitVec 32) : FVal := decodeIeee 8 23 b.toNat

/-- A sgn integer times a power of two, rounded to binary32; `zneg` is the sign of a zero. -/
def intToF32 (s : Int) (e : Int) (zneg : Bool) : BitVec 32 × Bool :=
  if s == 0 then (if zneg then 0x80000000#32 else 0, false) else toF32 (s < 0) s.natAbs e false

def infF32 (neg : Bool) : BitVec 32 := if neg then 0xFF800000#32 else 0x7F800000#32

def sgn (neg : Bool) (m : Nat) : Int := if neg then -(m : Int) else m

/-- Sum of two values with one rounding (R57): result and whether it is inexact. -/
def addVal (x y : FVal) : BitVec 32 × Bool :=
  match x, y with
  | .nan, _ => (qnan, false)
  | _, .nan => (qnan, false)
  | .inf a, .inf b => if a == b then (infF32 a, false) else (qnan, false)
  | .inf a, _ => (infF32 a, false)
  | _, .inf b => (infF32 b, false)
  | .fin a m e, .fin b n f =>
    let g := min e f
    let s := sgn a m * pow2 (e - g) + sgn b n * pow2 (f - g)
    intToF32 s g (m == 0 && n == 0 && a && b)

/-- The exact product of two values. -/
def mulVal (x y : FVal) : FVal :=
  match x, y with
  | .nan, _ => .nan
  | _, .nan => .nan
  | .inf a, .inf b => .inf (a != b)
  | .inf a, .fin b n _ => if n == 0 then .nan else .inf (a != b)
  | .fin a m _, .inf b => if m == 0 then .nan else .inf (a != b)
  | .fin a m e, .fin b n f => .fin (a != b) (m * n) (e + f)

/-- A value rounded to binary32. -/
def roundVal : FVal → BitVec 32 × Bool
  | .nan => (qnan, false)
  | .inf a => (infF32 a, false)
  | .fin a m e => if m == 0 then (if a then 0x80000000#32 else 0, false) else toF32 a m e false

def negVal : FVal → FVal
  | .nan => .nan
  | .inf a => .inf (!a)
  | .fin a m e => .fin (!a) m e

def fAdd (a b : BitVec 32) : BitVec 32 := (addVal (decF32 a) (decF32 b)).1
def fSub (a b : BitVec 32) : BitVec 32 := (addVal (decF32 a) (negVal (decF32 b))).1
def fMul (a b : BitVec 32) : BitVec 32 := (roundVal (mulVal (decF32 a) (decF32 b))).1
def fFma (a b c : BitVec 32) : BitVec 32 := (addVal (mulVal (decF32 a) (decF32 b)) (decF32 c)).1

/-- Order of two values that are not NaN, −0 equal to +0: `a < b`. -/
def ltVal (x y : FVal) : Bool :=
  match x, y with
  | .nan, _ => false
  | _, .nan => false
  | .inf a, .inf b => a && !b
  | .inf a, _ => a
  | _, .inf b => !b
  | .fin a m e, .fin b n f =>
    let g := min e f
    sgn a m * pow2 (e - g) < sgn b n * pow2 (f - g)

def isNan (a : BitVec 32) : Bool := decF32 a == .nan
def isNegF (a : BitVec 32) : Bool := a.msb
def fOne : BitVec 32 := 0x3F800000#32

/-- CMPLT and CMPEQ (R111): a comparison with a NaN gives +0, and −0 equals +0. -/
def fCmplt (a b : BitVec 32) : BitVec 32 := if ltVal (decF32 a) (decF32 b) then fOne else 0
def fCmpeq (a b : BitVec 32) : BitVec 32 :=
  if isNan a || isNan b then 0
  else if ltVal (decF32 a) (decF32 b) || ltVal (decF32 b) (decF32 a) then 0 else fOne

/-- minimumNumber and maximumNumber (R111), −0 below +0. -/
def fMin (a b : BitVec 32) : BitVec 32 :=
  if isNan a then (if isNan b then qnan else b)
  else if isNan b then a
  else if ltVal (decF32 a) (decF32 b) then a
  else if ltVal (decF32 b) (decF32 a) then b
  else if isNegF a then a else b
def fMax (a b : BitVec 32) : BitVec 32 :=
  if isNan a then (if isNan b then qnan else b)
  else if isNan b then a
  else if ltVal (decF32 a) (decF32 b) then b
  else if ltVal (decF32 b) (decF32 a) then a
  else if isNegF a then b else a

/-! The special functions (R57, R58). -/

/-- Integer square root by Newton's iteration from above. -/
def isqrtGo (n : Nat) : Nat → Nat → Nat
  | 0, x => x
  | k + 1, x => let y := (x + n / x) / 2; if y < x then isqrtGo n k y else x
def isqrt (n : Nat) : Nat := if n == 0 then 0 else isqrtGo n (Nat.log2 n + 8) (2 ^ (Nat.log2 n / 2 + 1))

/-- A subnormal operand read as zero of its sign. -/
def flushIn (a : BitVec 32) : BitVec 32 :=
  if a.toNat / 2 ^ 23 % 256 == 0 then (if a.msb then 0x80000000#32 else 0) else a

/-- A positive result `m × 2^e` (with a tail when `sticky`) under the special functions' rule: a magnitude below
2^−126 gives zero of the sign. -/
def specialOut (neg : Bool) (m : Nat) (e : Int) (sticky : Bool) : BitVec 32 :=
  if e + (Nat.log2 m : Int) < -126 then (if neg then 0x80000000#32 else 0) else (toF32 neg m e sticky).1

def fRcp (a : BitVec 32) : BitVec 32 :=
  match decF32 (flushIn a) with
  | .nan => qnan
  | .inf s => if s then 0x80000000#32 else 0
  | .fin s m e =>
    if m == 0 then infF32 s
    else
      let k := Nat.log2 m + 64
      specialOut s (2 ^ k / m) (-e - k) (2 ^ k % m != 0)

def fRsqrt (a : BitVec 32) : BitVec 32 :=
  match decF32 (flushIn a) with
  | .nan => qnan
  | .inf s => if s then qnan else 0
  | .fin s m e =>
    if m == 0 then infF32 s
    else if s then qnan
    else
      let odd := e % 2 != 0
      let m' := if odd then 2 * m else m
      let e' := if odd then e - 1 else e
      let k := Nat.log2 m' + 64
      let r := isqrt (2 ^ (2 * k) / m')
      specialOut false r (-(e' / 2) - k) (r * r * m' != 2 ^ (2 * k))

/-- Bits of working precision of exp2 and log2, and the number of fraction bits they use. -/
def expPrec : Nat := 192
def expBits : Nat := 160

/-- `2^(f / 2^k)` at `expPrec` bits, `f` a `k`-bit fraction, taking its bits from the top: `c` is `2^(2^−i)`. -/
def exp2Frac (f : Nat) : Nat → Nat → Nat → Nat
  | 0, _, acc => acc
  | k + 1, c, acc =>
    let c' := isqrt (c * 2 ^ expPrec)
    exp2Frac f k c' (if f / 2 ^ k % 2 == 1 then acc * c' / 2 ^ expPrec else acc)

def fExp2 (a : BitVec 32) : BitVec 32 :=
  match decF32 (flushIn a) with
  | .nan => qnan
  | .inf s => if s then 0 else infF32 false
  | .fin s m e =>
    if m == 0 then fOne
    else if e + (Nat.log2 m : Int) ≥ 8 then (if s then 0 else infF32 false)
    else
      -- the argument on the grid 2^−expBits; any bit below the grid is a sticky tail
      let v := sgn s m * pow2 (e + expBits + 160) / pow2 160
      let n := v / pow2 expBits
      let f := (v % pow2 expBits).toNat
      if n ≥ 128 then infF32 false
      else if n < -126 then 0
      else specialOut false (exp2Frac f expBits (2 ^ (expPrec + 1)) (2 ^ expPrec)) (n - expPrec)
        (sgn s m * pow2 (e + expBits + 160) % pow2 (expBits + 160) != 0)

/-- Binary digits of log2 of `y / 2^320`, `y` in [1, 2) at 320 bits, by repeated squaring. -/
def log2Frac : Nat → Nat → Nat → Nat
  | 0, _, acc => acc
  | k + 1, y, acc =>
    let z := y * y / 2 ^ 320
    if z ≥ 2 ^ 321 then log2Frac k (z / 2) (2 * acc + 1) else log2Frac k z (2 * acc)

def fLog2 (a : BitVec 32) : BitVec 32 :=
  match decF32 (flushIn a) with
  | .nan => qnan
  | .inf s => if s then qnan else infF32 false
  | .fin s m e =>
    if m == 0 then infF32 true
    else if s then qnan
    else
      let k := Nat.log2 m
      let n : Int := e + k
      if m == 2 ^ k then (intToF32 n 0 false).1
      else
        let v : Int := n * pow2 160 + log2Frac 160 (m * 2 ^ (320 - k)) 0
        -- the exact value lies strictly between v and v + 1 on this grid
        if v ≥ 0 then specialOut false v.toNat (-160) true
        else specialOut true (-v - 1).toNat (-160) true

/-! Element formats (R67, R68, R107, R482). -/

/-- Format codes of Table — format codes; a reserved code has none. -/
inductive Fmt where
  | int8 | uint8 | int4 | mxint8 | e4m3 | e5m2 | e3m2 | e2m3 | e2m1 | bf16 | fp16
deriving DecidableEq, Repr

def Fmt.ofCode : Nat → Option Fmt
  | 0 => some .int8 | 1 => some .uint8 | 2 => some .int4 | 3 => some .mxint8 | 4 => some .e4m3 | 5 => some .e5m2
  | 6 => some .e3m2 | 7 => some .e2m3 | 8 => some .e2m1 | 9 => some .bf16 | 10 => some .fp16
  | _ => none

def Fmt.bits : Fmt → Nat
  | .int8 | .uint8 | .mxint8 | .e4m3 | .e5m2 => 8
  | .e3m2 | .e2m3 => 6
  | .int4 | .e2m1 => 4
  | .bf16 | .fp16 => 16

/-- Bytes of a row of 32 elements. -/
def Fmt.rowBytes (f : Fmt) : Nat := 4 * f.bits

/-- May an operand of this format carry scale bytes, and must it (R67, R107)? -/
def Fmt.scaledOk (f : Fmt) (scaled : Bool) : Bool :=
  match f with
  | .mxint8 => scaled
  | .int8 | .uint8 | .int4 | .bf16 | .fp16 => !scaled
  | _ => true

/-- A decoded element: NaN, an infinity, or `σ × 2^e`. -/
inductive Elem where
  | nan
  | inf (neg : Bool)
  | num (s : Int) (e : Int)
deriving DecidableEq, Repr

def twos (w n : Nat) : Int := if n < 2 ^ (w - 1) then n else (n : Int) - 2 ^ w

/-- Sign, exponent field and mantissa of a small floating format, decoded as Table — element decode. -/
def decodeSmall (eb mb : Nat) (bias : Int) (b : Nat) : Elem :=
  let neg := b / 2 ^ (eb + mb) % 2 == 1
  let ex := b / 2 ^ mb % 2 ^ eb
  let m := b % 2 ^ mb
  if ex == 0 then .num (sgn neg m) (1 - bias) else .num (sgn neg (m + 2 ^ mb)) (ex - bias)

def decodeElem (f : Fmt) (b : Nat) : Elem :=
  match f with
  | .int8 => .num (twos 8 b) 0
  | .uint8 => .num b 0
  | .int4 => .num (twos 4 b) 0
  | .mxint8 => .num (twos 8 b) (-6)
  | .e4m3 => if b % 128 == 127 then .nan else decodeSmall 4 3 10 b
  | .e5m2 =>
    if b / 4 % 32 == 31 then (if b % 4 == 0 then .inf (b / 128 % 2 == 1) else .nan) else decodeSmall 5 2 17 b
  | .e3m2 => decodeSmall 3 2 5 b
  | .e2m3 => decodeSmall 2 3 4 b
  | .e2m1 => decodeSmall 2 1 2 b
  | .bf16 =>
    match decodeIeee 8 7 b with
    | .nan => .nan | .inf s => .inf s | .fin s m e => .num (sgn s m) e
  | .fp16 =>
    match decodeIeee 5 10 b with
    | .nan => .nan | .inf s => .inf s | .fin s m e => .num (sgn s m) e

/-- The same as an IEEE value, with the sign of a zero. -/
def decodeVal (f : Fmt) (b : Nat) : FVal :=
  match f with
  | .bf16 => decodeIeee 8 7 b
  | .fp16 => decodeIeee 5 10 b
  | .e5m2 => decodeIeee 5 2 b
  | _ =>
    match decodeElem f b with
    | .nan => .nan
    | .inf s => .inf s
    | .num s e =>
      let sgn := match f with
        | .e4m3 => b / 128 % 2 == 1
        | .e3m2 | .e2m3 => b / 32 % 2 == 1
        | .e2m1 => b / 8 % 2 == 1
        | _ => s < 0
      .fin sgn s.natAbs e

/-- Element `i` of a packed row held as one little-endian integer (R482). -/
def rowElem (f : Fmt) (row : Nat) (i : Nat) : Nat := row / 2 ^ (f.bits * i) % 2 ^ f.bits

/-- Lowest element exponent of a format, for the grid of a fixed pair (R70). -/
def Fmt.minExp : Fmt → Int
  | .mxint8 => -6 | .e4m3 => -9 | .e5m2 => -16 | .e3m2 => -4 | .e2m3 => -3 | .e2m1 => -1
  | _ => 0

/-- Chunk kinds of Table — legal operand pairs. -/
inductive ChunkKind where
  | fixed | floating | f32
deriving DecidableEq, Repr

def Fmt.isInt : Fmt → Bool
  | .int8 | .uint8 => true | _ => false

/-- Table — legal operand pairs on the A32 path, unordered. -/
def pairA32 (a b : Fmt) : Option ChunkKind :=
  match a, b with
  | .mxint8, .mxint8 => some .fixed
  | .e3m2, .e4m3 | .e4m3, .e3m2 | .e4m3, .e4m3 => some .floating
  | .e5m2, .e2m1 | .e5m2, .e2m3 | .e5m2, .e3m2 | .e5m2, .e4m3 | .e5m2, .e5m2 => some .floating
  | .e2m1, .e5m2 | .e2m3, .e5m2 | .e3m2, .e5m2 | .e4m3, .e5m2 => some .floating
  | .e2m1, .e2m1 | .e2m1, .e2m3 | .e2m1, .e3m2 | .e2m1, .e4m3 => some .fixed
  | .e2m3, .e2m1 | .e3m2, .e2m1 | .e4m3, .e2m1 => some .fixed
  | .e2m3, .e2m3 | .e2m3, .e3m2 | .e3m2, .e2m3 | .e2m3, .e4m3 | .e4m3, .e2m3 | .e3m2, .e3m2 => some .fixed
  | .int4, .int4 => some .fixed
  | a, b =>
    if (a.isInt || a == .int4) && (b.isInt || b == .int4) then some .fixed else none

/-- The chunk kind of a pair on a path, none where the pair is not legal there (R69). Paths: 0 A32, 1 A16, 2 F32. -/
def pairKind (path : Nat) (a b : Fmt) : Option ChunkKind :=
  match path with
  | 0 => pairA32 a b
  | 1 => if a == b && (a == .int4 || a == .e2m1) then some .fixed else none
  | _ => if a == b && (a == .bf16 || a == .fp16) then some .f32 else none

/-- What leaves a column for one output element (R70 to R74); D, the discard bit, travels with every chunk (R71, R77). -/
inductive Chunk where
  | nan (d : Bool)
  | inf (neg d : Bool)
  | num (s : Int) (c : Int) (d : Bool)
  | f32 (v : BitVec 32) (inexact : Bool)
deriving DecidableEq, Repr

/-- One enabled row's part in a column: the two elements, whether the row's or column's scale is NaN, and the right
shift of R47. -/
structure Term where
  a : Elem
  w : Elem
  nanScale : Bool
  shift : Nat
deriving DecidableEq, Repr

/-- Product kinds met in a column, for R74. -/
structure Specials where
  nan : Bool
  pinf : Bool
  ninf : Bool
deriving DecidableEq, Repr

def termSpecial (t : Term) (p : Specials) : Specials :=
  if t.nanScale then { p with nan := true }
  else
    match t.a, t.w with
    | .nan, _ => { p with nan := true }
    | _, .nan => { p with nan := true }
    | .inf a, .inf b => if a == b then { p with pinf := true } else { p with ninf := true }
    | .inf a, .num s _ =>
      if s == 0 then { p with nan := true }
      else if a != decide (s < 0) then { p with ninf := true } else { p with pinf := true }
    | .num s _, .inf a =>
      if s == 0 then { p with nan := true }
      else if a != decide (s < 0) then { p with ninf := true } else { p with pinf := true }
    | .num _ _, .num _ _ => p

def specialsOf (ts : List Term) : Specials := ts.foldl (fun p t => termSpecial t p) ⟨false, false, false⟩

/-- Sum on the fixed grid `g`; bits a row shift moves below the grid are discarded and set D (R70, R73). -/
def fixedSum (g : Int) (ts : List Term) : Int × Bool :=
  ts.foldl (fun (s, d) t =>
    match t.a, t.w with
    | .num x e, .num y f =>
      let v := x * y * pow2 (e + f - g)
      (s + v / 2 ^ t.shift, d || v % 2 ^ t.shift != 0)
    | _, _ => (s, d)) (0, false)

/-- State of the floating column of R71: h, S and D. -/
structure FloatCol where
  h : Option Int
  s : Int
  d : Bool
deriving DecidableEq, Repr

def floatStep (c : FloatCol) (t : Term) : FloatCol :=
  match t.a, t.w with
  | .num x e, .num y f =>
    let p := x * y
    let q := e + f - t.shift
    if p == 0 then c
    else
      match c.h with
      | none => { c with h := some q, s := p * 2 ^ 18 }
      | some h =>
        if q > h then
          let k := pow2 (q - h)
          ⟨some q, c.s / k + p * 2 ^ 18, c.d || c.s % k != 0⟩
        else
          let n := p * 2 ^ 18
          let k := pow2 (h - q)
          ⟨some h, c.s + n / k, c.d || n % k != 0⟩
  | _, _ => c

def floatSum (ts : List Term) : FloatCol := ts.foldl floatStep ⟨none, 0, false⟩

/-- The chunk of the enabled rows `ts`, whose scales sum to `sc` (R70 to R74). -/
def chunkOf (k : ChunkKind) (g : Int) (sc : Int) (ts : List Term) : Chunk :=
  let p := specialsOf ts
  let (s, c, d) := match k with
    | .floating =>
      let c := floatSum ts
      (c.s, (c.h.getD 0) - 18 + sc, c.d)
    | _ =>
      let (s, d) := fixedSum g ts
      (s, g + sc, d)
  if p.nan || (p.pinf && p.ninf) then .nan d
  else if p.pinf then .inf false d
  else if p.ninf then .inf true d
  else .num s c d

/-- The F32 path (R42): exact products added in ascending row order, each addition rounded. -/
def f32Chunk (ts : List (FVal × FVal)) : Chunk :=
  let (s, x) := ts.foldl (fun (s, x) (a, w) =>
    let (r, i) := addVal (decF32 s) (mulVal a w)
    (r, x || i)) ((0 : BitVec 32), false)
  .f32 s x

/-! Accumulator elements (R75 to R81). -/

/-- T, A, X and V of an element. -/
structure AccElem where
  t : BitVec 64
  a : BitVec 8
  x : Bool
  v : Bool
deriving DecidableEq, Repr

def AccElem.empty : AccElem := ⟨0, 0, false, false⟩

/-- The element's value, read under its mode (R76). -/
inductive AccVal where
  | empty
  | f32 (b : BitVec 32)
  | nan
  | inf (neg : Bool)
  | fixed (t : Int) (a : Int)
deriving DecidableEq, Repr

def AccElem.val (e : AccElem) : AccVal :=
  if !e.v then .empty
  else if e.a == 0x80#8 then .f32 (e.t.setWidth 32)
  else if e.a == 0x81#8 then .nan
  else if e.a == 0x82#8 then .inf false
  else if e.a == 0x83#8 then .inf true
  else .fixed e.t.toInt (4 * e.a.toInt)

def accFixed (t : Int) (a4 : Int) (x : Bool) : AccElem := ⟨BitVec.ofInt 64 t, BitVec.ofInt 8 (a4 / 4), x, true⟩
def accNan (x : Bool) : AccElem := ⟨0, 0x81#8, x, true⟩
def accInf (neg x : Bool) : AccElem := ⟨0, if neg then 0x83#8 else 0x82#8, x, true⟩
def accF32 (b : BitVec 32) (x : Bool) : AccElem := ⟨b.setWidth 64, 0x80#8, x, true⟩

/-- The loop of R77 that raises the anchor until the total fits. -/
def anchorUp (u : Int) (grid : Int) : Nat → Int → Int
  | 0, a => a
  | k + 1, a =>
    let t := if grid ≥ a then u * pow2 (grid - a) else u / pow2 (a - grid)
    if t < -(2 ^ 63) || t > 2 ^ 63 - 1 then anchorUp u grid k (a + 4) else a

/-- R77 with a finite chunk: T × 2^(4A) plus S × 2^c; `t = 0` stands for an element made empty. -/
def promoteFixed (t a4 : Int) (s c : Int) (x : Bool) : AccElem :=
  if s == 0 then accFixed t a4 x
  else
    let grid := if t == 0 then c else min a4 c
    let u := if t == 0 then s else t * pow2 (a4 - grid) + s * pow2 (c - grid)
    let a := anchorUp u grid 400 (4 * (grid / 4))
    if a > 508 then accInf (u < 0) true
    else if grid ≥ a then accFixed (u * pow2 (grid - a)) a x
    else accFixed (u / pow2 (a - grid)) a (x || u % pow2 (a - grid) != 0)

/-- Promotion of one chunk into one element (R77 to R79). The anchor code that a chunk with S = 0 leaves in an empty element whose
stored code is 0x80 to 0x83 is the model's choice, 0 (DESIGN CHOICE, log entry 91). -/
def promote (e : AccElem) (c : Chunk) : AccElem :=
  match c with
  | .num s c d =>
    let x := e.x || d
    match e.val with
    | .empty => promoteFixed 0 (if e.a.toInt < -124 then 0 else 4 * e.a.toInt) s c x
    | .fixed t a => promoteFixed t a s c x
    | .f32 b =>
      let (r, i) := intToF32 s c false
      let (v, j) := addVal (decF32 b) (decF32 r)
      accF32 v (x || i || j)
    | .nan => accNan x
    | .inf n => accInf n x
  | .nan d =>
    let x := e.x || d
    match e.val with
    | .f32 _ => accF32 qnan x
    | _ => accNan x
  | .inf n d =>
    let x := e.x || d
    match e.val with
    | .f32 b => accF32 (addVal (decF32 b) (.inf n)).1 x
    | .nan => accNan x
    | .inf m => if m == n then accInf n x else accNan x
    | _ => accInf n x
  | .f32 v i =>
    let x := e.x || i
    match e.val with
    | .empty => accF32 v x
    | .f32 b => let (r, j) := addVal (decF32 b) (decF32 v); accF32 r (x || j)
    | .fixed t a =>
      let (r, j) := intToF32 t a false
      let (q, k) := addVal (decF32 r) (decF32 v)
      accF32 q (x || j || k)
    | .nan => accNan x
    | .inf n =>
      match decF32 v with
      | .nan => accNan x
      | .inf m => if m == n then accInf n x else accNan x
      | .fin _ _ _ => accInf n x

/-- Which special value an element holds, in either mode (for SPECIAL_ELEM, R86): 0 none, 1 NaN, 2 +∞, 3 −∞. -/
def AccElem.special (e : AccElem) : Nat :=
  match e.val with
  | .nan => 1
  | .inf n => if n then 3 else 2
  | .f32 b => match decF32 b with | .fin _ _ _ => 0 | .nan => 1 | .inf n => if n then 3 else 2
  | _ => 0

/-- Drain of one element in F32 (R85). -/
def drainF32 (e : AccElem) : BitVec 32 :=
  match e.val with
  | .empty => 0
  | .nan => qnan
  | .inf n => infF32 n
  | .fixed t a => (intToF32 t a false).1
  | .f32 b => if isNan b then qnan else b

/-- An integer part rounded to nearest, ties to even, of `s × 2^e`. -/
def roundInt (s : Int) (e : Int) : Int :=
  if e ≥ 0 then s * pow2 e
  else
    let k := pow2 (-e)
    let q := s / k
    let r := s % k
    if 2 * r > k || (2 * r == k && q % 2 == 1) then q + 1 else q

/-- Drain of one element in I32, and whether it counts in DRAIN_SAT (R85). -/
def drainI32 (e : AccElem) : BitVec 32 × Bool :=
  let clamp (v : Int) : BitVec 32 × Bool :=
    if v > 2147483647 then (0x7FFFFFFF#32, true)
    else if v < -2147483648 then (0x80000000#32, true) else (BitVec.ofInt 32 v, false)
  match e.val with
  | .empty => (0, false)
  | .nan => (0, true)
  | .inf n => (if n then 0x80000000#32 else 0x7FFFFFFF#32, true)
  | .fixed t a => clamp (roundInt t a)
  | .f32 b =>
    match decF32 b with
    | .nan => (0, true)
    | .inf n => (if n then 0x80000000#32 else 0x7FFFFFFF#32, true)
    | .fin s m ex => clamp (roundInt (sgn s m) ex)

/-- The 12-byte record of Table — accumulator record, as one little-endian integer. -/
def accRecord (e : AccElem) : Nat :=
  e.t.toNat + e.a.toNat * 2 ^ 64 + (if e.x then 2 ^ 73 else 0) + (if e.v then 2 ^ 72 else 0)

def accOfRecord (n : Nat) : AccElem :=
  ⟨BitVec.ofNat 64 n, BitVec.ofNat 8 (n / 2 ^ 64), n / 2 ^ 73 % 2 == 1, n / 2 ^ 72 % 2 == 1⟩

/-- MERGE of a record into an element (R90): one contribution, its X ORed in; a record with V = 0 changes nothing. -/
def mergeRecord (e r : AccElem) : AccElem :=
  let c : Option Chunk := match r.val with
    | .empty => none
    | .fixed t a => some (.num t a r.x)
    | .f32 b => some (.f32 b r.x)
    | .nan => some (.nan r.x)
    | .inf n => some (.inf n r.x)
  match c with
  | none => e
  | some c => let y := promote e c; { y with x := y.x || r.x }

/-! Conversions (R114). -/

/-- CVT_TO into a format, as the pattern of the narrow element; the formats it may not name give 0 and do not occur. -/
def cvtToElem (f : Fmt) (b : BitVec 32) : Nat :=
  match decF32 b with
  | .nan =>
    match f with
    | .e4m3 => 0x7F | .e5m2 => 0x7E | .bf16 => 0x7FC0 | .fp16 => 0x7E00 | _ => 0
  | .inf n =>
    match f with
    | .int8 => if n then 0x80 else 0x7F
    | .uint8 => if n then 0 else 0xFF
    | .e4m3 => if n then 0xFE else 0x7E
    | .e5m2 => if n then 0xFC else 0x7C
    | .bf16 => if n then 0xFF80 else 0x7F80
    | .fp16 => if n then 0xFC00 else 0x7C00
    | _ => 0
  | .fin n m e =>
    match f with
    | .int8 => let v := roundInt (sgn n m) e; ((max (-128) (min 127 v)) % 256).toNat
    | .uint8 => let v := roundInt (sgn n m) e; (max 0 (min 255 v)).toNat
    | .e4m3 => let r := roundMag 4 3 0x7F m e false; (min r.bits 0x7E) + if n then 0x80 else 0
    | .e5m2 => let r := roundMag 5 2 0x7C m e false; (min r.bits 0x7C) + if n then 0x80 else 0
    | .bf16 => let r := roundMag 8 7 0x7F80 m e false; (min r.bits 0x7F80) + if n then 0x8000 else 0
    | .fp16 => let r := roundMag 5 10 0x7C00 m e false; (min r.bits 0x7C00) + if n then 0x8000 else 0
    | _ => 0

/-- CVT_FROM, exact for every format. -/
def cvtFromElem (f : Fmt) (b : Nat) : BitVec 32 := (roundVal (decodeVal f b)).1

end Sys2Proof.Machine
end

