-- ==== Sys2Proof/Machine/State.lean ====
section
/-!
DEFINITION. The state of the Tusel as plain data: the control registers, the cores, the regions with their ports,
slices and whistle rings, the towers with their floors, the links of the optical base, partitions and rings, the
ledger, the Narta ports, and the state of firmware, power, heat, trust and the sideband.
-/
namespace Sys2Proof.Machine

/-- Byte memory: address and byte pairs, addresses rising, no zero byte listed; an unlisted address reads 0. -/
abbrev Mem := List Host.Cell

/-! ## Cores (chapters 2 to 4) -/

/-- CORE_STAT.STATE (R64). -/
inductive CoreSt where
  | heel | run | wait | fault | muzzled
deriving DecidableEq, Repr

/-- A weight tile in the array: element of each processing element (row-major, 32 × 32), its format, whether it is
scaled, the masks latched with it, the weight scale of each column and the right shift of each row (R45 to R48). -/
structure Tile where
  fmt : Fmt
  scaled : Bool
  rowMask : BitVec 32
  colMask : BitVec 32
  elems : List Nat
  colScale : List Nat
  rowNan : List Bool
  rowShift : List Nat
deriving DecidableEq, Repr

/-- An issued step that is not yet complete: its index and word, its engine, the effective addresses of its operands
evaluated at issue (R97), the scratch ranges it claims (R39), the tile rows and columns it touches, whether it has
started, whether its last unit has arrived, whether its data is complete while a give waits (R116), whether it stopped at
a fault, for a receive the bytes that have arrived, for a feed or a drain to the vector unit the units or rows that have left, and for a
send its number on its channel; `age` are hundredths of A-cycles since its data was there; `rowMask` is the row mask a stream runs under
(R48). -/
structure QStep where
  idx : Nat
  word : BitVec 128
  eng : Engine
  ea : List Nat
  rng : List (Nat × Nat)
  rows : Nat × Nat
  cols : Nat
  started : Bool
  arrived : Bool
  dataDone : Bool
  failed : Bool
  got : Nat
  part : List Byte
  age : Nat
  rowMask : BitVec 32
deriving DecidableEq, Repr

/-- The record of an issued load whose tile is not yet taken: format, scaled, column mask (R46, R108). -/
structure LoadRec where
  fmt : Fmt
  scaled : Bool
  colMask : BitVec 32
deriving DecidableEq, Repr

/-- One end of a sync link (R116); `depth` 0 is an undefined link. `inWay` counts leashes this end has sent that are
not yet acknowledged. -/
structure SyncLink where
  farCore : Nat
  farLink : Nat
  depth : Nat
  held : Nat
  inWay : Nat
deriving DecidableEq, Repr

/-- An active loop level (R118): index of the LOOP, of the last step of the body, the count N and the iteration. -/
structure LoopLv where
  start : Nat
  last : Nat
  n : Nat
  i : Nat
deriving DecidableEq, Repr

/-- A logical core. `holders` gives for each token holder the order list of the TAKE that occupies it, `toks` the token
each holder holds, `parked` the tokens parked at the core by order list (R115, R131). -/
structure Core where
  st : CoreSt
  wait : Nat
  heelReq : Bool
  heelBy : Bool
  phase : Nat
  pc : Nat
  entry : Nat
  faultStep : Nat
  faultCode : Nat
  loops : List LoopLv
  addr : Map (BitVec 48)
  q : List QStep
  holders : Map (Option Nat)
  toks : Map (Option Token)
  parked : Map (Option Token)
  k : Map (BitVec 32)
  sync : Map SyncLink
  steps : Map (BitVec 128)
  loaded : Nat
  badStep : List Nat
  badScratch : List Nat
  badAcc : List Nat
  scratch : Mem
  acc : Map AccElem
  active : Option Tile
  shadow : Option Tile
  loads : List LoadRec
  activeRec : Option LoadRec
  link0 : List (List Byte)
  drained : List (List (BitVec 32))
  item : Option Nat
deriving DecidableEq, Repr

def SyncLink.none : SyncLink := ⟨0, 0, 0, 0, 0⟩

/-- A core with cleared stores and no program. -/
def Core.init : Core :=
  { st := .heel, wait := 0, heelReq := false, heelBy := false, phase := 0, pc := 0, entry := 0, faultStep := 0,
    faultCode := 0, loops := [], addr := [], q := [], holders := [], toks := [], parked := [], k := [], sync := [], steps := [],
    loaded := 0, badStep := [], badScratch := [], badAcc := [], scratch := [], acc := [], active := none, shadow := none, loads := [],
    activeRec := none, link0 := [], drained := [], item := none }

/-! ## Order lists and the whistle network (chapter 5) -/

/-- Where a list's token stands (R131). -/
inductive TokPlace where
  | atPort
  | granting
  | parked
  | held
  | releasing
  | joinWait
deriving DecidableEq, Repr

/-- A token message waiting for its acknowledge (R133): kind 0 grant or 1 release, turn bits 13:0, the core at the far
end of the lane, resends so far, and whether its receiver has acted on it. -/
structure TokMsg where
  kind : Nat
  turn : Nat
  user : Nat
  resends : Nat
  seen : Bool
deriving DecidableEq, Repr

/-- A shared port. `list` is none where the port has no list (R130 gives one of a single END). `pass` are the RPT
pass counters, `occ` the occurrences of each join passed in this pass over the list, `moved` the bytes moved in this
turn by member, `lead` the port whose token stands for this one in a join, `stalled` that this wait has barked. -/
structure Port where
  list : Option (List (BitVec 32))
  plan : Bool
  ent : Nat
  turn : Nat
  pass : Map Nat
  occ : Map Nat
  place : TokPlace
  lead : Option Nat
  moved : Nat
  halted : Bool
  ended : Bool
  msgs : List TokMsg
  stalled : Bool
  units : Nat
deriving DecidableEq, Repr

def Port.init : Port :=
  { list := none, plan := false, ent := 0, turn := 0, pass := [], occ := [], place := .atPort, lead := none,
    moved := 0, halted := false, ended := false, msgs := [], stalled := false, units := 0 }

/-- One whistle ring (R142, R146 to R150): `taken` is the checked table that the next frame boundary takes, `words` the words that wait
at each station for its slots, and `frames`, `used` and `idle` count what has passed. -/
structure Ring where
  active : List (BitVec 8)
  pend : Map (BitVec 8)
  weight : Map (BitVec 8)
  pendCrc : BitVec 32
  result : Nat
  at_ : Nat
  take : Bool
  taken : List (BitVec 8)
  words : Map Nat
  frames : Nat
  used : Nat
  idle : Nat
deriving DecidableEq, Repr

def Ring.init : Ring :=
  { active := [], pend := [], weight := [], pendCrc := 0, result := 0, at_ := 0, take := false, taken := [],
    words := [], frames := 0, used := 0, idle := 0 }

/-- A whistle message that requires delivery and is not yet acknowledged (R143); `seen` once its destination has acted
on it, so that a duplicate adds nothing. -/
structure WMsg where
  src : Nat
  dst : Nat
  typ : Nat
  seq : Nat
  who : Nat
  lnk : Nat
  cnt : Nat
  seen : Bool
  resends : Nat
deriving DecidableEq, Repr

/-! ## Towers and their floors (chapters 6 and 7) -/

/-- A page map entry (R154), as its 64-bit word. -/
abbrev MapEntry := BitVec 64

/-- A host access waiting for its bank column (R174): a piece within one 256-byte span, or a TWR command. `purpose`
says what its outcome answers. -/
inductive PieceKind where
  | read
  | write (data : List Byte)
  | clear
  | clearWaits
  | setAttr (perm : BitVec 4) (part : BitVec 3)
  | sweep
deriving DecidableEq, Repr

/-- Who waits for a tower access made on behalf of the host or of the device's own structures. -/
inductive Purpose where
  | hostRead (port tag off : Nat) (last : Bool) (came : Nat)
  | hostWrite (port idx seq : Nat)
  | twrCmd
  | devWrite
  | job (id : Nat)
  | walker
  | kvClear (item : Nat)
deriving DecidableEq, Repr

structure Piece where
  page : Nat
  off : Nat
  len : Nat
  kind : PieceKind
  purpose : Purpose
deriving DecidableEq, Repr

/-- A bank column: refresh debt (R171), its queue of host accesses, failed, forced stretch due. -/
structure Column where
  debt : Int
  queue : List Piece
  failed : Bool
deriving DecidableEq, Repr

def Column.init : Column := ⟨0, [], false⟩

/-- A sweep in progress (R168). -/
structure Sweep where
  page : Nat
  block : Nat
  g0 : Nat
deriving DecidableEq, Repr

/-- FLR_STAT.STATE (R207). -/
inductive FloorSt where
  | heel | run | wait | fault
deriving DecidableEq, Repr

/-- How far a floor sequencer has come (R190, R204, R205), in units of 1/200 M-cycle but for `pause` and `steps`: the time since the command
at the head started; the commands past their last bank-bus access, oldest first, with their masks and what is left of their tails;
the openings of rows still to come, as (openings, columns each), the M-cycles from one to the next, and the age at which the
next is due; what is left of the row gap and of the spacing; the reference cycles left of a stretch; and the 512-cycle boundaries
at which a stretch has been taken. -/
structure FloorTime where
  age : Nat
  tails : List (BitVec 128 × BitVec 136 × Nat)
  opens : List (Nat × Nat)
  per : Nat
  due : Nat
  gapLeft : Nat
  spaceLeft : Nat
  pause : Nat
  steps : Nat
deriving DecidableEq, Repr

def FloorTime.init : FloorTime :=
  { age := 0, tails := [], opens := [], per := 0, due := 0, gapLeft := 0, spaceLeft := 0, pause := 0, steps := 0 }

/-- The floor sequencer of a tower and its stores (R185 to R207). -/
structure Floor where
  st : FloorSt
  wait : Nat
  cmd : Nat
  entry : Nat
  heelReq : Bool
  heelBy : Bool
  faultCol : Nat
  faultCmd : Nat
  faultCode : Nat
  running : Bool
  turnSent : Bool
  clearWait : Option Nat
  held : Map (Option Token)
  seq : Map (BitVec 128)
  loaded : Nat
  slots : Map (BitVec 16)
  masks : Map (BitVec 136)
  work : Mem
  acc : Map AccElem
  tier : Nat
  time : FloorTime
  caps : List Nat
  capNow : Nat
  item : Option Nat
deriving DecidableEq, Repr

/-- A slot entry with no page (R185). -/
def noPage : BitVec 16 := 0x8000#16

def Floor.init : Floor :=
  { st := .heel, wait := 0, cmd := 0, entry := 0, heelReq := false, heelBy := false, faultCol := 0, faultCmd := 0,
    faultCode := 0, running := false, turnSent := false, clearWait := none, held := [], seq := [], loaded := 0,
    slots := [], masks := [], work := [], acc := [], tier := 0, time := FloorTime.init, caps := [], capNow := 0,
    item := none }

/-- Patrol scrubber of a tower (R417, R418): the page and block it stands at, the GEN recorded for that page, whether a pass
runs and is behind, the reference cycle at which it began, and the seconds that the last pass took. -/
structure Scrub where
  page : Nat
  block : Nat
  g0 : Nat
  running : Bool
  behind : Bool
  start : Nat
  last : Nat
deriving DecidableEq, Repr

def Scrub.init : Scrub := ⟨0, 0, 0, false, false, 0, 0⟩

/-- A memory tower: stored codewords by frame × 65,536 + word (R162), the block bitmap by frame × 1,024 + block,
the page map, the retired-frame and suspect lists, and its columns and floor. `place` names the bank column and
permissions a loaded plan gives a page (R159); `tally` counts what a running reset of the tower absorbed and drained. -/
structure Tower where
  words : Map (BitVec 280)
  ebits : Map Bool
  map : Map MapEntry
  retired : List Nat
  badAtBuild : List Nat
  suspect : List Nat
  corr : Map (List Nat)
  cols : Map Column
  sweep : Option Sweep
  sweepDue : List Nat
  place : Map (Option Nat)
  cmdPage : Nat
  hold : Bool
  draining : Bool
  floor : Floor
  scrub : Scrub
  clockBad : BitVec 2
  tally : Nat × Nat
deriving DecidableEq, Repr

def Tower.init : Tower :=
  { words := [], ebits := [], map := [], retired := [], badAtBuild := [], suspect := [], corr := [], cols := [],
    sweep := none, sweepDue := [], place := [], cmdPage := 0, hold := false, draining := false, floor := Floor.init,
    scrub := Scrub.init, clockBad := 0,
    tally := (0, 0) }

/-! ## Optical base and vertical bundles (chapter 8) -/

/-- LINK_STAT.STATE (R234). -/
inductive LinkSt where
  | down | training | up | widthRetrain | loopBack | lost
deriving DecidableEq, Repr

/-- Kinds of training (R227, R230). -/
inductive TrainKind where
  | fresh | saved | width
deriving DecidableEq, Repr

/-- Phases of a training (R227). -/
inductive TrainPhase where
  | detect | centre | measure | agree | up
deriving DecidableEq, Repr

/-- One end of a link: what it has agreed and sends in the Agree phase (R229), the lanes it holds as failed and bypassed, and the eye
margins it last measured, in % of the nominal eye, of every lane it receives, by physical lane (R224). -/
structure LinkEnd where
  agreed : BitVec 2
  usable : BitVec 2
  adv : Option (BitVec 2)
  gotAdv : Option (BitVec 2)
  sentConf : Option (BitVec 2)
  gotConf : Option (BitVec 2)
  failed : Map Bool
  bypass : Map (Option Nat)
  margins : List (BitVec 8)
deriving DecidableEq, Repr

def LinkEnd.init : LinkEnd :=
  { agreed := 3#2, usable := 3#2, adv := none, gotAdv := none, sentConf := none, gotConf := none, failed := [],
    bypass := [], margins := [] }

/-- A link: a peer channel pair, or a vertical bundle. The lanes that an end of a pair holds as failed or bypassed are those of the
channel out of its region. `joint` tells that both ends train together (R230), `centre` the delay, or the level and equaliser setting, that
training chose for each lane (R29, R227). `weakest` and `margin` are the lane with the lowest eye margin and that margin. `before` is
the state a loop-back began in; `loopBy` is the region that started it, `loopSelf` its mode, `loopSeed` the state of its PRBS31,
`loopKept` the data frames that the base die keeps (R233). -/
structure Link where
  st : LinkSt
  width : Nat
  kind : TrainKind
  joint : Bool
  phase : TrainPhase
  tid : Nat
  restarts : Nat
  centre : List (BitVec 16)
  near : LinkEnd
  far : LinkEnd
  weakest : Nat
  margin : Nat
  crcCnt : Nat
  overrun : Nat
  before : LinkSt
  loopFrames : Nat
  loopBy : Option Nat
  loopSelf : Bool
  loopSeed : BitVec 31
  loopKept : List (List Byte)
deriving DecidableEq, Repr

def Link.init : Link :=
  { st := .down, width := 0, kind := .fresh, joint := false, phase := .detect, tid := 0, restarts := 0, centre := [],
    near := LinkEnd.init, far := LinkEnd.init, weakest := 0, margin := 0, crcCnt := 0, overrun := 0, before := .down, loopFrames := 0,
    loopBy := none, loopSelf := false, loopSeed := 0, loopKept := [] }

/-- A sequenced frame or slot at its sender: SEQ, kind, payload, resends. -/
structure TxItem where
  seq : Nat
  kind : Nat
  data : List Byte
  resends : Nat
deriving DecidableEq, Repr

/-- One direction of a peer channel, i→j (R213 to R218), or of a bundle (R222): the sender's next SEQ, what waits to
be sent and what is unacknowledged; the receiver's expected SEQ, NAK, and what it has accepted but not
passed on; and how many sends the sender has closed with their end mark. -/
structure Chan where
  txNext : Nat
  waiting : List TxItem
  unacked : List TxItem
  lastNak : Option Nat
  expect : Nat
  nak : Bool
  rx : List TxItem
  skip : Nat
  sendK : Nat
deriving DecidableEq, Repr

def Chan.init : Chan :=
  { txNext := 0, waiting := [], unacked := [], lastNak := none, expect := 0, nak := false, rx := [], skip := 0, sendK := 0 }

/-! ## Barks and events -/

/-- A bark (R304): the record's fields before it has a place in the event ring. -/
structure Bark where
  typ : Nat
  src : Nat
  die : Nat
  sev : Nat
  part : Option Nat
  epoch : Nat
  status : Option Nat
  stamp : Nat
  detail : List Byte
deriving DecidableEq, Repr

/-- The event ring's queue (R306): barks raised by the command being performed, barks waiting for a place, the tail
and PHASE, and barks dropped since the last overflow bark. -/
structure Evt where
  raised : List Bark
  queue : List Bark
  tail : Nat
  phase : Bool
  dropped : Nat
deriving DecidableEq, Repr

/-- What a unit of an item reports to the item: a fault with its status or its END (R247), or that a muzzle, a reset or a thermal hold has
stopped it (R356, R367). Units are logical cores 0 to 4,095 and floor sequencers 4,096 + t. -/
inductive UnitEv where
  | fault (item unit status : Nat)
  | stop (item unit status : Nat)
  | done (item unit : Nat)
deriving DecidableEq, Repr

/-- A saved-settings record of a link or of the optical base (R328): lead die's powered seconds, each die's median, the
image's major version, entries of the kennel, the setting of each lane, and the margins of each end. -/
structure SavedRec where
  powered : Nat
  temps : List Int
  major : Nat
  kenl : Nat
  centre : List (BitVec 16)
  near : List (BitVec 8)
  far : List (BitVec 8)
deriving DecidableEq, Repr

/-- One of the 1,680 sensors (R313, R390 to R392): last reading in 1/16 °C, suspect, failed, whether its pair stood more
than 3 °C apart at the last conversion, and the powered second since which the pair has stood within 3 °C. -/
structure Sensor where
  val : Int
  suspect : Bool
  failed : Bool
  apart : Bool
  since : Nat
deriving DecidableEq, Repr

def Sensor.init : Sensor := ⟨0, false, false, false, 0⟩

/-! ## The Narta link (chapter 10) -/

/-- A transaction as its 16-byte header and its data (R276). -/
structure Tlp where
  w0 : Word64
  w1 : Word64
  data : List Byte
deriving DecidableEq, Repr

/-- A transaction of the host in the device's queues: SEQ of the flit in which it began, and its place in the order of
arrival on the port. -/
structure RxTlp where
  tlp : Tlp
  seq : Nat
  idx : Nat
deriving DecidableEq, Repr

/-- A transaction that the far end has not acknowledged whole: SEQ of its first flit and the flits it lies in. -/
structure TxTlp where
  tlp : Tlp
  seq : Nat
  flits : Nat
deriving DecidableEq, Repr

/-- A TLP flit in the replay buffer: SEQ, the slot in which its first transaction begins, the 240 bytes of its slots, and how often it was
resent (R267, R268). -/
structure TxFlit where
  seq : Nat
  first : Nat
  slots : List Byte
  resends : Nat
deriving DecidableEq, Repr

/-- The coding of a port's outgoing flits (R265): the last 58 scrambled bits, the blocks that wait for a codeword, the codewords since the last
alignment block, and the codewords and alignment blocks that the last command sent. -/
structure TxCode where
  scr : BitVec 58
  blocks : List (BitVec 257)
  count : Nat
  sent : List (List (BitVec 10))
deriving DecidableEq, Repr

def TxCode.init : TxCode := ⟨0, [], 0, []⟩

/-- What a device read serves: a job, or the flush of a change of home (0 to 7) or system port (8) (R289). -/
inductive ReadFor where
  | job (id : Nat)
  | flush (who : Nat)
deriving DecidableEq, Repr

/-- A device read outstanding on a tag of a port (R281, R282). -/
structure DevReq where
  addr : Nat
  len : Nat
  data : List Byte
  purpose : ReadFor
deriving DecidableEq, Repr

/-- Phases of a Narta training (R270). -/
inductive NartaPhase where
  | detect | lane | equalise | agree | start
deriving DecidableEq, Repr

/-- One Narta port. `st` is the state as PORT_EVENT gives it (R285). `msgs` of the receiving side: `part` and `partSeq` are
the bytes and first SEQ of a transaction not yet whole, `rx` what is accepted and not yet carried out, `flushes` the flush
requests that wait (R278) by tag and place in the order of arrival, `reads` the device reads outstanding by tag, `tags` the
host tags in use with the port their completions go to, `stopping` that a DISABLE takes effect at the end of the command. `hold` are
transactions that are whole and began in the flit of one that is not, by SEQ (R268); credits of places freed since `creditFrom` are owed, in
`owedP` and `owedN`, until a flit returns them (R283). `flits` is the replay buffer, `resend` that it is to be sent again, `ackSent` the ACK of the
last flit sent, and `sent` the flits that the last command sent, by FKIND. -/
structure Narta where
  st : Nat
  signal : Bool
  phase : NartaPhase
  kind : TrainKind
  full : Bool
  tid : Nat
  sentAdv : Option (BitVec 16)
  farAdv : Option (BitVec 16)
  farFull : Bool
  usable : BitVec 16
  failed : BitVec 16
  agreed : BitVec 16
  conf : Option (BitVec 16)
  restarts : Nat
  width : Nat
  lanes : BitVec 16
  reversed : Bool
  inverted : BitVec 16
  presets : Map Nat
  farTid : Nat
  overrun : Map Nat
  txNext : Nat
  wait : List Tlp
  unacked : List TxTlp
  flits : List TxFlit
  resend : Bool
  ackSent : Nat
  sent : List (Nat × Flit)
  code : TxCode
  owedP : Nat
  owedN : Nat
  creditFrom : Nat
  hold : List (Nat × Tlp)
  lastNak : Option Nat
  advP : Nat
  advN : Nat
  advC : Nat
  heldP : Nat
  heldN : Nat
  heldC : Nat
  expect : Nat
  nak : Bool
  part : List Byte
  partSeq : Nat
  arrivals : Nat
  rx : List RxTlp
  flushes : List (Nat × Nat)
  reads : Map (Option DevReq)
  tags : Map (Option Nat)
  stopping : Bool
  told : Bool
deriving DecidableEq, Repr

def Narta.init : Narta :=
  { st := 0, signal := false, phase := .detect, kind := .fresh, full := false, tid := 0, sentAdv := none, farAdv := none,
    farFull := false, usable := 0, failed := 0, agreed := 0xFFFF, conf := none, restarts := 0, width := 3, lanes := 0,
    reversed := false, inverted := 0, presets := [], farTid := 0, overrun := [], txNext := 0, wait := [], unacked := [], flits := [],
    resend := false, ackSent := 0, sent := [], code := TxCode.init, owedP := 0, owedN := 0, creditFrom := 0, hold := [], lastNak := none,
    advP := 0, advN := 0, advC := 0, heldP := 0, heldN := 0, heldC := 0, expect := 0, nak := false, part := [],
    partSeq := 0, arrivals := 0, rx := [], flushes := [], reads := [], tags := [], stopping := false, told := false }

/-- A failover not yet ended (R290): the port that failed, and the counts its FAILOVER_DONE carries. -/
structure Failover where
  port : Nat
  tags : Nat
  reissued : Nat
deriving DecidableEq, Repr

/-- Reads the device makes for itself: a descriptor of a ring, a plan image, a host firmware image (R241, R244, R324), and those of the walkers
for an item: its batch table as it starts and as it ends, and the KV page list of a release (R257, R259). -/
inductive JobKind where
  | desc (part ring : Nat)
  | plan (part : Nat)
  | image
  | table (item : Nat)
  | walk (item : Nat)
  | kv (item : Nat)
deriving DecidableEq, Repr

/-- A read in pieces: where it reads (`host` memory or tower memory), the next address, the bytes left, what has arrived, and
whether a read is outstanding. `who` chooses the port (R288): a partition, or 8. -/
structure Job where
  kind : JobKind
  host : Bool
  who : Nat
  addr : Nat
  left : Nat
  buf : List Byte
  busy : Bool
  fail : Option Nat
deriving DecidableEq, Repr

/-! ## Partitions, rings, items and the ledger (chapter 9) -/

/-- A unit record of a plan's entry (R239). -/
structure UnitRec where
  floor : Bool
  unit : Nat
  start : Nat
  offs : List Nat
deriving DecidableEq, Repr

/-- A sync link as the SYNC section of a core gives it (R237). -/
structure SyncRec where
  core : Nat
  lnk : Nat
  farCore : Nat
  farLink : Nat
  depth : Nat
  here : Nat
  there : Nat
deriving DecidableEq, Repr

/-- What a partition keeps of its plan beside the stores of its units: the entries, the phase table and the sync links. -/
structure Plan where
  entries : List (List UnitRec)
  phases : List Nat
  syncs : List SyncRec
deriving DecidableEq, Repr

def Plan.none : Plan := ⟨[], [], []⟩

/-- A completion before it has a place in its CQ (R248): everything but PHASE and the epoch, which it takes when written. `behind` are the
records whose writes, and for an ITEM whose mirrors on other rings, come before it (R255, R284). -/
structure Cpl where
  seq : Nat
  ring : Nat
  stream : Bool
  status : Nat
  sqIdx : Nat
  old : Nat
  new : Nat
  record : Nat
  d0 : Nat
  d1 : Nat
  notify : Bool
  item : Option Nat
  behind : List Nat
deriving DecidableEq, Repr

/-- A named stream of a running BATCH_STEP: its record, PROMPT, GEN and STOP, and where its entry lies in the table. -/
structure BatchRec where
  record : Nat
  prompt : Nat
  gen : Nat
  stop : Bool
  pos : Nat
deriving DecidableEq, Repr

/-- How far the walkers are with a BATCH_STEP (its table is being read, has been read, is being zeroed, is read again as the step ends) or with a
release that clears pages (its list is being read, its pages are being cleared). -/
inductive ItemStage where
  | idle | reading | read | zeroing | walking | listing | clearing
deriving DecidableEq, Repr

/-- A descriptor that has been read and has no completion yet. `bad` is the status it ends with as soon as it reaches the
head of its ring; `units` are the units of its entry that have not ended. `table` is the batch table as read at the start, `left` the
pages a release has still to clear and `skipped` those it passed over. -/
structure Item where
  part : Nat
  ring : Nat
  sqIdx : Nat
  seq : Nat
  notify : Bool
  fence : Bool
  op : Nat
  words : List Nat
  bad : Option Nat
  started : Bool
  ended : Bool
  units : List Nat
  batch : List BatchRec
  batchAddr : Nat
  stage : ItemStage
  table : List Byte
  left : Nat
  skipped : Nat
deriving DecidableEq, Repr

/-- A submission and completion ring (R243 to R252). `order` are its items in ring order, `held` the completions with no
place, `abortN` the descriptors still to be read that an ABORT fails. -/
structure RingQ where
  cfg : Word64
  sqBase : Word64
  cqBase : Word64
  head : Nat
  tail : Nat
  cqTail : Nat
  cqHead : Nat
  phase : Bool
  order : List Nat
  held : List Cpl
  abortN : Nat
  abortAs : Nat
  reading : Bool
  issued : Nat
  completed : Nat
  failed : Nat
  streamCpl : Nat
deriving DecidableEq, Repr

def RingQ.init : RingQ :=
  { cfg := 0x1080, sqBase := 0, cqBase := 0, head := 0, tail := 0, cqTail := 0, cqHead := 0, phase := true, order := [],
    held := [], abortN := 0, abortAs := 0, reading := false, issued := 0, completed := 0, failed := 0, streamCpl := 0 }

/-- The housekeeping copy of a ledger record (R254), with the STATUS and RECEIPT_SEQ that a pending mirror carries (R260). -/
structure HkRec where
  state : Nat
  part : Nat
  ring : Nat
  busy : Bool
  pending : Bool
  mirrored : Nat
  status : Nat
  receipt : Nat
deriving DecidableEq, Repr

def HkRec.free : HkRec := ⟨0, 0, 0, false, false, 0, 0, 0⟩

/-! ## Energy accounts and receipts (chapter 16) -/

/-- An unclosed account (R446): energy booked in µJ, the direct and shared estimates over its life, and once its stream has
ended its RECEIPT_SEQ, its status, the records a lost-page receipt covers, and the map epoch at the terminal transition. -/
structure Acct where
  part : Nat
  seq : Nat
  status : Nat
  lost : Nat
  epoch : Nat
  energy : Nat
  direct : Rat
  shared : Rat
deriving DecidableEq, Repr

def Acct.init : Acct := ⟨0, 0, 0, 0, 0, 0, 0, 0⟩

/-- A closed batch that waits for its signature: its root record, PHASE 0, without its CRC. -/
structure Batch where
  rootSeq : Nat
  record : List Byte
  warned : Bool
deriving DecidableEq, Repr

/-! ## Power, heat and coolant (chapter 14) -/

/-- A gated clock's swallower (R385): the level in force in its window of 72 pulses, and how far the window is, in hundredths of an
A-cycle. -/
structure Swallow where
  level : Nat
  pos : Nat
deriving DecidableEq, Repr

def Swallow.init : Swallow := { level := 0, pos := 0 }

/-- A quadrant's point control (R381 to R387). `gateA` and `gateM` are the swallowers of its gated A clock and M clock. `dem` are the demands of its five rails; `est` the dynamic and leakage parts of
each rail's last estimate in 0.1 A, `sum` and `periods` what its mean is taken from; `overrun`, `calm` and `under` count periods
without a break: a level at L_max with its rail over the limit, both levels at 0, every rail below 90 % of its limit. `lim` and
`prot` are points stepped by the limiter and by protection, `run` the point the clocks run at, `fast` the fastest since the
last ramp update, `want` the ramp ceiling that waits for its voltage, `tempAt` the temperatures at the last ramp update,
`idleAt` the count of issued steps at which the quadrant was found idle, `heat` its last heat-path samples in 0.001 °C/W. -/
structure Quad where
  dem : List Nat
  est : List (Rat × Rat)
  sum : List Rat
  periods : Nat
  overrun : Nat
  calm : Nat
  under : Nat
  lim : Nat
  prot : Nat
  protBark : Bool
  slewing : Bool
  run : Nat
  fast : Nat
  want : Option Nat
  tries : Nat
  tempAt : List Int
  idleAt : Option Nat
  heat : List Int
  gateA : Swallow
  gateM : Swallow
deriving DecidableEq, Repr

def Quad.init : Quad :=
  { dem := [0, 0, 0, 0, 0], est := [(0, 0), (0, 0), (0, 0), (0, 0), (0, 0)], sum := [0, 0, 0, 0, 0], periods := 0, overrun := 0,
    calm := 0, under := 0, lim := 0, prot := 0, protBark := false, slewing := false, run := 7, fast := 7, want := none,
    tries := 0, tempAt := [], idleAt := some 0, heat := [], gateA := Swallow.init, gateM := Swallow.init }

/-- A thermal zone, numbered as TZON: compute dies 0 to 7, towers 8 + t, the optical base 40. `model` are the estimates of a
die's hot spots, or of a tower's layers, base die and interface; `rising` and `ext` track thermal cycles (R402); `hot` stands
while a bark 0x2103 of the zone is not released; `hiddenOk` counts model updates within 6 °C since hidden heat (R394). -/
structure Zone where
  model : List Int
  rising : Bool
  ext : Option Int
  warm : Bool
  hot : Bool
  hold : Bool
  hidden : Bool
  hiddenOk : Nat
deriving DecidableEq, Repr

def Zone.init : Zone := ⟨[], true, none, false, false, false, false, 0⟩

/-- Package heat and power: die temperatures and estimated powers at the last conversions, newest first (R401); whether the
gated clocks are stopped (R398, R401); the coolant step 0 to 4 (R400); periods above and below the package limit (R388). -/
structure Heat where
  past : List (List Int × List Rat)
  stopped : Bool
  tripped : Bool
  cool : Nat
  overW : Nat
  underW : Nat
deriving DecidableEq, Repr

def Heat.init : Heat := ⟨[], false, false, 0, 0, 0⟩

/-! ## Start, firmware and trust (chapters 12 and 16) -/

/-- A die in the election (R321): whether it is healthy, its set S, the LEAD it accepted, the candidate it withdrew for,
LEADs received, and ACCEPTs it holds. -/
structure BootDie where
  healthy : Bool
  closed : Bool
  s : List Nat
  accepted : Option Nat
  withdrew : Option Nat
  leads : List Nat
  accepts : List Nat
deriving DecidableEq, Repr

def BootDie.init : BootDie := ⟨false, false, [], none, none, [], []⟩

/-- One copy of a die's factory fuse map (R336): the part, the bad units found at manufacture, and, as one number, the voltage table and the
activity weights. -/
structure FuseCopy where
  part : Part
  bad : List Nat
  tables : Nat
deriving DecidableEq, Repr

/-- Copies of a module fused as an IST-8432 with no bad unit (DESIGN CHOICE, log entry 2). -/
def FuseCopy.init : FuseCopy := ⟨.ist8432, [], 0⟩

/-- A start in progress. `reset` holds from the reset until DEVICE_START; `cause` is latched on VAUX (R425); `sources` are the
firmware sources still to try; `header` the first 4,096 bytes of the running image; `got` and `miss` the sections that
receivers hold or have missed once; receivers are the acting stewards d and towers 16 + t; `failed` are
the units that this start's tests found bad; `kat` holds the known-answer programs as each die's acting steward received them (R325);
`fresh` and `hostNext` tell whether the start uses FRESH and HOST_NEXT (R345); `coldNext` that a cold reset waits for its end (R353). -/
structure Boot where
  reset : Bool
  on : Bool
  warm : Bool
  cause : Nat
  dies : Map BootDie
  round : Nat
  lead : Option Nat
  sources : List Nat
  header : List Byte
  slot : Nat
  got : List (Nat × Nat)
  miss : List (Nat × Nat)
  badRcv : List Nat
  downDies : List Nat
  full : Bool
  ticks : Nat
  writeSlot : Option Nat
  failed : List Nat
  kat : Map (List Byte)
  fresh : Bool
  hostNext : Bool
  coldNext : Bool
deriving DecidableEq, Repr

def Boot.init : Boot :=
  { reset := true, on := false, warm := false, cause := 0, dies := [], round := 0, lead := none, sources := [], header := [],
    slot := 0, got := [], miss := [], badRcv := [], downDies := [], full := false, ticks := 0, writeSlot := none, failed := [], kat := [],
    fresh := false, hostNext := false, coldNext := false }

/-- A drain before a package reset (R365, R366): whether a cold reset follows, its cause, the port and TAG of the CWR
that requested it, whether it has begun (it waits for smaller scopes, R353), whether a cold reset was requested meanwhile, whether a
reconciliation has followed (R455), whether it leaves a thermal stop that stood when it was requested (R401), and the items it absorbed and
drained. -/
structure Drain where
  cold : Bool
  cause : Nat
  cpl : Option (Nat × Nat)
  begun : Bool
  thenCold : Bool
  reconciled : Bool
  leaves : Bool
  tally : Nat × Nat
deriving DecidableEq, Repr

/-- The JTAG port (R478, R479): instruction, DIE_SEL, what the selected data register captures, the boundary-scan cells, and
whether they drive the pins (EXTEST). -/
structure Jtag where
  ir : Nat
  sel : Nat
  dr : Nat
  cells : BitVec 20
  drive : Bool
deriving DecidableEq, Repr

def Jtag.init : Jtag := ⟨2, 0, 0, 0, false⟩

/-- Samples of the ageing indicators (R420, R421): by code, powered seconds and value, oldest first, since the commissioning
baseline; `base` is the powered time of that baseline, `barked` of the last bark 0x0801. -/
structure Ageing where
  samples : Map (List (Nat × Int))
  base : Option Nat
  barked : Option Nat
deriving DecidableEq, Repr

/-- The device. Maps are keyed by unit number: cores n, ports 512 r + id, slices 32 r + s, rings 8 w + ring, towers t,
the parts of sites that hold no logical core 34 k + s (R37), links 200 r + selector of the lower-numbered end, channels 32 i + j, bundle directions 2 (136 t + b) + up. `narta` is keyed by port, `rqs` by 64 p + q, `hk` by
record; `change` holds for a partition (0 to 7) or the system port (8) the port its traffic is changing to, `changeTlps`
what waits for that change, `heldTlps` what waits while no port is up. `accts` is keyed
by record, and by 2^20 + 2 t + h for a lost ledger page; `period` is the direct energy of each account on each rail in this
period by 64 account + rail, account 2^21 being the idle account. `sramBad` are uncorrectable words of
floor stores, as (4, tower, word) (R415). `rstWait` are partitions whose reset waits for a tower reset (R353). `wearBarked` stands once flash wear has been barked (R423), `erases` counts the
journal blocks ever erased. `estSnap` holds
the activity counts at the last current estimate (18 d + k), `direct` the direct energy of each unit by rail kind as the
sum of w_k × n × V² (8 unit + kind). -/
structure Dev where
  kind : Part
  regs : Map Word64
  guards : Map Nat
  cores : Map Core
  spares : Map Core
  ports : Map Port
  slices : Map Mem
  badSlice : Map (List Nat)
  rings : Map Ring
  wmsgs : List WMsg
  wseq : Map Nat
  towers : Map Tower
  links : Map Link
  chans : Map Chan
  bundles : Map Chan
  evt : Evt
  events : List UnitEv
  freeN : Nat
  estSnap : Map Nat
  direct : Map Nat
  kenl : Map (BitVec 256)
  fieldFuse : Map (List Nat)
  log : List (BitVec 512)
  saved : Map SavedRec
  fuseMaps : Map FuseCopy
  sens : Map Sensor
  narta : Map Narta
  failover : List Failover
  heldTlps : List Tlp
  change : Map (Option Nat)
  changeTlps : List (Nat × Tlp)
  jobs : Map (Option Job)
  nextJob : Nat
  plans : Map Plan
  rqs : Map RingQ
  items : Map (Option Item)
  nextItem : Nat
  hk : Map HkRec
  accts : Map (Option Acct)
  period : Map Rat
  series : Nat
  batch : List (List Byte)
  batches : List Batch
  rcptQ : List (List Byte)
  rcptTail : Nat
  rcptPhase : Bool
  quads : Map Quad
  zones : Map Zone
  heat : Heat
  shared : Map Rat
  eacc : Map (Option Nat)
  gapEst : Map Nat
  gapN : Map Nat
  resid : Map Int
  boot : Boot
  drain : Option Drain
  slots : Map (List Byte)
  rollback : Map Nat
  mkBanks : List Nat
  report : Option (List Byte)
  thermtrip : Bool
  alertPin : Bool
  smb : Option (Nat × Word64)
  jtag : Jtag
  ticks : Map Nat
  notes : List (BitVec 256)
  note : Option Word64
  noteAt : Option Nat
  ageing : Ageing
  sramBad : List (Nat × Nat × Nat)
  rstWait : List Nat
  lifeUj : Nat
  wearBarked : Bool
  erases : Nat
deriving DecidableEq, Repr

/-- A device of a part with nothing kept: every store, register and unit as at package cold reset, flash and field fuses
empty. -/
def Dev.init (p : Part) : Dev :=
  { kind := p, regs := [], guards := [], cores := [], spares := [], ports := [], slices := [], badSlice := [], rings := [], wmsgs := [],
    wseq := [], towers := [], links := [], chans := [], bundles := [], evt := ⟨[], [], 0, true, 0⟩, events := [], freeN := 0,
    estSnap := [], direct := [], kenl := [], fieldFuse := [], log := [], saved := [], fuseMaps := [], sens := [], narta := [],
    failover := [], heldTlps := [], change := [], changeTlps := [], jobs := [], nextJob := 0, plans := [], rqs := [],
    items := [], nextItem := 0, hk := [], accts := [], period := [], series := 0, batch := [], batches := [], rcptQ := [],
    rcptTail := 0, rcptPhase := true, quads := [], zones := [], heat := Heat.init, shared := [], eacc := [], gapEst := [],
    gapN := [], resid := [], boot := Boot.init, drain := none, slots := [], rollback := [], mkBanks := [], report := none,
    thermtrip := false, alertPin := false, smb := none, jtag := Jtag.init, ticks := [], notes := [], note := none,
    noteAt := none, ageing := ⟨[], none, none⟩, sramBad := [], rstWait := [], lifeUj := 0, wearBarked := false,
    erases := 0 }

/-- The machine: the device, and the commands that wait, first in, first out. -/
structure State where
  dev : Dev
  pending : List Instr
deriving DecidableEq, Repr

/-- Nothing the spec gives the device stops it: an access that the spec does not allow completes with a status. -/
inductive Fault where
deriving DecidableEq, Repr

/-- What a command is refused for. -/
inductive Refusal where
  /-- Raised by an arm of `exec` whose command has no meaning yet. Safe: nothing is claimed of it. -/
  | notModelled (mnemonic : String)
deriving DecidableEq, Repr

/-- The machine right after a package cold reset: an IST-8432, its dies in reset until DEVICE_START (R317), no command
waiting. -/
def State.reset : State := { dev := Dev.init .ist8432, pending := [] }

end Sys2Proof.Machine
end

