-- ==== Sys2Proof/Machine/Ops.lean ====
section
/-!
DEFINITION. The named operations over maps, byte memory, control registers, counters and barks that every family uses.
-/
namespace Sys2Proof.Machine

/-! ## Maps in canonical form: keys rising, no entry equal to the default -/

/-- The value at a key; an unlisted key holds the default. -/
def mget {α : Type} (d : α) : Map α → Nat → α
  | [], _ => d
  | (j, v) :: r, k => if j = k then v else mget d r k

/-- The map without a key. -/
def mdel {α : Type} : Map α → Nat → Map α
  | [], _ => []
  | (j, v) :: r, k => if j = k then mdel r k else (j, v) :: mdel r k

/-- An entry placed before the first higher key. -/
def mins {α : Type} : Map α → Nat → α → Map α
  | [], k, v => [(k, v)]
  | (j, w) :: r, k, v => if k < j then (k, v) :: (j, w) :: r else (j, w) :: mins r k v

/-- Write a key; writing the default removes the entry. -/
def mput {α : Type} [DecidableEq α] (d : α) (m : Map α) (k : Nat) (v : α) : Map α :=
  if v = d then mdel m k else mins (mdel m k) k v

def mupd {α : Type} [DecidableEq α] (d : α) (m : Map α) (k : Nat) (f : α → α) : Map α := mput d m k (f (mget d m k))

/-- The canonical form, as a check. -/
def mwf {α : Type} [DecidableEq α] (d : α) : Map α → Bool
  | [] => true
  | [(_, v)] => decide (v ≠ d)
  | (j, v) :: (k, w) :: r => decide (v ≠ d) && decide (j < k) && mwf d ((k, w) :: r)

/-! ## Bytes -/

def byteAt (m : Mem) (a : Nat) : Byte := mget (0 : Byte) m a
def setByte (m : Mem) (a : Nat) (b : Byte) : Mem := mput (0 : Byte) m a b
def Memory.wf (m : Mem) : Bool := mwf (0 : Byte) m

def readBytes (m : Mem) (a n : Nat) : List Byte := (List.range n).map (fun i => byteAt m (a + i))
def writeBytes (m : Mem) (a : Nat) : List Byte → Mem
  | [] => m
  | b :: bs => writeBytes (setByte m a b) (a + 1) bs

/-- Little-endian value of bytes, and the `n` little-endian bytes of a value (R6). -/
def leNat : List Byte → Nat
  | [] => 0
  | b :: bs => b.toNat + 256 * leNat bs
def leBytes : Nat → Nat → List Byte
  | 0, _ => []
  | n + 1, v => BitVec.ofNat 8 v :: leBytes n (v / 256)

def readLe (m : Mem) (a n : Nat) : Nat := leNat (readBytes m a n)
def writeLe (m : Mem) (a n v : Nat) : Mem := writeBytes m a (leBytes n v)

/-- Bits `hi:lo` of a word (R5). -/
def bits (w : Nat) (hi lo : Nat) : Nat := w / 2 ^ lo % 2 ^ (hi + 1 - lo)
def bit (w : Nat) (i : Nat) : Bool := w / 2 ^ i % 2 == 1

def zeros (n : Nat) : List Byte := List.replicate n 0#8

/-- A list cut into pieces of `n`. -/
def chunksOf {α : Type} (n : Nat) : Nat → List α → List (List α)
  | 0, _ => []
  | f + 1, l => if l.isEmpty then [] else l.take n :: chunksOf n f (l.drop n)
def pieces {α : Type} (n : Nat) (l : List α) : List (List α) := chunksOf n l.length l

/-! ## Control registers (chapter 11) -/

/-- Reset value of the fields of a register that its table states as a number. -/
def tableReset (fs : List Fld) (off : Nat) : Nat :=
  match fs with
  | [] => 0
  | f :: r =>
    let here := if f.cnt == 1 then f.off == off
      else f.stride ≥ 8 && f.off ≤ off && off < f.off + f.stride * f.cnt && (off - f.off) % f.stride == 0
    (if here then f.reset * 2 ^ f.lo else 0) + tableReset r off

/-- A register's word after reset: the table's value, or what the part's fuses give. -/
def resetWord (p : Part) (pg off : Nat) : Word64 :=
  match Config.fusedWord p pg off with
  | some w => BitVec.ofNat 64 w
  | none =>
    match pageTypeOf pg with
    | some t => BitVec.ofNat 64 (tableReset t.fields off)
    | none => 0

def regKey (pg off : Nat) : Nat := pg * 512 + off / 8

/-- The stored word of a register. -/
def getReg (d : Dev) (pg off : Nat) : Word64 := mget (resetWord d.kind pg off) d.regs (regKey pg off)
def setReg (d : Dev) (pg off : Nat) (v : Word64) : Dev :=
  { d with regs := mput (resetWord d.kind pg off) d.regs (regKey pg off) v }

def fieldOf (w : Word64) (f : Fld) : Nat := w.toNat / 2 ^ f.lo % 2 ^ f.w
def withField (w : Word64) (f : Fld) (v : Nat) : Word64 :=
  BitVec.ofNat 64 (w.toNat - fieldOf w f * 2 ^ f.lo + v % 2 ^ f.w * 2 ^ f.lo)

/-- Read and write one field of a page. -/
def getF (d : Dev) (pg : Nat) (f : Fld) : Nat := fieldOf (getReg d pg f.off) f
def setF (d : Dev) (pg : Nat) (f : Fld) (v : Nat) : Dev := setReg d pg f.off (withField (getReg d pg f.off) f v)

/-- Raise an event counter, modulo 2^64 (R302). -/
def count (d : Dev) (pg : Nat) (f : Fld) (k : Nat) : Dev := setF d pg f (getF d pg f + k)
def notNow (d : Dev) (pg : Nat) : Dev := count d pg notNowCnt 1

/-- A signed field in two's complement. -/
def setFI (d : Dev) (pg : Nat) (f : Fld) (v : Int) : Dev := setF d pg f (v % 2 ^ f.w).toNat
def getFI (d : Dev) (pg : Nat) (f : Fld) : Int := twos f.w (getF d pg f)

/-! ## Status codes (R250) -/

def stOk : Nat := 0
def stFenced : Nat := 1
def stReset : Nat := 2
def stUncorr : Nat := 3
def stNotNow : Nat := 4
def stMalformed : Nat := 5
def stThermal : Nat := 6
def stLink : Nat := 7
def stAborted : Nat := 8
def stSchedule : Nat := 9

/-! ## Units and numbers (chapter 1) -/

/-- Region, pack and place in the pack of a logical core (R18). -/
def coreRegion (n : Nat) : Nat := n / 128
def corePack (n : Nat) : Nat := n / 32
def coreDie (n : Nat) : Nat := n / 512
def coreUser (n : Nat) : Nat := n % 128
def regionDie (r : Nat) : Nat := r / 4

def pkgPg : Nat := PKG.page.pg 0
def corePg (n : Nat) : Nat := CORE.page.pg n
def packPg (k : Nat) : Nat := PACK.page.pg k
def ordPg (r : Nat) : Nat := ORD.page.pg r
def twrPg (t : Nat) : Nat := TWR.page.pg t
def flrPg (t : Nat) : Nat := FLR.page.pg t
def optPg (r : Nat) : Nat := OPT.page.pg r
def xbarPg (r : Nat) : Nat := XBAR.page.pg r
def rgnPg (r : Nat) : Nat := RGN.page.pg r
def partPg (p : Nat) : Nat := PART.page.pg p
def whsPg (w : Nat) : Nat := WHS.page.pg w
def diePg (k : Nat) : Nat := DIE.page.pg k
def hlkPg (h : Nat) : Nat := HLK.page.pg h

/-- The site a logical core stands on, from its pack's site map. -/
def siteOf (d : Dev) (n : Nat) : Option Nat :=
  let f := getF d (packPg (corePack n)) (PACK.PACK_LMAP_PRESENT.at (n % 32))
  if f == 1 then some (getF d (packPg (corePack n)) (PACK.PACK_LMAP_SITE.at (n % 32))) else none

/-- Bank column of a site, and of the core standing there (R20). -/
def colOfSite (pack site : Nat) : Nat := 34 * (pack % 4) + site
def colOf (d : Dev) (n : Nat) : Option Nat := (siteOf d n).map (colOfSite (corePack n))

/-- The logical core on a site of a pack, if any. -/
def coreOnSite (d : Dev) (pack site : Nat) : Option Nat :=
  ((List.range 32).find? (fun c => siteOf d (32 * pack + c) == some site)).map (fun c => 32 * pack + c)

/-- Partition whose region set holds a region (R235), from RGN_STAT. -/
def partOf (d : Dev) (r : Nat) : Option Nat :=
  if getF d (rgnPg r) RGN.RGN_STAT_IN_SET == 1 then some (getF d (rgnPg r) RGN.RGN_STAT_PART) else none

/-! ## Units' accessors -/

def core (d : Dev) (n : Nat) : Core := mget Core.init d.cores n
def setCore (d : Dev) (n : Nat) (c : Core) : Dev := { d with cores := mput Core.init d.cores n c }
def portKey (r p : Nat) : Nat := 512 * r + p
def port (d : Dev) (r p : Nat) : Port := mget Port.init d.ports (portKey r p)
def setPort (d : Dev) (r p : Nat) (x : Port) : Dev := { d with ports := mput Port.init d.ports (portKey r p) x }
def slice (d : Dev) (r s : Nat) : Mem := mget [] d.slices (32 * r + s)
def setSlice (d : Dev) (r s : Nat) (m : Mem) : Dev := { d with slices := mput [] d.slices (32 * r + s) m }
def ring (d : Dev) (w k : Nat) : Ring := mget Ring.init d.rings (8 * w + k)
def setRing (d : Dev) (w k : Nat) (x : Ring) : Dev := { d with rings := mput Ring.init d.rings (8 * w + k) x }
def tower (d : Dev) (t : Nat) : Tower := mget Tower.init d.towers t
def setTower (d : Dev) (t : Nat) (x : Tower) : Dev := { d with towers := mput Tower.init d.towers t x }
def quad (d : Dev) (k : Nat) : Quad := mget Quad.init d.quads k
def setQuad (d : Dev) (k : Nat) (q : Quad) : Dev := { d with quads := mput Quad.init d.quads k q }
def floor (d : Dev) (t : Nat) : Floor := (tower d t).floor
def setFloor (d : Dev) (t : Nat) (f : Floor) : Dev := setTower d t { tower d t with floor := f }
def column (d : Dev) (t b : Nat) : Column := mget Column.init (tower d t).cols b
def setColumn (d : Dev) (t b : Nat) (c : Column) : Dev :=
  setTower d t { tower d t with cols := mput Column.init (tower d t).cols b c }

/-- The lower-numbered end's key for a link seen from region `r` (R212): outbound and inbound selectors of a pair name
one link. -/
def linkKey (r v : Nat) : Nat :=
  if v < 64 then
    let j := v % 32
    if r ≤ j then 200 * r + j else 200 * j + r
  else 200 * r + v
/-- Is region `r` the near end of the link it selects with `v`? The base die is the near end of a bundle. -/
def linkNear (r v : Nat) : Bool := if v < 64 then r ≤ v % 32 else true
def link (d : Dev) (r v : Nat) : Link := mget Link.init d.links (linkKey r v)
def setLink (d : Dev) (r v : Nat) (l : Link) : Dev := { d with links := mput Link.init d.links (linkKey r v) l }
def chan (d : Dev) (i j : Nat) : Chan := mget Chan.init d.chans (32 * i + j)
def setChan (d : Dev) (i j : Nat) (c : Chan) : Dev := { d with chans := mput Chan.init d.chans (32 * i + j) c }
def bundle (d : Dev) (t b : Nat) (up : Bool) : Chan := mget Chan.init d.bundles (2 * (136 * t + b) + up.toNat)
def setBundle (d : Dev) (t b : Nat) (up : Bool) (c : Chan) : Dev :=
  { d with bundles := mput Chan.init d.bundles (2 * (136 * t + b) + up.toNat) c }

/-! ## Barks (R304) -/

def stampOf (d : Dev) (die : Nat) : Nat := getF d (diePg die) DIE.DIE_STAMP_STAMP

/-- Raise a bark; it takes its place when the command's other effects are done. -/
def bark (d : Dev) (typ src die sev : Nat) (part status : Option Nat) (detail : List Byte) : Dev :=
  let ep := match part with | some p => getF d (partPg p) PART.MAP_EPOCH_EPOCH | none => 0
  let b : Bark :=
    { typ := typ, src := src, die := die, sev := sev, part := part, epoch := ep, status := status,
      stamp := stampOf d die, detail := detail }
  { d with evt := { d.evt with raised := d.evt.raised ++ [b] } }

def lead (d : Dev) : Nat := getF d pkgPg PKG.PKG_INFO_LEAD

/-- Powered seconds of a die: its oscillator's cycles since manufacture, at 100 MHz (R424). -/
def powered (d : Dev) (die : Nat) : Nat := mget 0 d.ticks die / 10 ^ 8

def event (d : Dev) (e : UnitEv) : Dev := { d with events := d.events ++ [e] }


end Sys2Proof.Machine
end

