-- ==== Sys2Proof/Machine/Activity.lean ====
section
/-!
DEFINITION. Activity-group events (R384, R405): their counts, and the direct energy they add to the unit that causes
them (R447).
-/
namespace Sys2Proof.Machine

/-- Units that direct energy is kept for: core n, floor sequencer of tower t, and the quadrant d for every other event. -/
def unitCore (n : Nat) : Nat := n
def unitFloor (t : Nat) : Nat := 4096 + t
def unitOther (die : Nat) : Nat := 5000 + die
def unitDie (u : Nat) : Nat := if u < 4096 then u / 512 else if u < 5000 then (u - 4096) / 4 else u - 5000

/-- Rail kinds: 0 VDD_A, 1 VDD_S, 2 VDD_M, 3 VDD_D, 4 VPP; the rail of each activity group. -/
def groupRail (k : Nat) : Nat :=
  if k == 3 || k == 4 || k == 9 then 1 else if k < 11 then 0 else if k < 15 then 2 else if k == 16 then 4 else 3

/-- Present voltage of a rail kind on a die, in mV (R376). -/
def railMv (d : Dev) (die kind : Nat) : Nat :=
  match kind with
  | 0 => getF d (CLK.page.pg die) CLK.CLK_VOLT_VDD_A
  | 1 => 800
  | 2 => getF d (CLK.page.pg die) CLK.CLK_VOLT_VDD_M
  | 3 => 1100
  | _ => 2500

/-- `n` events of group `k` that unit `u` causes; refresh (group 17) is shared energy, in µJ by RAIL instance (R448). -/
def act (d : Dev) (u k n : Nat) : Dev :=
  let die := unitDie u
  let d := count d (ACT.page.pg die) (ACT.ACT_COUNT.at k) n
  let w := getF d (ACT.page.pg die) (ACT.ACT_WEIGHT.at k)
  let v := railMv d die (groupRail k)
  if k == 17 then
    { d with shared := mupd (0 : Rat) d.shared (24 + die)
               (fun x => x + ((w * n * v * v : Nat) : Rat) / ((1100 * 10 ^ 11 : Nat) : Rat)) }
  else { d with direct := mupd 0 d.direct (8 * u + groupRail k) (· + w * n * v * v) }

end Sys2Proof.Machine
end

