-- ==== Sys2Proof/Machine/Crypto.lean ====
section
/-!
DEFINITION. The check codes: CRC-32C and CRC-64, the Reed–Solomon code of a stored word with its generation tag
(R162, R163), SHA-512, the digest of a key (R436) and RSASSA-PSS verification (R438).
-/
namespace Sys2Proof.Machine

/-! ## Cyclic redundancy checks -/

/-- Eight steps of a reflected CRC register. -/
def crcBits (poly : Nat) : Nat → Nat → Nat
  | 0, c => c
  | n + 1, c => crcBits poly n (if c % 2 == 1 then Nat.xor (c / 2) poly else c / 2)

def crcGo (poly : Nat) (c : Nat) : List Byte → Nat
  | [] => c
  | b :: bs => crcGo poly (crcBits poly 8 (Nat.xor c b.toNat)) bs

/-- CRC-32C: the Castagnoli polynomial, reflected, initial value and final XOR of all ones. -/
def crc32c (bs : List Byte) : Nat := Nat.xor (crcGo 0x82F63B78 0xFFFFFFFF bs) 0xFFFFFFFF

/-- CRC-64 of R267: polynomial 0x42F0_E1EB_A9EA_3693, reflected, initial value and final XOR of all ones. -/
def crc64 (bs : List Byte) : Nat := Nat.xor (crcGo 0xC96C5795D7870F42 (2 ^ 64 - 1) bs) (2 ^ 64 - 1)

/-! ## The stored word (R162) -/

/-- Product in GF(2^8) with field polynomial 0x11D. -/
def gfMulGo : Nat → Nat → Nat → Nat → Nat
  | 0, _, _, acc => acc
  | n + 1, a, b, acc =>
    let acc' := if b % 2 == 1 then Nat.xor acc a else acc
    let a' := 2 * a
    gfMulGo n (if a' ≥ 256 then Nat.xor a' 0x11D else a') (b / 2) acc'
def gfMul (a b : Nat) : Nat := gfMulGo 8 a b 0

def gfPow : Nat → Nat
  | 0 => 1
  | n + 1 => gfMul 2 (gfPow n)

/-- The generator (x − 1)(x − α)(x − α²) = x³ + 7x² + 14x + 8. -/
def rsStep (r : Nat × Nat × Nat) (s : Nat) : Nat × Nat × Nat :=
  let f := Nat.xor r.1 s
  (Nat.xor r.2.1 (gfMul f 7), Nat.xor r.2.2 (gfMul f 14), gfMul f 8)

/-- Check symbols at x², x, 1 of the symbols given from x^35 down to x^3. -/
def rsRem (syms : List Nat) : Nat × Nat × Nat := syms.foldl rsStep (0, 0, 0)

def dataSyms (data : List Byte) : List Nat := (data.map (·.toNat)).reverse

/-- The codeword of 32 data bytes under a generation tag. -/
def encodeWord (gen : Nat) (data : List Byte) : BitVec 280 :=
  let (c2, c1, c0) := rsRem (gen :: dataSyms data)
  BitVec.ofNat 280 (leNat data + (c0 + 256 * c1 + 65536 * c2) * 2 ^ 256)

/-- c(α^k) of a stored word under an assumed tag. -/
def syndrome (gen k : Nat) (w : List Nat) : Nat := (gen :: w.reverse).foldl (fun acc s => Nat.xor (gfMul acc (gfPow k)) s) 0

/-- What a read of a stored word finds (Table — read outcomes). -/
inductive ReadOut where
  | ok (data : List Byte)
  | corrected (data : List Byte)
  | stale
  | uncorrectable
deriving DecidableEq, Repr

def decodeWord (gen : Nat) (w : BitVec 280) : ReadOut :=
  let data := leBytes 32 w.toNat
  let chk := (leBytes 3 (w.toNat / 2 ^ 256)).map (·.toNat)
  let syms := chk ++ data.map (·.toNat)
  let s0 := syndrome gen 0 syms
  let s1 := syndrome gen 1 syms
  let s2 := syndrome gen 2 syms
  if s0 == 0 && s1 == 0 && s2 == 0 then .ok data
  else if s0 == 0 || s1 == 0 || s2 == 0 || gfMul s1 s1 != gfMul s0 s2 then .uncorrectable
  else
    match (List.range 36).find? (fun p => gfMul s0 (gfPow p) == s1) with
    | none => .uncorrectable
    | some p =>
      if p < 3 then .corrected data
      else if p < 35 then
        .corrected ((List.range 32).map (fun i =>
          if i + 3 == p then BitVec.ofNat 8 (Nat.xor (data.getD i 0).toNat s0) else data.getD i 0))
      else if s0 < 16 then .stale
      else .uncorrectable

/-! ## SHA-512 -/

/-- The largest `x` below `2 ^ b + x₀`, built bit by bit from `x₀`, whose k-th power is at most `v`. -/
def rootGo (k v : Nat) : Nat → Nat → Nat
  | 0, x => x
  | b + 1, x => rootGo k v b (if (x + 2 ^ b) ^ k ≤ v then x + 2 ^ b else x)

/-- First 64 bits of the fractional part of the k-th root of `p`, as FIPS 180-4 derives the constants of SHA-512. -/
def rootFrac (k p : Nat) : Nat := rootGo k (p * 2 ^ (64 * k)) 70 0 % 2 ^ 64

/-- The primes below 410: the first 80. -/
def shaPrimes : List Nat :=
  (List.range 410).filter (fun p => 2 ≤ p && [2, 3, 5, 7, 11, 13, 17, 19].all (fun q => p == q || p % q != 0))

/-- Round constants: cube roots of the first 80 primes. -/
def shaK : List Nat := shaPrimes.map (rootFrac 3)

/-- Initial hash value: square roots of the first 8 primes. -/
def shaInit : List Nat := (shaPrimes.take 8).map (rootFrac 2)

def w64 : Nat := 2 ^ 64
def rotr (x n : Nat) : Nat := x / 2 ^ n + x % 2 ^ n * 2 ^ (64 - n)
def xor3 (a b c : Nat) : Nat := Nat.xor (Nat.xor a b) c

/-- The message schedule, newest word first. -/
def shaSched : Nat → List Nat → List Nat
  | 0, w => w
  | n + 1, w =>
    let g (i : Nat) := w.getD i 0
    let s0 := xor3 (rotr (g 14) 1) (rotr (g 14) 8) (g 14 / 128)
    let s1 := xor3 (rotr (g 1) 19) (rotr (g 1) 61) (g 1 / 64)
    shaSched n (((g 15 + s0 + g 6 + s1) % w64) :: w)

structure ShaRegs where
  a : Nat
  b : Nat
  c : Nat
  d : Nat
  e : Nat
  f : Nat
  g : Nat
  h : Nat
deriving DecidableEq, Repr

def shaRound (r : ShaRegs) (kw : Nat × Nat) : ShaRegs :=
  let s1 := xor3 (rotr r.e 14) (rotr r.e 18) (rotr r.e 41)
  let ch := Nat.xor (Nat.land r.e r.f) (Nat.land (w64 - 1 - r.e) r.g)
  let t1 := r.h + s1 + ch + kw.1 + kw.2
  let s0 := xor3 (rotr r.a 28) (rotr r.a 34) (rotr r.a 39)
  let maj := xor3 (Nat.land r.a r.b) (Nat.land r.a r.c) (Nat.land r.b r.c)
  ⟨(t1 + s0 + maj) % w64, r.a, r.b, r.c, (r.d + t1) % w64, r.e, r.f, r.g⟩

def beNat (bs : List Byte) : Nat := bs.foldl (fun acc b => acc * 256 + b.toNat) 0

def shaBlock (h : List Nat) (blk : List Byte) : List Nat :=
  let w := (shaSched 64 ((pieces 8 blk).map beNat).reverse).reverse
  let i (k : Nat) := h.getD k 0
  let r := (shaK.zip w).foldl shaRound ⟨i 0, i 1, i 2, i 3, i 4, i 5, i 6, i 7⟩
  (h.zip [r.a, r.b, r.c, r.d, r.e, r.f, r.g, r.h]).map (fun p => (p.1 + p.2) % w64)

def beBytes (n v : Nat) : List Byte := (leBytes n v).reverse

/-- SHA-512: 64 bytes, in the order the standard gives them. -/
def sha512 (m : List Byte) : List Byte :=
  let padLen := (239 - m.length % 128) % 128
  let p := m ++ [0x80#8] ++ zeros padLen ++ beBytes 16 (8 * m.length)
  (((pieces 128 p).foldl shaBlock shaInit).map (beBytes 8)).flatten

/-! ## Key digests (R436) -/

/-- Big-endian octets of a number, none of them leading zeros. -/
def beMinGo : Nat → Nat → List Byte → List Byte
  | 0, _, acc => acc
  | f + 1, v, acc => if v == 0 then acc else beMinGo f (v / 256) (BitVec.ofNat 8 v :: acc)
def beMin (v : Nat) : List Byte := beMinGo 600 v []

def derLen (n : Nat) : List Byte :=
  if n < 128 then [BitVec.ofNat 8 n]
  else
    let bs := beMin n
    BitVec.ofNat 8 (128 + bs.length) :: bs

def der (tag : Byte) (body : List Byte) : List Byte := tag :: derLen body.length ++ body

/-- INTEGER of a number that is not negative. -/
def derInt (v : Nat) : List Byte :=
  let bs := beMin v
  der 0x02#8 (match bs with
    | [] => [0#8]
    | b :: _ => if b.toNat ≥ 128 then 0#8 :: bs else bs)

/-- AlgorithmIdentifier of rsaEncryption, 1.2.840.113549.1.1.1, with NULL parameters. -/
def derRsa : List Byte :=
  der 0x30#8 (der 0x06#8 [0x2A#8, 0x86#8, 0x48#8, 0x86#8, 0xF7#8, 0x0D#8, 0x01#8, 0x01#8, 0x01#8] ++ der 0x05#8 [])

/-- SHA-512 of the DER encoding of a key's X.509 SubjectPublicKeyInfo. -/
def keyDigest (n e : Nat) : List Byte :=
  sha512 (der 0x30#8 (derRsa ++ der 0x03#8 (0#8 :: der 0x30#8 (derInt n ++ derInt e))))

/-- Exponent of the identity and the metering key (R435). -/
def keyExp : Nat := 65537

/-- Word `i` of ID_DIGEST and of MK_DIGEST (R315). -/
def idWord (i : Nat) : Nat := leNat (((keyDigest Config.idModulus.toNat keyExp).drop (8 * i)).take 8)
def mkWord (i : Nat) : Nat := leNat (((keyDigest Config.mkModulus.toNat keyExp).drop (8 * i)).take 8)

/-! ## RSASSA-PSS (R438) -/

/-- `b ^ e mod n`, over the bits of `e` from the highest. -/
def modPow (b n : Nat) : Nat → Nat → Nat → Nat
  | 0, _, acc => acc
  | f + 1, e, acc =>
    let sq := acc * acc % n
    modPow b n f e (if e / 2 ^ f % 2 == 1 then sq * b % n else sq)

/-- MGF1 with SHA-512. -/
def mgf1 (seed : List Byte) (len : Nat) : List Byte :=
  (((List.range ((len + 63) / 64)).map (fun i => sha512 (seed ++ beBytes 4 i))).flatten).take len

def xorBytes (a b : List Byte) : List Byte := List.zipWith (· ^^^ ·) a b

/-- EMSA-PSS verification of an encoded message of 512 octets, 4,095 bits, with a salt of 64 octets. -/
def emsaPssOk (m em : List Byte) : Bool :=
  let db := em.take 447
  let h := (em.drop 447).take 64
  let un := match xorBytes db (mgf1 h 447) with
    | b :: r => (b &&& 0x7F#8) :: r
    | [] => []
  let salt := un.drop 383
  em.length == 512 && em.getLastD 0 == 0xBC#8 && (em.headD 0).toNat < 128 && un.take 382 == zeros 382 && un.getD 382 0 == 1#8 &&
    sha512 (zeros 8 ++ sha512 m ++ salt) == h

/-- Does a signature of 512 octets verify under a key? -/
def pssOk (n e : Nat) (m sig : List Byte) : Bool :=
  let s := beNat sig
  s < n && emsaPssOk m (beBytes 512 (modPow s n 32 e 1))

end Sys2Proof.Machine
end

