-- ==== Sys2Proof/Machine/Repair.lean ====
section
/-!
DEFINITION. What several families record as it happens: leaky buckets (R413, R414), the kennel and the field fuse
banks (R337 to R339), the map epoch (R370, R371) and uncorrectable SRAM barks (R415).
-/
namespace Sys2Proof.Machine

def eccPg : Nat := ECC.page.pg 0
def kenlPg : Nat := KENL.page.pg 0
def secPg : Nat := SEC.page.pg 0
def rstPg : Nat := RST.page.pg 0
def lifePg : Nat := LIFE.page.pg 0

/-- One correction adds one count to bucket `i`: towers 0 to 31, die d at 32 + d (R413, R414). -/
def bucketAdd (d : Dev) (i : Nat) : Dev :=
  let d := if i < 32 then count d eccPg ECC.CORR_TOWER 1 else count d eccPg ECC.CORR_DIE 1
  let lv := getF d eccPg (ECC.ECC_BUCKET_LEVEL.at i)
  if lv + 1 < 256 then setF d eccPg (ECC.ECC_BUCKET_LEVEL.at i) (lv + 1)
  else
    let ov := min 0xFFFF (getF d eccPg (ECC.ECC_BUCKET_OVERFLOWS.at i) + 1)
    let d := setF d eccPg (ECC.ECC_BUCKET_LEVEL.at i) 0
    let d := setF d eccPg (ECC.ECC_BUCKET_OVERFLOWS.at i) ov
    let d := count d eccPg ECC.OVERFLOWS 1
    bark d 0x0F01 eccPg (lead d) 1 none none ([BitVec.ofNat 8 i, 0] ++ leBytes 2 ov)

/-! ## The kennel -/

def entSite (die g p s : Nat) : Nat := 1 * 2 ^ 28 + die * 2 ^ 10 + g * 2 ^ 8 + p * 2 ^ 6 + s
def entColumn (t b : Nat) : Nat := 2 * 2 ^ 28 + t * 2 ^ 8 + b
def entFrame (t f : Nat) : Nat := 3 * 2 ^ 28 + t * 2 ^ 16 + f
def entLayer (t l : Nat) : Nat := 4 * 2 ^ 28 + t * 2 ^ 4 + l
def entLane (t b l : Nat) : Nat := 5 * 2 ^ 28 + t * 2 ^ 17 + b * 2 ^ 9 + l
def entPeer (i j l : Nat) : Nat := 6 * 2 ^ 28 + i * 2 ^ 9 + j * 2 ^ 4 + l
def entSlice (r s : Nat) : Nat := 7 * 2 ^ 28 + r * 2 ^ 5 + s
def entRegion (r : Nat) : Nat := 8 * 2 ^ 28 + r
def entSteward (die k : Nat) : Nat := 9 * 2 ^ 28 + die * 2 + k
def entComb (c : Nat) : Nat := 10 * 2 ^ 28 + c

def entKind (e : Nat) : Nat := e / 2 ^ 28 % 16

/-- The dies in whose field fuse banks an entry is burned (R337). -/
def entDies (e : Nat) : List Nat :=
  match entKind e with
  | 1 => [bits e 12 10]
  | 2 => [bits e 12 8 / 4]
  | 4 => [bits e 8 4 / 4]
  | 5 => [bits e 21 17 / 4]
  | 6 => [bits e 13 9 / 4]
  | 7 => [bits e 9 5 / 4]
  | 8 => [bits e 4 0 / 4]
  | 9 => [bits e 3 1]
  | 10 => [0, 7]
  | _ => []

/-- Does an ENTRY word name a unit of the device, with its other bits zero (R337)? -/
def entOk (e : Nat) : Bool :=
  match entKind e with
  | 1 => bits e 27 13 == 0 && bits e 5 0 < 34
  | 2 => bits e 27 13 == 0 && bits e 7 0 < 136
  | 3 => bits e 27 21 == 0 && bits e 15 0 < 34816
  | 4 => bits e 27 9 == 0
  | 5 => bits e 27 22 == 0 && bits e 16 9 < 136 && bits e 8 0 < 280
  | 6 => bits e 27 14 == 0 && bits e 3 0 ≤ 8 && bits e 13 9 != bits e 8 4
  | 7 => bits e 27 10 == 0
  | 8 => bits e 27 5 == 0
  | 9 => bits e 27 4 == 0
  | 10 => bits e 27 1 == 0
  | _ => false

def fuseBank (d : Dev) (die : Nat) : List Nat := mget [] d.fieldFuse die

/-- Burn an entry in a die's bank of 512; a full bank raises a bark. -/
def burnFuse (d : Dev) (e die : Nat) : Dev :=
  let bank := fuseBank d die
  if bank.length < 512 then
    let d := { d with fieldFuse := mput [] d.fieldFuse die (bank ++ [e]) }
    setF d (diePg die) DIE.DIE_FUSE_FIELD_FREE (512 - (bank.length + 1))
  else bark d 0x0A02 kenlPg (lead d) 2 none none [2, BitVec.ofNat 8 die]

/-- The 32-byte record of Table — kennel record. -/
def kennelRecord (d : Dev) (e cause : Nat) : BitVec 256 :=
  let body := leBytes 4 e ++ [BitVec.ofNat 8 cause, BitVec.ofNat 8 (lead d)] ++ leBytes 6 (stampOf d (lead d)) ++
    leBytes 4 (getF d lifePg LIFE.LIFE_STAT_NOTE_IDX) ++ leBytes 8 (powered d (lead d)) ++ zeros 4
  BitVec.ofNat 256 (leNat (body ++ leBytes 4 (crc32c body)))

/-- A record in both flash copies, unless they are full (R337). -/
def kennelFlash (d : Dev) (e cause : Nat) : Dev :=
  let n := getF d kenlPg KENL.KENL_STAT_RECORDS
  if n < 131072 then
    let r := kennelRecord d e cause
    let d := { d with kenl := mput 0 (mput 0 d.kenl n r) (131072 + n) r }
    let d := setF d kenlPg KENL.KENL_STAT_RECORDS (n + 1)
    let d := if n + 1 == 131072 then setF d kenlPg KENL.KENL_STAT_FULL 1 else d
    let d := count d kenlPg KENL.KENL_ADDED 1
    bark d 0x0A01 kenlPg (lead d) 1 none none (leBytes 4 e ++ [BitVec.ofNat 8 cause])
  else bark d 0x0A02 kenlPg (lead d) 2 none none [3, 0]

/-- Record a bad unit in both flash copies and burn it where its kind is burned (R337). -/
def kennelAdd (d : Dev) (e cause : Nat) : Dev := (entDies e).foldl (fun d die => burnFuse d e die) (kennelFlash d e cause)

/-- Every ENTRY word the kennel holds, read from copy 0. -/
def kennelEntries (d : Dev) : List Nat :=
  (List.range (getF d kenlPg KENL.KENL_STAT_RECORDS)).map (fun i => (mget 0 d.kenl i).toNat % 2 ^ 32)

/-! ## The factory fuse maps (R336) -/

/-- Copy A (0) or B (1) of a die's factory fuse map. -/
def fuseCopy (d : Dev) (die c : Nat) : FuseCopy := mget FuseCopy.init d.fuseMaps (2 * die + c)

def fusePg (k : Nat) : Nat := FUSE.page.pg k

/-- Do the copies of a die differ in bad-unit entries alone, if at all? -/
def fusesAgree (d : Dev) (k : Nat) : Bool :=
  (fuseCopy d k 0).part == (fuseCopy d k 1).part && (fuseCopy d k 0).tables == (fuseCopy d k 1).tables

/-- The part fuses of a die: those of copy A, or of copy B where A fails its CRC. -/
def diePart (d : Dev) (k : Nat) : Part :=
  (fuseCopy d k (if getF d (fusePg k) FUSE.FUSE_STAT_COPY_A_OK == 1 then 0 else 1)).part

/-- Bad units of the fuse map that a die uses: those of the copies that passed their CRC, of both where they differ in nothing else. A die
whose copies differ in more is test-only, and none of its units is used. -/
def fuseUnits (d : Dev) (k : Nat) : List Nat :=
  ((if getF d (fusePg k) FUSE.FUSE_STAT_COPY_A_OK == 1 then (fuseCopy d k 0).bad else []) ++
    (if getF d (fusePg k) FUSE.FUSE_STAT_COPY_B_OK == 1 then (fuseCopy d k 1).bad else [])).eraseDups

/-- Every bad unit that the fuse maps, the field fuse banks or the kennel name (R335). -/
def badEntries (d : Dev) : List Nat :=
  (List.range 8).flatMap (fuseUnits d) ++ ((List.range 8).map (fuseBank d)).flatten ++ kennelEntries d

/-! ## The map epoch (R370, R371) -/

def epochUp (d : Dev) (p : Nat) : Dev :=
  setF d (partPg p) PART.MAP_EPOCH_EPOCH (getF d (partPg p) PART.MAP_EPOCH_EPOCH + 1)

/-- An event that concerns region `r` raises the epoch of the partition whose region set holds it. -/
def epochRegion (d : Dev) (r : Nat) : Dev :=
  match partOf d r with
  | some p => epochUp d p
  | none => d

/-- Partition states (R235). -/
def psNone : Nat := 0
def psLoading : Nat := 1
def psLoaded : Nat := 2
def psHalted : Nat := 3
def psUnloading : Nat := 4
def partState (d : Dev) (p : Nat) : Nat := getF d (partPg p) PART.PART_STAT_STATE
def setPartState (d : Dev) (p v : Nat) : Dev := setF d (partPg p) PART.PART_STAT_STATE v
/-- A partition that a unit's fault, muzzle or reset puts into HALTED (R16, R236). -/
def haltPart (d : Dev) (p : Nat) : Dev := if partState d p == psLoaded then setPartState d p psHalted else d
/-- The partition of a region, if it belongs to one, enters HALTED. -/
def haltRegion (d : Dev) (r : Nat) : Dev := match partOf d r with | some p => haltPart d p | none => d
/-- Does the partition have a plan loaded? -/
def planLoaded (d : Dev) (p : Nat) : Bool := partState d p == psLoaded || partState d p == psHalted

def zoneOf (d : Dev) (z : Nat) : Zone := mget Zone.init d.zones z
def setZone (d : Dev) (z : Nat) (x : Zone) : Dev := { d with zones := mput Zone.init d.zones z x }
/-- Does a thermal stop, or the thermal hold of a region, keep a partition over these regions in HALTED (R397, R401)? -/
def stopStays (d : Dev) (rs : List Nat) : Bool := d.heat.stopped || rs.any (fun r => (zoneOf d (8 + r)).hold)

/-- Does a region belong to a partition with a plan loaded? -/
def regionPlanned (d : Dev) (r : Nat) : Bool :=
  match partOf d r with
  | some p => planLoaded d p
  | none => false

/-- Regions of a region set. -/
def regionsOf (d : Dev) (p : Nat) : List Nat :=
  let m := getF d (partPg p) PART.PART_STAT_REGIONS
  (List.range 32).filter (fun r => bit m r)

end Sys2Proof.Machine
end

