-- ==== Sys2Proof/Machine/LifeLog.lean ====
section
/-!
DEFINITION. The life-log journal (R423 to R427): records, their payloads, and the folding of the oldest block. A record
is written when it is made.
-/
namespace Sys2Proof.Machine

def flshPg : Nat := FLSH.page.pg 0

/-- Records of a 256 KiB block, and of the journal region. -/
def logBlock : Nat := 4096
def logCap : Nat := 3145728

/-- The 64 bytes of a record: `payload` are bytes 24 to 59 (R424). -/
def lifeRecord (d : Dev) (kind sub : Nat) (payload : List Byte) : BitVec 512 :=
  let body := leBytes 2 kind ++ [BitVec.ofNat 8 (lead d), BitVec.ofNat 8 sub] ++ leBytes 6 (stampOf d (lead d)) ++
    leBytes 4 (getF d lifePg LIFE.LIFE_STAT_NOTE_IDX) ++ zeros 2 ++ leBytes 8 (powered d (lead d)) ++
    (payload ++ zeros 36).take 36
  BitVec.ofNat 512 (leNat (body ++ leBytes 4 (crc32c body)))

def recKind (r : BitVec 512) : Nat := r.toNat % 65536
def recBytes (r : BitVec 512) : List Byte := leBytes 64 r.toNat
def recPowered (r : BitVec 512) : Nat := r.toNat / 2 ^ 128 % 2 ^ 64
/-- TYPE of the bark record in a KIND 3 payload. -/
def recBark (r : BitVec 512) : Nat := r.toNat / 2 ^ 192 % 65536

/-- The bark-count record of one TYPE over a block's bark and bark-count records. -/
def foldType (d : Dev) (rs : List (BitVec 512)) (typ : Nat) : BitVec 512 :=
  let barks := rs.filter (fun r => recKind r == 3 && recBark r == typ)
  let counts := rs.filter (fun r => recKind r == 4 && r.toNat / 2 ^ 192 % 65536 == typ)
  let n := barks.length + counts.foldl (fun s r => s + r.toNat / 2 ^ 224 % 2 ^ 32) 0
  let ps := barks.map recPowered ++ counts.map (fun r => r.toNat / 2 ^ 256 % 2 ^ 64)
  let qs := barks.map recPowered ++ counts.map (fun r => r.toNat / 2 ^ 320 % 2 ^ 64)
  lifeRecord d 4 0 (leBytes 2 typ ++ zeros 2 ++ leBytes 4 n ++ leBytes 8 (ps.foldl min (2 ^ 64 - 1)) ++
    leBytes 8 (qs.foldl max 0))

/-- WEAR: the erase count of the most-worn block, in 0.1 % of the rated 100,000 (R434). The 768 blocks of the journal, and the 128 of the notes, are
used in turn (R423); a block of notes is erased as each 8,192 notes past the region's first 1,048,576 begin. -/
def flashWear (erases idx : Nat) : Nat := max ((erases + 767) / 768) (((idx - 1048576 + 8191) / 8192 + 127) / 128) / 100

def recSub (r : BitVec 512) : Nat := r.toNat / 2 ^ 24 % 256
def isSummary (r : BitVec 512) : Bool := recKind r == 1 || recKind r == 10

/-- The latest record of a kind and SUB. -/
def latestRec (rs : List (BitVec 512)) (kind sub : Nat) : Option (BitVec 512) :=
  rs.reverse.find? (fun r => recKind r == kind && recSub r == sub)

/-- The oldest block is erased: the latest summary it holds is rewritten at the head, its barks are folded, its other records
are kept (R427). -/
def compact (d : Dev) : Dev :=
  let old := d.log.take logBlock
  let rest := d.log.drop logBlock
  let newest (k n : Nat) : List (BitVec 512) :=
    (List.range n).filterMap (fun s => if (latestRec rest k s).isSome then none else latestRec old k s)
  let types := (old.filterMap (fun r => if recKind r == 3 || recKind r == 4 then some (recBark r) else none)).eraseDups
  let keep := old.filter (fun r => !isSummary r && recKind r != 3 && recKind r != 4)
  let d := { d with log := rest ++ newest 1 14 ++ newest 10 5 ++ types.map (foldType d old) ++ keep, erases := d.erases + 1 }
  let d := count (count d flshPg FLSH.ERASES 1) flshPg FLSH.COMPACTIONS 1
  setF d flshPg FLSH.FLSH_STAT_WEAR (flashWear d.erases (getF d lifePg LIFE.LIFE_STAT_NOTE_IDX))

/-- Append one record to the journal. -/
def life (d : Dev) (kind sub : Nat) (payload : List Byte) : Dev :=
  let d := if d.log.length ≥ logCap then compact d else d
  let d := count d lifePg LIFE.LOG_WRITES 1
  { d with log := d.log ++ [lifeRecord d kind sub payload] }

/-- Wear at 80 % raises its bark once (R423). -/
def wearCheck (d : Dev) : Dev :=
  let w := getF d flshPg FLSH.FLSH_STAT_WEAR
  if w < 800 || d.wearBarked then d
  else bark { d with wearBarked := true } 0x0B01 flshPg (lead d) 1 none none ([2, 0, 0, 0] ++ leBytes 2 w)

end Sys2Proof.Machine
end

