-- ==== Sys2Proof/Machine/Tower.lean ====
section
/-!
DEFINITION. Tower memory (chapter 6): the page map and its checks, stored words with their generation, the block
bitmap, clears, sweeps, retirement, migration, refresh and the counts of the TWR page.
-/
namespace Sys2Proof.Machine

/-! ## Page map entries (R154) -/

def meAbsent : Nat := 0
def meFresh : Nat := 1
def meValid : Nat := 2
def meRetired : Nat := 3

def meState (e : MapEntry) : Nat := bits e.toNat 63 62
def mePart (e : MapEntry) : Nat := bits e.toNat 61 59
def meHR (e : MapEntry) : Bool := bit e.toNat 58
def meHW (e : MapEntry) : Bool := bit e.toNat 57
def meDR (e : MapEntry) : Bool := bit e.toNat 56
def meDW (e : MapEntry) : Bool := bit e.toNat 55
def mePerm (e : MapEntry) : Nat := bits e.toNat 58 55
def meGen (e : MapEntry) : Nat := bits e.toNat 54 51
def meLow (e : MapEntry) : Nat := bits e.toNat 50 47
def meSweep (e : MapEntry) : Bool := bit e.toNat 46
def meWritten (e : MapEntry) : Nat := bits e.toNat 31 16
def meFrame (e : MapEntry) : Nat := bits e.toNat 15 0

/-- Bits `hi:lo` of an entry replaced. -/
def meSet (e : MapEntry) (hi lo v : Nat) : MapEntry :=
  BitVec.ofNat 64 (e.toNat - bits e.toNat hi lo * 2 ^ lo + v % 2 ^ (hi + 1 - lo) * 2 ^ lo)

def mkEntry (st part perm gen low frame : Nat) : MapEntry :=
  BitVec.ofNat 64 (st * 2 ^ 62 + part * 2 ^ 59 + perm * 2 ^ 55 + gen * 2 ^ 51 + low * 2 ^ 47 + frame)

def entry (d : Dev) (t k : Nat) : MapEntry := mget (0 : MapEntry) (tower d t).map k
def setEntry (d : Dev) (t k : Nat) (e : MapEntry) : Dev :=
  setTower d t { tower d t with map := mput (0 : MapEntry) (tower d t).map k e }

/-! ## Geometry (R152, R153) -/

def frameCol (f : Nat) : Nat := f / 256
def frameLayer (f : Nat) : Nat := f / 16 % 16
def lyrPg (t l : Nat) : Nat := LYR.page.pg (16 * t + l)

def colFailed (d : Dev) (t b : Nat) : Bool := (column d t b).failed

/-- Is a frame mapped by a page that is not RETIRED? -/
def frameMapped (d : Dev) (t f : Nat) : Bool :=
  (tower d t).map.any (fun (_, e) => (meState e == meFresh || meState e == meValid) && meFrame e == f)

def frameFree (d : Dev) (t f : Nat) : Bool :=
  !(tower d t).retired.contains f && !frameMapped d t f

/-- Lowest-numbered free good frame of a bank column. -/
def freeInCol (d : Dev) (t b : Nat) : Option Nat :=
  if colFailed d t b then none
  else ((List.range (Config.framesPerCol d.kind)).map (256 * b + ·)).find? (frameFree d t)

/-- The search of R158: the column, then the next ones, wrapping at 135. -/
def freeSearch (d : Dev) (t b : Nat) : Option Nat :=
  (List.range 136).findSome? (fun i => freeInCol d t ((b + i) % 136))

/-- The frame R177 gives a page: of its placed column under a loaded plan, else by the search of R158. -/
def frameFor (d : Dev) (t k : Nat) : Option Nat :=
  match mget none (tower d t).place k with
  | some b => freeInCol d t b
  | none => freeSearch d t (k % 136)

def eBit (d : Dev) (t f blk : Nat) : Bool := mget false (tower d t).ebits (1024 * f + blk)
def setEBit (d : Dev) (t f blk : Nat) (v : Bool) : Dev :=
  setTower d t { tower d t with ebits := mput false (tower d t).ebits (1024 * f + blk) v }

/-- Clear the E bits of a frame that is given to a page (R164). -/
def clearE (d : Dev) (t f : Nat) : Dev :=
  setTower d t { tower d t with ebits := (tower d t).ebits.filter (fun (k, _) => k / 1024 != f) }

def word (d : Dev) (t f w : Nat) : BitVec 280 := mget (0 : BitVec 280) (tower d t).words (65536 * f + w)
def setWord (d : Dev) (t f w : Nat) (v : BitVec 280) : Dev :=
  setTower d t { tower d t with words := mput (0 : BitVec 280) (tower d t).words (65536 * f + w) v }

/-! ## Retirement (R176, R179) -/

/-- The frame joins the retired-frame list, and the kennel. -/
def retireFrame (d : Dev) (t f : Nat) : Dev :=
  let d := setTower d t { tower d t with retired := (tower d t).retired ++ [f],
                                         suspect := (tower d t).suspect.filter (· != f) }
  let d := count d (twrPg t) TWR.FRAMES_RETIRED 1
  let d := count d (lyrPg t (frameLayer f)) LYR.LYR_STAT_FRAMES_RETIRED 1
  kennelAdd d (entFrame t f) 5

/-- Frames retired in a column, or in a layer, since the map build (R339). -/
def retiredSince (d : Dev) (t : Nat) : List Nat :=
  (tower d t).retired.filter (fun f => !(tower d t).badAtBuild.contains f)

/-- Every page mapped to one of the frames becomes RETIRED and the frames join the retired list (R179, R338). -/
def retireAll (d : Dev) (t : Nat) (sel : Nat → Bool) (fs : List Nat) : Dev :=
  let m := (tower d t).map.map (fun (k, e) =>
    if (meState e == meFresh || meState e == meValid) && sel (meFrame e) then (k, meSet e 63 62 meRetired) else (k, e))
  let new := fs.filter (fun f => !(tower d t).retired.contains f)
  let d := setTower d t { tower d t with map := m, retired := (tower d t).retired ++ new,
                                         suspect := (tower d t).suspect.filter (fun f => !new.contains f) }
  let d := new.foldl (fun d f => count d (lyrPg t (frameLayer f)) LYR.LYR_STAT_FRAMES_RETIRED 1) d
  count d (twrPg t) TWR.FRAMES_RETIRED new.length

/-- A bank column declared failed: every frame retired, its pages RETIRED (R179). -/
def failColumn (d : Dev) (t b : Nat) : Dev :=
  let d := setColumn d t b { column d t b with failed := true }
  retireAll d t (fun f => frameCol f == b) ((List.range (Config.framesPerCol d.kind)).map (256 * b + ·))

/-- A DRAM layer declared failed. -/
def failLayer (d : Dev) (t l : Nat) : Dev :=
  let d := setF d (lyrPg t l) LYR.LYR_STAT_FAILED 1
  retireAll d t (fun f => frameLayer f == l)
    (((List.range 136).map (fun b => (List.range 16).map (fun j => 256 * b + 16 * l + j))).flatten)

/-- Firmware's limits on a column and a layer after a frame has been retired (R339). -/
def retireLimits (d : Dev) (t f : Nat) : Dev :=
  let since := retiredSince d t
  let cl := getF d kenlPg KENL.COL_RETIRE_LIM
  let ll := getF d kenlPg KENL.LYR_RETIRE_LIM
  let b := frameCol f
  let l := frameLayer f
  let d :=
    if cl != 0 && !colFailed d t b && (since.filter (fun g => frameCol g == b)).length ≥ cl then
      kennelAdd (failColumn d t b) (entColumn t b) 6
    else d
  let inL := since.filter (fun g => frameLayer g == l)
  if ll != 0 && getF d (lyrPg t l) LYR.LYR_STAT_FAILED == 0 && inL.length ≥ ll &&
      (inL.map frameCol).eraseDups.length ≥ 4 then
    kennelAdd (failLayer d t l) (entLayer t l) 6
  else d

/-- An uncorrectable word retires its page (R176); `w` is the stored word within the frame. -/
def retirePage (d : Dev) (t k w : Nat) : Dev :=
  let e := entry d t k
  let f := meFrame e
  let d := setEntry d t k (meSet e 63 62 meRetired)
  let d := retireFrame d t f
  let d := bark d 0x2302 (twrPg t) (regionDie t) 2 (partOf d t) none (leBytes 2 k ++ leBytes 2 f ++ leBytes 4 w)
  retireLimits d t f

/-- A frame leaves use outside a read: its page, if it has one, becomes RETIRED with the bark of R176 (R338, R341). -/
def retireBare (t : Nat) (d : Dev) (f : Nat) : Dev :=
  let d := match (tower d t).map.find? (fun x => meFrame x.2 == f && (meState x.2 == meFresh || meState x.2 == meValid)) with
    | some (k, e) =>
      bark (setEntry d t k (meSet e 63 62 meRetired)) 0x2302 (twrPg t) (regionDie t) 2 (partOf d t) none
        (leBytes 2 k ++ leBytes 2 f ++ leBytes 4 0)
    | none => d
  let d := setTower d t { tower d t with retired := (tower d t).retired ++ [f],
                                         suspect := (tower d t).suspect.filter (· != f) }
  count (count d (twrPg t) TWR.FRAMES_RETIRED 1) (lyrPg t (frameLayer f)) LYR.LYR_STAT_FRAMES_RETIRED 1

/-- Seconds of the window in which corrected words count towards SUSPECT_LIM: 24 hours (R178). -/
def suspectWindow : Nat := 86400

/-- A corrected word counts on the TWR, LYR and ECC pages and towards the frame's suspect limit (R163, R178). -/
def corrected (d : Dev) (t f : Nat) : Dev :=
  let d := count d (twrPg t) TWR.CORRECTED 1
  let d := count d (lyrPg t (frameLayer f)) LYR.CORRECTED 1
  let d := bucketAdd d t
  let now := powered d (lead d)
  let seen := (mget [] (tower d t).corr f).filter (fun s => now < s + suspectWindow) ++ [now]
  let d := setTower d t { tower d t with corr := mput [] (tower d t).corr f seen }
  let lim := getF d (twrPg t) TWR.SUSPECT_LIM
  if lim != 0 && seen.length ≥ lim && !(tower d t).suspect.contains f then
    setTower d t { tower d t with suspect := (tower d t).suspect ++ [f] }
  else d

/-! ## Access checks (R155) -/

inductive Who where
  | host | engine | device
deriving DecidableEq, Repr

/-- The first of checks 2 to 4 that fails, with its status. -/
def checkPage (d : Dev) (t k : Nat) (who : Who) (write : Bool) : Option (Nat × Nat) :=
  let e := entry d t k
  if meState e == meAbsent then some (2, stMalformed)
  else
    let perm := match who with
      | .host => if write then meHW e else meHR e
      | .engine => partOf d t == some (mePart e) && (if write then meDW e else meDR e)
      | .device => true
    if !perm then some (3, stMalformed)
    else if meState e == meRetired then some (4, stUncorr)
    else none

def barkAccess (d : Dev) (t k check addr status : Nat) : Dev :=
  bark d 0x2301 (twrPg t) (regionDie t) 1 (partOf d t) (some status) (BitVec.ofNat 8 check :: leBytes 2 k ++ zeros 5 ++ leBytes 8 addr)

/-- The device address of a byte of a page (R31). -/
def devAddr (t k o : Nat) : Nat := t * 2 ^ 36 + k * 2 ^ 21 + o

/-! ## Reading and writing stored words -/

/-- One stored word as its page's generation reads it, before any count: R163 and R164. -/
inductive WordRead where
  | skip | word (r : ReadOut)
deriving DecidableEq, Repr

def lookWord (d : Dev) (t k w : Nat) : WordRead :=
  let e := entry d t k
  let f := meFrame e
  if !eBit d t f (w / 64) || !bit (meWritten e) (w / 4096) then .skip
  else .word (decodeWord (meGen e) (word d t f w))

/-- A read of one stored word, with its counts; none is an uncorrectable word, whose page is retired. -/
def readWord (d : Dev) (t k w : Nat) : Dev × Option (List Byte) :=
  match lookWord d t k w with
  | .skip => (count d (twrPg t) TWR.READ_SKIPS 1, some (zeros 32))
  | .word (.ok x) => (d, some x)
  | .word (.corrected x) => (corrected d t (meFrame (entry d t k)), some x)
  | .word .stale => (count d (twrPg t) TWR.STALE_ZERO 1, some (zeros 32))
  | .word .uncorrectable => (retirePage (count d (twrPg t) TWR.UNCORRECTED 1) t k w, none)

/-- Encode a whole word under the page's generation; the first write into a block with E clear fills the block. -/
def storeWord (d : Dev) (t k w : Nat) (data : List Byte) : Dev :=
  let e := entry d t k
  let f := meFrame e
  let blk := w / 64
  let d :=
    if eBit d t f blk then d
    else
      let z := encodeWord (meGen e) (zeros 32)
      let d := (List.range 64).foldl (fun d i => setWord d t f (64 * blk + i) z) d
      count (setEBit d t f blk true) (twrPg t) TWR.FILLS 1
  let d := setWord d t f w (encodeWord (meGen e) data)
  let st := if meState e == meFresh then meValid else meState e
  let e := meSet e 63 62 st
  setEntry d t k (meSet e 31 16 (Nat.lor (meWritten e) (2 ^ (w / 4096))))

/-- Bytes `o` to `o + n − 1` of a page, word by word in ascending order, checks already passed. -/
def readPageGo (t k : Nat) : Nat → Nat → Nat → Dev → Dev × Option (List Byte)
  | 0, _, _, d => (d, some [])
  | fuel + 1, o, n, d =>
    if n == 0 then (d, some [])
    else
      let a := o % 32
      let m := min n (32 - a)
      match readWord d t k (o / 32) with
      | (d, none) => (d, none)
      | (d, some x) =>
        match readPageGo t k fuel (o + m) (n - m) d with
        | (d, none) => (d, none)
        | (d, some r) => (d, some ((x.drop a).take m ++ r))

def readPage (d : Dev) (t k o n : Nat) : Dev × Option (List Byte) := readPageGo t k (n + 1) o n d

/-- The words of a write of `n` bytes at `o` that keep bytes of what they hold: the first and the last alone can. -/
def partWords (o n : Nat) : List Nat :=
  if n == 0 then []
  else ([o / 32, (o + n - 1) / 32].eraseDups).filter (fun w => 32 * w < o || o + n < 32 * w + 32)

/-- The part words of a write are read before anything is stored; none is an uncorrectable word. -/
def readParts (t k : Nat) : List Nat → Dev → Dev × Option (List (Nat × List Byte))
  | [], d => (d, some [])
  | w :: ws, d =>
    match readWord d t k w with
    | (d, none) => (d, none)
    | (d, some x) =>
      match readParts t k ws d with
      | (d, none) => (d, none)
      | (d, some r) => (d, some ((w, x) :: r))

/-- Whole words stored in ascending order, a part word merged with what was read of it. -/
def writePageGo (t k : Nat) (parts : List (Nat × List Byte)) : Nat → Nat → List Byte → Dev → Dev
  | 0, _, _, d => d
  | fuel + 1, o, bs, d =>
    if bs.isEmpty then d
    else
      let a := o % 32
      let now := bs.take (32 - a)
      let x := (parts.lookup (o / 32)).getD (zeros 32)
      writePageGo t k parts fuel (o + now.length) (bs.drop now.length)
        (storeWord d t k (o / 32) (x.take a ++ now ++ x.drop (a + now.length)))

/-- Bytes written at `o` of a page; a part word is read and merged. False is an uncorrectable word, with which nothing is
written (R165). -/
def writePage (d : Dev) (t k o : Nat) (bs : List Byte) : Dev × Bool :=
  match readParts t k (partWords o bs.length) d with
  | (d, none) => (d, false)
  | (d, some parts) => (writePageGo t k parts (bs.length + 1) o bs d, true)

/-- An access of `n` bytes within one page, with every check of R155: the bytes, or the failure's status. -/
def readTower (d : Dev) (who : Who) (addr n : Nat) : Dev × Except Nat (List Byte) :=
  let t := bits addr 40 36
  let k := bits addr 35 21
  match checkPage d t k who false with
  | some (c, s) => (barkAccess d t k c addr s, .error s)
  | none =>
    match readPage d t k (bits addr 20 0) n with
    | (d, some x) => (d, .ok x)
    | (d, none) => (barkAccess d t k 5 addr stUncorr, .error stUncorr)

def writeTower (d : Dev) (who : Who) (addr : Nat) (bs : List Byte) : Dev × Option Nat :=
  let t := bits addr 40 36
  let k := bits addr 35 21
  match checkPage d t k who true with
  | some (c, s) => (barkAccess d t k c addr s, some s)
  | none =>
    match writePage d t k (bits addr 20 0) bs with
    | (d, true) => (d, none)
    | (d, false) => (barkAccess d t k 5 addr stUncorr, some stUncorr)

/-! ## Device addresses (R31 to R34) -/

inductive AddrKind where
  | tower (t k o : Nat)
  | page (pg off : Nat)
  | reserved
deriving DecidableEq, Repr

def addrKind (p : Part) (a : Nat) : AddrKind :=
  if a < 2 ^ 41 then
    if bits a 35 21 < Config.pages p then .tower (bits a 40 36) (bits a 35 21) (bits a 20 0) else .reserved
  else if a < 2 ^ 44 && bits a 43 28 == 0xF000 then .page (bits a 27 12) (bits a 11 0)
  else .reserved

/-- A reserved device address reached through a page's station raises bark 0x0101 (R33, R305). -/
def barkReserved (d : Dev) (src addr : Nat) : Dev := bark d 0x0101 src (lead d) 1 none (some stMalformed) (leBytes 8 addr)

/-! ## Clears and sweeps (R167 to R169, R177) -/

/-- A page's sweep starts: G0 is its generation, SWEEP is set. Another sweep of the tower runs first. -/
def startSweep (d : Dev) (t k : Nat) : Dev :=
  let tw := tower d t
  if tw.sweep.isSome then
    if tw.sweepDue.contains k || (tw.sweep.map (·.page)) == some k then d
    else setTower d t { tw with sweepDue := tw.sweepDue ++ [k] }
  else
    let e := entry d t k
    let d := setEntry d t k (meSet e 46 46 1)
    setTower d t { tower d t with sweep := some ⟨k, 0, meGen e⟩ }

/-- The sweep of a page ends with no LOW set, as its page is retired; the next one due starts. -/
def dropSweep (d : Dev) (t k : Nat) : Dev :=
  let tw := tower d t
  let due := tw.sweepDue.filter (· != k)
  if (tw.sweep.map (·.page)) == some k then
    let d := setEntry d t k (meSet (entry d t k) 46 46 0)
    let d := setTower d t { tower d t with sweep := none, sweepDue := due.drop 1 }
    match due with
    | k :: _ => startSweep d t k
    | [] => d
  else setTower d t { tw with sweepDue := due }

/-- Does a sweep of the page run, or stand next? -/
def sweepAhead (d : Dev) (t k : Nat) : Bool :=
  ((tower d t).sweep.map (·.page)) == some k || (tower d t).sweepDue.contains k

/-- Outcome of a clear: done, waiting for the running sweep, or NOT_NOW. -/
inductive ClearOut where
  | done | wait | notNow
deriving DecidableEq, Repr

def clearPage (d : Dev) (t k : Nat) : Dev × ClearOut :=
  let e := entry d t k
  let g := (meGen e + 1) % 16
  if meState e == meAbsent then (d, .notNow)
  else if meState e == meRetired then
    match frameFor d t k with
    | none => (d, .notNow)
    | some f =>
      let e' := mkEntry meFresh (mePart e) (mePerm e) (meGen e) (meGen e) f
      let d := clearE (setEntry (dropSweep d t k) t k e') t f
      let d := if (mget none (tower d t).place k).isSome then epochRegion d t else d
      (count d (twrPg t) TWR.CLEARS 1, .done)
  else if g == meLow e then (startSweep d t k, .wait)
  else
    let e' := meSet (meSet (meSet e 54 51 g) 31 16 0) 63 62 meFresh
    let d := count (setEntry d t k e') (twrPg t) TWR.CLEARS 1
    let d := if (g + 16 - meLow e) % 16 ≥ 8 && !meSweep e then startSweep d t k else d
    (d, .done)

/-- The end of a sweep: SWEEP clear, LOW := G0; the next one due starts. -/
def endSweep (d : Dev) (t : Nat) (sw : Sweep) : Dev :=
  let e := entry d t sw.page
  let d := setEntry d t sw.page (meSet (meSet e 46 46 0) 50 47 sw.g0)
  let d := count d (twrPg t) TWR.SWEEPS 1
  let due := (tower d t).sweepDue
  let d := setTower d t { tower d t with sweep := none, sweepDue := due.drop 1 }
  match due with
  | k :: _ => startSweep d t k
  | [] => d

/-- What re-reading one block does: stale words rewritten as zero under the current generation, corrected words
written back where `fix` is set (R168, R417); false when a word was uncorrectable, whose page is then retired. -/
def reworkWords (t k : Nat) (fix : Bool) : List Nat → Dev → Dev × Bool
  | [], d => (d, true)
  | w :: ws, d =>
    let e := entry d t k
    let f := meFrame e
    match decodeWord (meGen e) (word d t f w) with
    | .ok _ => reworkWords t k fix ws d
    | .stale =>
      let d := count (setWord d t f w (encodeWord (meGen e) (zeros 32))) (twrPg t) TWR.STALE_ZERO 1
      let d := if fix then count d (SCRB.page.pg t) SCRB.STALE_REWRITES 1 else d
      reworkWords t k fix ws d
    | .corrected x =>
      let d := corrected d t f
      let d := if fix then count (setWord d t f w (encodeWord (meGen e) x)) (SCRB.page.pg t) SCRB.WRITEBACKS 1 else d
      reworkWords t k fix ws d
    | .uncorrectable => (retirePage (count d (twrPg t) TWR.UNCORRECTED 1) t k w, false)

/-- One block of a page's frame, when its E bit is set. -/
def reworkBlock (d : Dev) (t k blk : Nat) (fix : Bool) : Dev × Bool :=
  if eBit d t (meFrame (entry d t k)) blk then
    reworkWords t k fix ((List.range 64).map (64 * blk + ·)) d
  else (d, true)

/-- One block of the running sweep. -/
def sweepOne (d : Dev) (t : Nat) : Dev :=
  match (tower d t).sweep with
  | none => d
  | some sw =>
    if meState (entry d t sw.page) == meRetired then dropSweep d t sw.page
    else
    match reworkBlock d t sw.page sw.block false with
    | (d, false) => dropSweep d t sw.page
    | (d, true) =>
      if sw.block + 1 == 1024 then endSweep d t sw
      else setTower d t { tower d t with sweep := some { sw with block := sw.block + 1 } }

/-! ## Migration (R178) -/

/-- Copy of one stored word, decoded under the current generation, into the new frame. -/
def copyWords (t k g : Nat) : List Nat → Dev → Dev × Bool
  | [], d => (d, true)
  | w :: ws, d =>
    let e := entry d t k
    match decodeWord (meGen e) (word d t (meFrame e) w) with
    | .ok x => copyWords t k g ws (setWord d t g w (encodeWord (meGen e) x))
    | .corrected x =>
      copyWords t k g ws (setWord (corrected d t (meFrame e)) t g w (encodeWord (meGen e) x))
    | .stale =>
      copyWords t k g ws (count (setWord d t g w (encodeWord (meGen e) (zeros 32))) (twrPg t) TWR.STALE_ZERO 1)
    | .uncorrectable => (retirePage (count d (twrPg t) TWR.UNCORRECTED 1) t k w, false)

def copyBlocks (t k g : Nat) : List Nat → Dev → Dev × Bool
  | [], d => (d, true)
  | b :: bs, d =>
    let e := entry d t k
    if eBit d t (meFrame e) b && bit (meWritten e) (b / 64) then
      match copyWords t k g ((List.range 64).map (64 * b + ·)) d with
      | (d, true) => copyBlocks t k g bs (setEBit d t g b true)
      | (d, false) => (d, false)
    else copyBlocks t k g bs d

/-- Move a FRESH or VALID page to frame `g`; `keepOld` returns the old frame to its column (R159, R178). -/
def migratePage (d : Dev) (t k g : Nat) (keepOld : Bool) : Dev × Bool :=
  let d := clearE d t g
  match copyBlocks t k g (List.range 1024) d with
  | (d, false) => (d, false)
  | (d, true) =>
    let e := entry d t k
    let old := meFrame e
    let d := setEntry d t k (meSet (meSet e 15 0 g) 50 47 (meGen e))
    let d := if keepOld then d else retireLimits (retireFrame d t old) t old
    (count d (twrPg t) TWR.MIGRATIONS 1, true)

/-! ## Refresh (R170, R171) -/

/-- One refresh operation of a column, counted in `f`. -/
def refreshOp (d : Dev) (t b : Nat) (f : Fld) : Dev :=
  let c := column d t b
  let d := setColumn d t b { c with debt := max (-2) (c.debt - 1) }
  count (count d (twrPg t) TWR.REFRESH_OPS 1) (twrPg t) f 1

/-- Does the column behave as though no plan were loaded (R127, R173)? -/
def colIdle (d : Dev) (t b : Nat) : Bool := !(port d t b).plan || (port d t b).ended

/-! ## Counts (R180) -/

def pagesUnbacked (d : Dev) (t : Nat) : Nat :=
  let n := (tower d t).map.filter (fun (_, e) => meState e == meFresh || meState e == meValid)
  Config.pages d.kind - n.length
def spareUsed (d : Dev) (t : Nat) : Nat := (tower d t).retired.length - pagesUnbacked d t
def spareFree (d : Dev) (t : Nat) : Nat := Config.spareFrames d.kind - spareUsed d t
def colFree (d : Dev) (t b : Nat) : Nat :=
  if colFailed d t b then 0
  else (((List.range (Config.framesPerCol d.kind)).map (256 * b + ·)).filter (frameFree d t)).length
def debtMax (d : Dev) (t : Nat) : Int := (List.range 136).foldl (fun m b => max m (column d t b).debt) (-2)

end Sys2Proof.Machine
end

