-- ==== Sys2Proof/Machine/Order.lean ====
section
/-!
DEFINITION. Order lists, tokens, joins and the conflict detector (chapter 5), with the fault state of a core, the
sending side of a peer channel, and the muzzling of units that fail after start (R367).
-/
namespace Sys2Proof.Machine

/-! ## Core fault state (R121) -/

/-- Status of an item under each core fault code. -/
def coreCodeStatus (c : Nat) : Nat := if c == 13 || c == 14 then stUncorr else stMalformed

/-- The core stops: issue ends, STATE reads 3, and its item fails with `status`; with no item its partition enters HALTED (R16). Code 0 raises no bark of its own. A
core that is already in fault state keeps its first fault. -/
def coreFault (d : Dev) (n idx code status : Nat) : Dev :=
  let c := core d n
  if c.st == .fault || c.st == .muzzled then d
  else
    let d := setCore d n { c with st := .fault, wait := 0, faultStep := idx, faultCode := code }
    let p := partOf d (coreRegion n)
    let d := if code == 0 then d
      else bark d 0x2E01 (corePg n) (coreDie n) 2 p (if c.item.isSome then some status else none)
        (leBytes 2 code ++ leBytes 2 idx)
    match c.item with
    | some i => event d (.fault i n status)
    | none => haltRegion d (coreRegion n)

/-! ## Sending side of a channel (R213 to R218) -/

def winOpt : Nat := 512
def seqOpt : Nat := 1024
def kData : Nat := 1
def kLast : Nat := 2
def kFenced : Nat := 3
def kRefused : Nat := 5

/-- Frames waiting move into the window while it has free places, taking their SEQ (R216). -/
def chanFill (win mod : Nat) : Nat → Chan → Chan
  | 0, c => c
  | f + 1, c =>
    match c.waiting with
    | [] => c
    | x :: r =>
      if c.unacked.length < win then
        chanFill win mod f { c with waiting := r, unacked := c.unacked ++ [{ x with seq := c.txNext }],
                                    txNext := (c.txNext + 1) % mod }
      else c

/-- Window of an outbound channel: a tower in reset sends no new frame (R359). -/
def sendWin (d : Dev) (i : Nat) : Nat := if (tower d i).hold then 0 else winOpt

def chanSend (d : Dev) (i j : Nat) (fs : List TxItem) : Dev :=
  let c := chan d i j
  setChan d i j (chanFill (sendWin d i) seqOpt (fs.length + c.waiting.length) { c with waiting := c.waiting ++ fs })

/-- End marks among frames: LAST, FENCED and REFUSED frames each close one send (R214). -/
def endMarks (fs : List TxItem) : Nat := (fs.filter (fun x => x.kind != 1)).length

/-- Frames before the first end mark, that mark included. -/
def firstSend : List TxItem → Nat
  | [] => 0
  | x :: r => if x.kind == 1 then firstSend r + 1 else 1

/-- A send among those whose frames wait is cut short: an empty mark marked fenced takes the place of its frames. -/
def cutSend : Nat → List TxItem → List TxItem
  | 0, fs => ⟨0, kFenced, [], 0⟩ :: fs.drop (firstSend fs)
  | n + 1, fs => fs.take (firstSend fs) ++ cutSend n (fs.drop (firstSend fs))

/-- Send `k` of channel i→j ends where it stands: frames that have not left are discarded and the matched receive meets a fenced mark (R16). A
send whose LAST frame has left is not touched. -/
def quitSend (d : Dev) (i j k : Nat) : Dev :=
  let c := chan d i j
  let e := endMarks c.waiting
  if k + e ≤ c.sendK then d else setChan d i j { c with waiting := cutSend (k + e - c.sendK - 1) c.waiting }

/-- The frames of a send of the bytes: DATA frames of 56 bytes and one LAST frame (R214). -/
def sendFrames (bs : List Byte) : List TxItem :=
  let ps := pieces 56 bs
  (ps.dropLast.map (fun p => ⟨0, kData, p, 0⟩)) ++ ((ps.drop (ps.length - 1)).map (fun p => ⟨0, kLast, p, 0⟩))

/-! ## List entries (R125) -/

def oeKind (e : BitVec 32) : Nat := bits e.toNat 31 29
def oeUser (e : BitVec 32) : Nat := bits e.toNat 28 22
def oeJoin (e : BitVec 32) : Nat := bits e.toNat 21 14
def oeCap (e : BitVec 32) : Nat := bits e.toNat 13 0
def oeTarget (e : BitVec 32) : Nat := bits e.toNat 28 16
def oeCount (e : BitVec 32) : Nat := bits e.toNat 15 0
def oeStop (e : BitVec 32) : Bool := bit e.toNat 28

def oeCore : Nat := 0
def oeFloor : Nat := 1
def oeFetch : Nat := 2
def oeRpt : Nat := 4
def oeEnd : Nat := 5

/-- The list of a bank column with no plan loaded: one FETCH entry, then END with STOP 0 (R127); its LEN is the largest (DESIGN CHOICE,
log entry 94). -/
def idleList : List (BitVec 32) := [0x40003FFF#32, 0xA0000000#32]
/-- The list of a channel between partitions: one END with STOP 1 (R130). -/
def stopList : List (BitVec 32) := [0xB0000000#32]

def portList (p : Nat) (x : Port) : List (BitVec 32) :=
  match x.list with
  | some l => l
  | none => if p < 136 then idleList else []

def portEntry (p : Nat) (x : Port) : Option (BitVec 32) := (portList p x)[x.ent]?

/-- The floor sequencer as a user number beside the cores 0 to 127. -/
def floorUser : Nat := 128

def entryUser (e : BitVec 32) : Option Nat :=
  if oeKind e == oeCore then some (oeUser e) else if oeKind e == oeFloor then some floorUser else none

/-- Is a core unable to take a turn: muzzled, held empty, or absent (R135)? -/
def userGone (d : Dev) (r u : Nat) : Bool :=
  u < 128 && ((core d (128 * r + u)).st == .muzzled || (siteOf d (128 * r + u)).isNone)

/-- Ports whose lists hold an entry of join `x`, ascending. -/
def joinMembers (d : Dev) (r x : Nat) : List Nat :=
  (List.range 236).filter (fun p =>
    match (port d r p).list with
    | some l => l.any (fun e => (oeKind e == oeCore || oeKind e == oeFloor) && oeJoin e == x)
    | none => false)

/-- The list's token as its holder presents it: port id and 14 turn bits. -/
def tokenOf (d : Dev) (r p : Nat) : Token := ⟨p, (port d r p).turn % 2 ^ 14⟩

/-! ## Moving along a list (R126, R135) -/

/-- From the port's entry, pass RPT and END entries until a turn or the end of the list; `fresh` counts a new turn. -/
def settleEntry (p : Nat) : Nat → Port → Port
  | 0, x => x
  | f + 1, x =>
    match portEntry p x with
    | none => { x with ended := true }
    | some e =>
      if oeKind e == oeRpt then
        let n := mget 0 x.pass x.ent
        if n < oeCount e then settleEntry p f { x with pass := mput 0 x.pass x.ent (n + 1), ent := oeTarget e }
        else settleEntry p f { x with pass := mput 0 x.pass x.ent 0, ent := x.ent + 1 }
      else if oeKind e == oeEnd then
        if oeStop e then { x with ended := true }
        else settleEntry p f { x with ent := 0, occ := [] }
      else x

def settlePort (p : Nat) (x : Port) : Port := settleEntry p (2 * (portList p x).length + 4 * 65536) x

/-- A new turn at the entry reached: the turn counter rises, the turn's byte count restarts. -/
def newTurn (d : Dev) (r p : Nat) : Dev :=
  let x := port d r p
  if x.ended then d
  else
    let d := setPort d r p { x with turn := (x.turn + 1) % 65536, moved := 0, place := .atPort, lead := none,
                                    stalled := false }
    match portEntry p x with
    | some e => if oeKind e == oeFetch then count d (twrPg r) TWR.FETCH_TURNS 1 else d
    | none => d

/-- Leave the entry: the next one, with RPT and END passed, becomes a new turn. -/
def leaveEntry (d : Dev) (r p : Nat) : Dev :=
  let x := port d r p
  let occ := match portEntry p x with
    | some e => if (entryUser e).isSome && oeJoin e != 0 then mupd 0 x.occ (oeJoin e) (· + 1) else x.occ
    | none => x.occ
  newTurn (setPort d r p (settlePort p { x with ent := x.ent + 1, occ := occ, place := .atPort, lead := none })) r p

/-- Grant the token of the turn the port stands at (R131, R188): a core's grant goes out as a message; the floor
sequencer holds its token at once. `ps` are the members, the first the one the token is taken under. -/
def grantAt (d : Dev) (r : Nat) (ps : List Nat) (u : Nat) : Dev :=
  match ps with
  | [] => d
  | l :: _ =>
    let d := count d (ordPg r) ORD.TOK_GRANTS 1
    let tok := tokenOf d r l
    let d := ps.foldl (fun d p =>
      setPort d r p { port d r p with place := if u == floorUser then .held else if p == l then .granting else .joinWait,
                                      lead := some l, stalled := false }) d
    if u == floorUser then
      let f := floor d r
      setFloor d r { f with held := (ps.filter (· < 136)).foldl (fun h p => mput none h p (some tok)) f.held }
    else
      setPort d r l { port d r l with msgs := (port d r l).msgs ++ [⟨0, tok.turn, u, 0, false⟩] }

/-- Turns skipped because the user is gone: at an outbound channel the send is closed as fenced, at an inbound one the
matched send is discarded (R135). A skipped join counts once at each of its members (DESIGN CHOICE, log entry 95). -/
def skipTurn (d : Dev) (r p : Nat) : Dev :=
  let d := count d (ordPg r) ORD.TURN_SKIPPED 1
  let d :=
    if 172 ≤ p && p < 204 then
      let j := p - 172
      let d := chanSend d r j [⟨0, kFenced, [], 0⟩]
      setChan d r j { chan d r j with sendK := (chan d r j).sendK + 1 }
    else if 204 ≤ p && p < 236 then
      let i := p - 204
      setChan d i r { chan d i r with skip := (chan d i r).skip + 1 }
    else d
  leaveEntry d r p

/-- Does a port stand in the tower base die, and not in the crossbar (R123)? -/
def baseDiePort (p : Nat) : Bool := p < 136 || 172 ≤ p

/-- Let the port act on the entry it stands at: skip, grant, or wait for a join; the ports of a tower in reset grant nothing
(R359). Fuel bounds the skips. -/
def serve (d : Dev) (r p : Nat) : Nat → Dev
  | 0 => d
  | f + 1 =>
    let x := port d r p
    if x.halted || x.ended || x.list.isNone || x.place != .atPort || getF d (rgnPg r) RGN.RGN_STAT_STATE == 3 ||
        ((tower d r).hold && baseDiePort p) then d
    else
      match portEntry p x with
      | none => d
      | some e =>
        match entryUser e with
        | none => d
        | some u =>
          let j := oeJoin e
          if j == 0 then
            if userGone d r u then serve (skipTurn d r p) r p f else grantAt d r [p] u
          else
            let d := setPort d r p { x with place := .joinWait, stalled := false }
            let ms := joinMembers d r j
            let ready := ms.all (fun q =>
              let y := port d r q
              y.place == .joinWait && y.lead.isNone && !y.halted &&
                match portEntry q y with
                | some e' => (entryUser e').isSome && oeJoin e' == j && mget 0 y.occ j == mget 0 x.occ j
                | none => false)
            if !ready then d
            else if userGone d r u then
              let d := ms.foldl (fun d q => skipTurn d r q) d
              ms.foldl (fun d q => serve d r q f) d
            else grantAt d r ms u

/-- Skips that one command carries out; an idle device carries on with the rest (log entry 3). -/
def serveFuel : Nat := 64

/-- The turn of a token ends at every member of its grant, and each goes on along its list (R128, R134). -/
def endTurn (d : Dev) (r l : Nat) : Dev :=
  let ms := (List.range 236).filter (fun q => (port d r q).lead == some l)
  let d := ms.foldl (fun d q => leaveEntry d r q) d
  ms.foldl (fun d q => serve d r q serveFuel) d

/-- A released token reaches its port (R132). -/
def releaseAtPort (d : Dev) (r l : Nat) : Dev := endTurn (count d (ordPg r) ORD.TOK_RELEASES 1) r l

/-- A token returns to its port at once, without a release (R134). -/
def returnToken (d : Dev) (r l : Nat) : Dev := endTurn (count d (ordPg r) ORD.TOK_RETURNED 1) r l

/-- Tokens of a region away from their ports: one for each grant not yet ended (R149). -/
def ordOut (d : Dev) (r : Nat) : Nat :=
  ((List.range 236).filter (fun p => (port d r p).lead == some p)).length

/-- Every token a core holds, has parked, or is being granted returns to its port. -/
def returnCoreTokens (d : Dev) (n : Nat) : Dev :=
  let r := coreRegion n
  let c := core d n
  let mine := (List.range 236).filter (fun p =>
    (port d r p).lead == some p &&
      match portEntry p (port d r p) with
      | some e => entryUser e == some (coreUser n)
      | none => false)
  let d := setCore d n { c with holders := [], toks := [], parked := [] }
  mine.foldl (fun d p => returnToken d r p) d

/-- The floor sequencer's tokens return to their ports. -/
def returnFloorTokens (d : Dev) (t : Nat) : Dev :=
  let mine := (List.range 236).filter (fun p =>
    (port d t p).lead == some p &&
      match portEntry p (port d t p) with
      | some e => entryUser e == some floorUser
      | none => false)
  let d := setFloor d t { floor d t with held := [] }
  mine.foldl (fun d p => returnToken d t p) d

/-- Every port of a region at entry 0 of its list, its token at the port, turn 0, passes clear (R134). -/
def resetPort (p : Nat) (x : Port) : Port :=
  settlePort p { Port.init with list := x.list, plan := x.plan, units := x.units }

/-! ## The conflict detector (R137 to R139) -/

/-- The condition under which an access of 64 bytes is refused; `clash` is a second access in the same cycle and
direction. -/
def refusal (d : Dev) (r p u : Nat) (tok : Option Token) (clash : Bool) : Option Nat :=
  let x := port d r p
  if p ≥ 236 then
    if x.halted then some 7 else if clash then some 6 else none
  else if x.halted || x.ended || (portList p x).isEmpty then some 7
  else
    match tok with
    | none => some 1
    | some k =>
      if k.port != p && x.lead != some k.port then some 2
      else if k.turn != (port d r k.port).turn % 2 ^ 14 then some 3
      else
        match portEntry p x with
        | none => some 7
        | some e =>
          if entryUser e != some u then some 4
          else if u < 128 && oeCap e != 0 && x.moved + 64 > 256 * oeCap e then some 5
          else if clash then some 6
          else none

/-- The bookkeeping of a refusal: counters, ORD_FAULT, the schedule bark, the halted port. -/
def refuse (d : Dev) (r p cond u step : Nat) (status : Option Nat) : Dev :=
  let x := port d r p
  let fl := u ≥ 128
  let d := count d (ordPg r) ORD.SCHED_FAULTS 1
  let d :=
    if getF d (ordPg r) ORD.ORD_FAULT_VALID == 1 then d
    else
      let w := 2 ^ 63 + cond * 2 ^ 59 + p * 2 ^ 50 + (if fl then 2 ^ 14 else u * 2 ^ 43 + step * 2 ^ 31) + x.turn * 2 ^ 15
      setReg d (ordPg r) 0x108 (BitVec.ofNat 64 w)
  let d := setPort d r p { x with halted := true }
  let d :=
    if 136 ≤ p && p < 172 then
      let d := count d (xbarPg r) XBAR.PORT_REFUSED 1
      let h := getF d (xbarPg r) XBAR.XBAR_HALT
      setF d (xbarPg r) XBAR.XBAR_HALT (Nat.lor h (2 ^ (p - 136)))
    else d
  bark d 0x2501 (ordPg r) (regionDie r) 2 (partOf d r) status
    (leBytes 2 p ++ [BitVec.ofNat 8 cond, BitVec.ofNat 8 (if fl then 0xFF else u)] ++ leBytes 2 step ++ leBytes 2 x.turn)

/-- Does the turn a slice port is in move data between a site port and the slice, rather than a tower port (R61, R128)? -/
def siteTurn (d : Dev) (r p : Nat) : Bool :=
  match portEntry p (port d r p) with
  | some e => oeJoin e == 0 || !(joinMembers d r (oeJoin e)).any (fun q => 168 ≤ q && q < 172)
  | none => true

/-- A unit passes: it counts towards the turn's CAP and on the XBAR page. -/
def passUnit (d : Dev) (r p : Nat) : Dev :=
  let x := port d r p
  let d := setPort d r p { x with moved := x.moved + 64, units := x.units + 1 }
  if 136 ≤ p && p < 168 then
    let d := if siteTurn d r p then count d (xbarPg r) XBAR.SITE_UNITS 1 else d
    count (count d (xbarPg r) XBAR.SLICE_UNITS 1) (xbarPg r) (XBAR.PORT_UNITS.at (p - 136)) 1
  else if 168 ≤ p && p < 172 then
    count (count d (xbarPg r) XBAR.TPORT_UNITS 1) (xbarPg r) (XBAR.PORT_UNITS.at (p - 136)) 1
  else d

/-- Present one unit of a core's step at a port: passed, or refused with the core in fault state (R138). -/
def presentUnit (d : Dev) (n p : Nat) (tok : Option Token) (idx : Nat) : Dev × Bool :=
  let r := coreRegion n
  match refusal d r p (coreUser n) tok false with
  | none => (passUnit d r p, true)
  | some c =>
    let st := if (core d n).item.isSome then some stSchedule else none
    (coreFault (refuse d r p c (coreUser n) idx st) n idx 0 stSchedule, false)

/-! ## Muzzling (R367, R368) -/

/-- A muzzle's kennel record, counts and bark 0x2201; `status` is that of the item that fails with it (R305). -/
def muzzleCounts (d : Dev) (r ent cause : Nat) (status : Option Nat) : Dev :=
  let d := kennelAdd d ent cause
  let d := count d (diePg (regionDie r)) DIE.MUZZLES 1
  let d := count d (rgnPg r) RGN.MUZZLES 1
  bark d 0x2201 (rgnPg r) (regionDie r) 2 (partOf d r) status (leBytes 4 ent ++ [BitVec.ofNat 8 cause])

/-- A site is marked muzzled on its PACK page and takes its place in the spare counts (R60). -/
def packSpare (d : Dev) (k : Nat) : Dev :=
  let pg := packPg k
  let inv := 34 - Config.coresPerPack d.kind
  let good := getF d pg PACK.PACK_INV_SITE_GOOD
  let muz := getF d pg PACK.PACK_MUZZLED
  let bad := ((List.range 34).filter (fun s => !bit good s || bit muz s)).length
  let d := setF d pg PACK.PACK_INV_SPARE_INV inv
  let d := setF d pg PACK.PACK_INV_SPARE_USED (min bad inv)
  let d := setF d pg PACK.PACK_INV_SPARE_FREE (inv - min bad inv)
  setF d pg PACK.PACK_INV_SPARE_SHORT (bad - inv)

def heldCount (d : Dev) (r : Nat) : Nat := ((List.range 128).filter (fun u => (core d (128 * r + u)).st == .muzzled)).length

/-- The optical transfer of a started step that is discarded ends at the other end of its pair (R16, R135, log entry 101): a send is closed with a
fenced mark, and the rest of the send matched with a receive is acknowledged and discarded. -/
def quitTransfer (n : Nat) (d : Dev) (q : QStep) : Dev :=
  let w := q.word.toNat
  let op := bits w 123 116
  let r := coreRegion n
  let j := bits w 35 31
  if !q.started || q.failed || q.dataDone || bits w 127 124 != 1 then d
  else if op == 7 then quitSend d r j q.got
  else if (op == 8 || op == 10) && !q.arrived then setChan d j r { chan d j r with skip := (chan d j r).skip + 1 }
  else d

/-- A logical core is stopped and its number held empty: its steps are discarded, its item fails with FENCED, its partition enters HALTED
(R16, R247), its tokens return. -/
def holdCore (d : Dev) (n : Nat) : Dev :=
  let c := core d n
  let r := coreRegion n
  let d := match c.item with
    | some i => if c.st == .fault then d else event d (.stop i n stFenced)
    | none => d
  let d := c.q.foldl (quitTransfer n) (haltRegion d r)
  let d := setCore d n { c with st := .muzzled, wait := 0, q := [], item := none, heelReq := false }
  let d := returnCoreTokens d n
  let u := coreUser n
  let d := setF d (rgnPg r) (RGN.HELD_MAP.at (u / 64)) (Nat.lor (getF d (rgnPg r) (RGN.HELD_MAP.at (u / 64))) (2 ^ (u % 64)))
  setF d (rgnPg r) RGN.RGN_STAT_HELD (heldCount d r)

/-- Status of the item that fails as a core is stopped by a muzzle. -/
def coreFails (c : Core) : Option Nat := if c.item.isSome && c.st != .fault && c.st != .muzzled then some stFenced else none

/-- Status of the item that fails as a site is muzzled. -/
def siteFails (d : Dev) (pack site : Nat) : Option Nat := (coreOnSite d pack site).bind (fun n => coreFails (core d n))

/-- Status of the items that fail as a region is muzzled. -/
def regionFails (d : Dev) (r : Nat) : Option Nat :=
  if (List.range 128).any (fun u => (coreFails (core d (128 * r + u))).isSome) || ((floor d r).item.isSome && (floor d r).st != .fault)
  then some stFenced else none

/-- A core site is muzzled, with the logical core that stands on it, if any. -/
def muzzleSite (d : Dev) (pack site cause : Nat) : Dev :=
  let r := pack / 4
  let m := getF d (packPg pack) PACK.PACK_MUZZLED
  if bit m site then d
  else
    let d := setF d (packPg pack) PACK.PACK_MUZZLED (Nat.lor m (2 ^ site))
    let d := packSpare d pack
    let d := muzzleCounts d r (entSite (regionDie r) (r % 4) (pack % 4) site) cause (siteFails d pack site)
    let d := match coreOnSite d pack site with
      | some n => holdCore d n
      | none => haltRegion d r
    epochRegion d r

def muzzleCore (d : Dev) (n cause : Nat) : Dev :=
  match siteOf d n with
  | some s => muzzleSite d (corePack n) s cause
  | none => d

/-- Is an issued step a started transfer on the link that region `r` selects with `v`: a send or receive with that peer, or
a vertical-path move of the core on that bundle's site? -/
def onLink (v : Nat) (q : QStep) : Bool :=
  let w := q.word.toNat
  let op := bits w 123 116
  q.started && !q.failed && bits w 127 124 == 1 &&
    (if v < 64 then (op == 7 || op == 8 || op == 10) && bits w 35 31 == v % 32
     else op == 1 || op == 2 || (7 ≤ op && op ≤ 11))

/-- Items whose transfer is on the link fail with LINK: their steps end with no more data moved (R231, R121). -/
def failTransfers (d : Dev) (r v : Nat) : Dev :=
  let hit (d : Dev) (n v : Nat) : Dev :=
    let c := core d n
    match c.q.find? (onLink v) with
    | none => d
    | some q => coreFault (setCore d n { c with q := c.q.filter (fun q => !onLink v q) }) n q.idx 0 stLink
  if v < 64 then
    let d := (List.range 128).foldl (fun d u => hit d (128 * r + u) v) d
    (List.range 128).foldl (fun d u => hit d (128 * (v % 32) + u) r) d
  else
    match coreOnSite d (4 * r + (v - 64) / 34) ((v - 64) % 34) with
    | some n => hit d n v
    | none => d

/-- Does an item's transfer stand on a link that is lost? -/
def linkCarries (d : Dev) (r v : Nat) : Bool :=
  let on (n v : Nat) : Bool := (core d n).item.isSome && (core d n).q.any (onLink v)
  if v < 64 then (List.range 128).any (fun u => on (128 * r + u) v || on (128 * (v % 32) + u) r)
  else match coreOnSite d (4 * r + (v - 64) / 34) ((v - 64) % 34) with | some n => on n v | none => false

/-- A link is lost (R231): state, counter, bark, epoch, and the items whose transfer is on it. -/
def loseLink (d : Dev) (r v : Nat) (ev lane : Nat) : Dev :=
  let l := link d r v
  if l.st == .lost then d
  else
    let st := if linkCarries d r v then some stLink else none
    let d := failTransfers d r v
    let d := setLink d r v { l with st := .lost, width := 3 }
    let d := count d (optPg r) OPT.LINKS_LOST 1
    let d := bark d 0x2601 (optPg r) (regionDie r) 2 (partOf d r) st
      [BitVec.ofNat 8 ev, BitVec.ofNat 8 v, BitVec.ofNat 8 lane, 0xFF, 0xFF]
    let d := epochRegion d r
    if v < 64 && partOf d (v % 32) != partOf d r then epochRegion d (v % 32) else d

/-- A region is muzzled: every logical core held, its floor stopped with FENCED, its ports granting nothing, its
channel pairs lost, its bit of REGIONS_UP clear, and the package degraded. -/
def muzzleRegion (d : Dev) (r cause : Nat) : Dev :=
  if getF d (rgnPg r) RGN.RGN_STAT_STATE == 3 then d
  else
    let d := setF d (rgnPg r) RGN.RGN_STAT_STATE 3
    let up := getF d pkgPg PKG.PKG_UNITS_REGIONS_UP
    let d := setF d pkgPg PKG.PKG_UNITS_REGIONS_UP (if bit up r then up - 2 ^ r else up)
    let d := if getF d pkgPg PKG.PKG_INFO_PSTATE == 1 then setF d pkgPg PKG.PKG_INFO_PSTATE 2 else d
    let st := regionFails d r
    let d := muzzleCounts d r (entRegion r) cause st
    let d := bark d 0x2203 (rgnPg r) (regionDie r) 3 (partOf d r) st [BitVec.ofNat 8 r, BitVec.ofNat 8 cause]
    let d := (List.range 128).foldl (fun d u =>
      if (siteOf d (128 * r + u)).isSome && (core d (128 * r + u)).st != .muzzled then holdCore d (128 * r + u) else d) d
    let f := floor d r
    let d := match f.item with
      | some i => if f.st == .fault then d else event (count d (flrPg r) FLR.SEQ_FAILED 1) (.stop i (4096 + r) stFenced)
      | none => haltRegion d r
    let d := setFloor d r { floor d r with st := .heel, running := false, item := none }
    let d := returnFloorTokens d r
    let d := (List.range 32).foldl (fun d j => if j == r then d else loseLink d r j 3 0xFF) d
    epochRegion d r

end Sys2Proof.Machine
end

