-- ==== Sys2Proof/Machine/Operands.lean ====
section
/-!
DEFINITION. The step word (R93, R101, R108, R109, R112, R115, R117): its fields, the bits each operation uses, the
operand forms of R99, and the encoder of a step word from its fields.
-/
namespace Sys2Proof.Machine

/-! ## Classes, operations and used bits -/

def clsMove : Nat := 1
def clsArray : Nat := 2
def clsAcc : Nat := 3
def clsVec : Nat := 4
def clsSync : Nat := 5
def clsCtrl : Nat := 6

def wCls (w : Nat) : Nat := bits w 127 124
def wOp (w : Nat) : Nat := bits w 123 116
def wCond (w : Nat) : Nat := bits w 115 112

/-- The operand bits an operation uses, as (high, low) fields; none for a reserved class or operation. Fields that an
operation must hold at zero are not listed. -/
def usedBits (cls op : Nat) : Option (List (Nat × Nat)) :=
  match cls, op with
  | 1, 0x00 => some [(106, 84), (78, 56), (55, 40), (30, 26)]
  | 1, 0x01 => some [(106, 84), (83, 56), (55, 40), (39, 36), (30, 26)]
  | 1, 0x02 => some [(111, 84), (78, 56), (55, 40), (39, 36), (30, 26)]
  | 1, 0x03 => some [(106, 84), (78, 56), (55, 40), (39, 36), (30, 26)]
  | 1, 0x04 => some [(106, 84), (78, 56), (55, 40), (39, 36), (30, 26)]
  | 1, 0x05 => some [(106, 84), (83, 56), (55, 40), (39, 36), (30, 26), (15, 12)]
  | 1, 0x06 => some [(111, 84), (78, 56), (55, 40), (39, 36), (30, 26), (15, 12)]
  | 1, 0x07 => some [(78, 56), (55, 40), (39, 26)]
  | 1, 0x08 => some [(106, 84), (55, 40), (39, 26)]
  | 1, 0x09 => some [(83, 56), (55, 40), (39, 36), (30, 26)]
  | 1, 0x0A => some [(55, 40), (39, 26)]
  | 1, 0x0B => some [(106, 84), (78, 56), (55, 40), (39, 36), (30, 0)]
  | 1, 0x0C => some [(106, 84), (78, 56), (55, 40), (39, 36), (30, 0)]
  | 2, 0x00 => some [(111, 20)]
  | 2, 0x01 => some [(111, 20)]
  | 2, 0x02 => some [(111, 61)]
  | 3, 0x00 => some [(111, 62)]
  | 3, 0x01 => some [(111, 60)]
  | 3, 0x02 => some [(111, 14)]
  | 3, 0x03 => some [(111, 62), (59, 37)]
  | 3, 0x04 => some [(111, 62), (59, 37)]
  | 3, 0x05 => some [(111, 62), (59, 37)]
  | 4, 0x11 => some [(111, 77)]
  | 4, op => if op ≤ 0x10 then some ([(111, 103), (95, 26)] ++ (if op == 8 || op == 9 then [(102, 99)] else [])) else none
  | 5, 0x00 => some [(111, 97)]
  | 5, 0x01 => some [(111, 109)]
  | 5, 0x02 => some [(111, 100)]
  | 5, 0x03 => some [(111, 100)]
  | 6, 0x00 => some []
  | 6, 0x01 => some [(111, 84)]
  | 6, 0x02 => some [(111, 100)]
  | 6, 0x03 => some [(111, 108)]
  | 6, 0x04 => some [(111, 60)]
  | 6, 0x05 => some [(111, 76)]
  | 6, 0x06 => some []
  | 6, 0x07 => some []
  | _, _ => none

/-- The operand bits outside the used fields. -/
def unusedOf (w : Nat) (fs : List (Nat × Nat)) : Nat :=
  fs.foldl (fun acc f => acc - bits w f.1 f.2 * 2 ^ f.2) (bits w 111 0)

/-! ## Effective addresses (R99) -/

def scratchSize : Nat := 393216

def aReg (c : Core) (n : Nat) : Nat := if n == 0 then 0 else (mget (0 : BitVec 48) c.addr n).toNat
def eaOf (c : Core) (r off : Nat) : Nat := (aReg c r + off) % 2 ^ 48

/-- SA and XA operand fields carry the register in bits 22:19 and the offset in bits 18:0; DA 27:24 and 23:0; VA 15:12
and 11:0 in units of 128 bytes. -/
def eaSA (c : Core) (f : Nat) : Nat := eaOf c (bits f 22 19) (bits f 18 0)
def eaDA (c : Core) (f : Nat) : Nat := eaOf c (bits f 27 24) (bits f 23 0)
def eaVA (c : Core) (f : Nat) : Nat := eaOf c (bits f 15 12) (128 * bits f 11 0)

/-- The fault code of an operand that breaks the rule of its form; 0 is none. -/
def badSA (ea len align : Nat) : Nat := if ea + len > scratchSize || ea % align != 0 then 6 else 0
def badXA (ea len : Nat) : Nat :=
  if ea ≥ 2 ^ 25 || ea % 64 != 0 || ea % 2 ^ 20 + len > 2 ^ 20 then 6 else 0
def badDA (p : Part) (t ea len : Nat) : Nat :=
  if ea < t * 2 ^ 36 || ea + len > t * 2 ^ 36 + Config.pages p * 2 ^ 21 then 7 else if ea % 64 != 0 then 6 else 0

/-- Scratch banks of a byte range (R39). -/
def banksOf (a n : Nat) : List Nat :=
  if n == 0 then [] else (List.range 16).filter (fun b => a / 24576 ≤ b && b ≤ (a + n - 1) / 24576)

/-! ## Fields -/

def mDst (w : Nat) : Nat := bits w 111 84
def mSrc (w : Nat) : Nat := bits w 83 56
def mLen (w : Nat) : Nat := bits w 55 40 + 1
def mTU (w : Nat) : Bool := bit w 39
def mTH (w : Nat) : Nat := bits w 38 36
def mPeer (w : Nat) : Nat := bits w 35 31
def mGV (w : Nat) : Bool := bit w 30
def mGL (w : Nat) : Nat := bits w 29 26
def mGBase (w : Nat) : Nat := bits w 25 22
def mGRow (w : Nat) : Nat := (bits w 21 16 + 1) * 64
def mGLim (w : Nat) : Nat := (bits w 15 0 + 1) * 16
def mTU2 (w : Nat) : Bool := bit w 15
def mTH2 (w : Nat) : Nat := bits w 14 12

def lRowMask (w : Nat) : Nat := bits w 111 80
def lColMask (w : Nat) : Nat := bits w 79 48
def lFmt (w : Nat) : Nat := bits w 47 44
def lScaled (w : Nat) : Bool := bit w 43
def lTile (w : Nat) : Nat := bits w 42 20

def sPath (w : Nat) : Nat := bits w 111 110
def sFmt (w : Nat) : Nat := bits w 109 106
def sScaled (w : Nat) : Bool := bit w 105
def sTake (w : Nat) : Bool := bit w 104
def sAdd (w : Nat) : Bool := bit w 103
def sDirect (w : Nat) : Bool := bit w 102
def sM (w : Nat) : Nat := bits w 101 93 + 1
def sRow (w : Nat) : Nat := bits w 92 84
def sAct (w : Nat) : Nat := bits w 83 61

def cRow (w : Nat) : Nat := bits w 111 103
def cCount (w : Nat) : Nat := bits w 102 94 + 1
def cMask (w : Nat) : Nat := bits w 93 62
def cFmt (w : Nat) : Nat := bits w 61 60
def cData (w : Nat) : Nat := bits w 59 37
def cFlag (w : Nat) : Nat := bits w 36 14

def vN (w : Nat) : Nat := bits w 111 103 + 1
def vFmt (w : Nat) : Nat := bits w 102 99
def vDst (w : Nat) : Nat := bits w 95 80
def vKind (w : Nat) (s : Nat) : Nat := bits w (79 - 18 * s) (78 - 18 * s)
def vAddr (w : Nat) (s : Nat) : Nat := bits w (77 - 18 * s) (62 - 18 * s)
def vKSel (w : Nat) : Nat := bits w 111 109
def vVal (w : Nat) : BitVec 32 := BitVec.ofNat 32 (bits w 108 77)

def yHolder (w : Nat) : Nat := bits w 111 109
def yList (w : Nat) : Nat := bits w 108 97
def yLink (w : Nat) : Nat := bits w 111 108
def yCount (w : Nat) : Nat := bits w 107 100

def kCount (w : Nat) : Nat := bits w 111 96 + 1
def kEnd (w : Nat) : Nat := bits w 95 84
def kTarget (w : Nat) : Nat := bits w 111 100
def kPhase (w : Nat) : Nat := bits w 111 108
def kReg (w : Nat) : Nat := bits w 111 108
def kVal (w : Nat) : Nat := bits w 107 60
def kAdd (w : Nat) : Int := twos 32 (bits w 107 76)

/-- Sources an operation of VEC uses: A, then B, then C (Table — VEC operations). -/
def vSources (op : Nat) : Nat := if op == 3 then 3 else if op ≤ 7 then 2 else 1

/-! ## The whole word from its parts -/

/-- A step word: class, operation, condition and the 112 operand bits. -/
structure StepWord where
  cls : BitVec 4
  op : BitVec 8
  cond : BitVec 4
  opnd : BitVec 112
deriving DecidableEq, Repr

def StepWord.encode (s : StepWord) : BitVec 128 := ((s.cls ++ s.op) ++ s.cond) ++ s.opnd
def StepWord.decode (w : BitVec 128) : StepWord :=
  ⟨BitVec.ofNat 4 (wCls w.toNat), BitVec.ofNat 8 (wOp w.toNat), BitVec.ofNat 4 (wCond w.toNat),
   BitVec.ofNat 112 (bits w.toNat 111 0)⟩

end Sys2Proof.Machine
end

