-- ==== Sys2Proof/Machine/CoreTimes.lean ====
section
/-!
DEFINITION. How far the engines of a core have come with their started steps: the A-cycles of R43, R52, R88, R102 and R113, the scratch
banks that a step still claims (R39), and the tile rows whose marks still stand (R56, R87, R98).
-/
namespace Sys2Proof.Machine

/-- Whole A-cycles since the data of a started step was there (R25: counted at the idle steps of the device, log entry 3). -/
def cyclesOf (q : QStep) : Nat := q.age / 100

/-- One cycle of the reference lets a started step whose data is there run on by the A-cycles of its clock: `f` is the clock in MHz, `g` what
the gated clock keeps of it, which every engine but MOVE and SYNC runs on (R385). -/
def ageStep (f g : Nat) (q : QStep) : QStep :=
  if q.started && q.arrived && !q.failed then { q with age := q.age + if q.eng == .move || q.eng == .sync then f else g } else q

/-! ## Fields of ACC and ARRAY steps -/

/-- CLEAR 0, DRAIN_V 1, DRAIN_S 2, SAVE 3, RESTORE 4, MERGE 5; 99 for a step of another class. -/
def accOp (q : QStep) : Nat := if wCls q.word.toNat == clsAcc then wOp q.word.toNat else 99
def isStream (q : QStep) : Bool := q.eng == .rowFeeder

/-- Column bands of a mask: bit b for columns 8b to 8b + 7. -/
def bandsOf (m : Nat) : Nat :=
  (List.range 4).foldl (fun a b => if bits m (8 * b + 7) (8 * b) != 0 then a + 2 ^ b else a) 0

/-- Highest enabled column of band `b`. -/
def bandTop (m b : Nat) : Nat := (List.range 8).foldl (fun a j => if bit m (8 * b + j) then 8 * b + j else a) 0

/-! ## Elements at work (R43, R49) -/

/-- Does an enabled element handle a valid activation of a stream in its A-cycle `t`? -/
def elementBusy (q : QStep) (t : Nat) : Bool :=
  let w := q.word.toNat
  let js := (List.range 32).filter (bit q.cols)
  ((List.range 32).filter (bit q.rowMask.toNat)).any (fun i => js.any (fun j =>
    match sPath w with
    | 0 => i + j ≤ t && t < i + j + sM w
    | 1 => i + j ≤ t && t < i + j + (sM w + 1) / 2
    | _ => 2 * i + j ≤ t && (t - 2 * i - j) % 4 < 2 && t < 2 * i + j + 4 * sM w))

/-- A-cycles of one reference cycle in which any element of the array is at work: `f`, `g` as in `ageStep`. -/
def busyCycles (f g : Nat) (c : Core) : Nat :=
  let run := (c.q.filter (fun q => isStream q && q.started && q.arrived && !q.failed)).map (fun q => (q, cyclesOf q, cyclesOf (ageStep f g q)))
  let n := run.foldl (fun m x => max m (x.2.2 - x.2.1)) 0
  ((List.range n).filter (fun l => run.any (fun x => l < x.2.2 - x.2.1 && elementBusy x.1 (x.2.2 - 1 - l)))).length

/-! ## Tile rows done -/

/-- Tile rows of a started step whose mark in band `b` has cleared: rows promoted in that band by a stream (R43, R87), read by a drain or
a save (R56, R98), or written by a clear, restore or merge (R88, R98). -/
def rowsDone (q : QStep) (b : Nat) : Nat :=
  let t := cyclesOf q
  let w := q.word.toNat
  min q.rows.2
    (if !q.started then 0
     else if isStream q then
      (if !q.arrived then 0
       else match sPath w with
        | 0 => t - 33 - bandTop q.cols b
        | 1 => 2 * (t - 33 - bandTop q.cols b)
        | _ => (t - 62 - bandTop q.cols b) / 4)
     else match accOp q with
      | 0 => 8 * t
      | 1 => q.got
      | 2 => t / 2
      | 5 => (t - 2) / 6
      | _ => t / 6)

def overlaps (a b : Nat × Nat) : Bool := a.1 < b.1 + b.2 && b.1 < a.1 + a.2
def sameBand (a b : Nat) : Bool := Nat.land (bandsOf a) (bandsOf b) != 0

/-- Do the marks of step `s` that still stand in band `b` meet a tile row of `q`? -/
def markIn (s q : QStep) (b : Nat) : Bool :=
  bit (bandsOf s.cols) b && overlaps (s.rows.1 + rowsDone s b, s.rows.2 - rowsDone s b) q.rows

/-- A mark of `s` on a tile row of `q` in a band that both touch. -/
def markHits (s q : QStep) : Bool := (List.range 4).any (fun b => bit (bandsOf q.cols) b && markIn s q b)
/-- A mark of `s` on a tile row of `q` in any band. -/
def markAny (s q : QStep) : Bool := (List.range 4).any (markIn s q)

/-! ## Scratch accessed -/

/-- Frames of send `k` of a channel that still wait for the window: all sends after it stand behind it. -/
def sendWaits : Nat → List TxItem → Nat
  | 0, fs => firstSend fs
  | n + 1, fs => sendWaits n (fs.drop (firstSend fs))

/-- Frames of a started SEND_O that have not yet entered the window (R216). -/
def sendFramesLeft (d : Dev) (n : Nat) (q : QStep) : Nat :=
  let c := chan d (coreRegion n) (mPeer q.word.toNat)
  let k := endMarks c.waiting
  if q.got + k ≤ c.sendK then 0 else sendWaits (q.got + k - c.sendK - 1) c.waiting

/-- A started SEND_O whose frames have all entered the window: its data is in the replay buffer of the port (R216). -/
def sendLeft (d : Dev) (n : Nat) (q : QStep) : Bool :=
  q.eng == .move && wOp q.word.toNat == 7 && q.started && sendFramesLeft d n q == 0

/-- A VEC step's bank load for a row, taken where most of its kind-0 operands share a bank (R113). -/
def bankLoad (q : QStep) : Nat :=
  let w := q.word.toNat
  let n := vN w
  let ops := (q.rng.zip [0, vKind w 0, vKind w 1, vKind w 2]).filter (fun x => x.2 == 0 && x.1.2 != 0)
  (List.range 16).foldl (fun m b => max m
    ((ops.map (fun x => if (banksOf x.1.1 x.1.2).contains b then (x.1.2 / n + 63) / 64 else 0)).foldl (· + ·) 0)) 0

/-- Issue interval and latency of an operation of the vector unit (R57). -/
def vecTimes (op : Nat) : Nat × Nat :=
  if op == 10 || op == 11 then (2, 8) else if op == 12 || op == 13 then (2, 10)
  else if op ≤ 3 || op == 14 then (1, 4) else (1, 2)

/-- A-cycles after which the step has accessed unit `i` of its scratch range `k` for the last time; units are 64 bytes. -/
def unitTime (q : QStep) (k i : Nat) : Nat :=
  let w := q.word.toNat
  let op := wOp w
  match q.eng with
  | .move =>
    let rows := mLen w
    let g := mGRow w / 64
    (match op with
     | 0 =>
       let both := q.rng.flatMap (fun r => banksOf r.1 r.2)
       let per := if both.eraseDups.length == 1 then 2 else 1
       per * (i + 1) + 2 * k
     | 1 => 48 + i + 1
     | 3 => 8 + i + 1
     | 11 => if k == 0 then 1 + min rows (16 * (i + 1)) * g else 49 + i + 1
     | 12 => if k == 0 then 1 + min rows (16 * (i + 1)) * g else 9 + i + 1
     | _ => i + 1)
  | .rowFeeder =>
    let m := match Fmt.ofCode (sFmt w) with
      | some f => min (sM w) ((64 * (i + 1) + f.rowBytes - 1) / f.rowBytes)
      | none => sM w
    if sPath w == 0 then m else if sPath w == 1 then (m + 1) / 2 else 4 * m
  | .colFeeder =>
    (match Fmt.ofCode (lFmt w) with
     | some f =>
       let r := min 32 ((64 * (i + 1) + f.rowBytes - 1) / f.rowBytes)
       let s := if lScaled w && 64 * (i + 1) > 32 * f.rowBytes then 1 else 0
       (if f.bits == 4 then (r + 1) / 2 else if f.bits == 16 then 2 * r else r) + s
     | none => 0)
  | .drain => if k == 0 then 2 * (i / 2 + 1) + 1 else 2 * cCount w + 1 + i + 1
  | .acc => i + 1
  | .vec =>
    let (iv, lat) := vecTimes op
    let n := vN w
    let row := match q.rng[k]? with
      | some r => let b := max 1 (r.2 / (if k == 0 && op ≥ 14 then 1 else n)); (64 * i + b) / b
      | none => 1
    let per := if 14 ≤ op && op ≤ 16 then max lat (bankLoad q) else max iv (bankLoad q)
    if k == 0 then (if 14 ≤ op then n * per else row * per + lat) else if vKind w (k - 1) == 1 then per else min n row * per
  | .sync => 0

/-- Has the step accessed unit `i` of its scratch range `k` for the last time? A send does so as its frames enter the window, a receive
as its units arrive. -/
def unitDone (d : Dev) (n : Nat) (q : QStep) (k i : Nat) : Bool :=
  let op := wOp q.word.toNat
  if q.dataDone then true
  else if !q.started then false
  else if q.eng == .move && op == 7 then
    (64 * (i + 1) + 55) / 56 + sendFramesLeft d n q ≤ (64 * mLen q.word.toNat + 55) / 56
  else if q.eng == .move && op == 8 then i < (q.got - q.part.length) / 64
  else q.arrived && unitTime q k i ≤ cyclesOf q

/-- Does an issued step still claim scratch bank `b`? A claim ends when the step's last access to that bank is complete (R39). -/
def holdsBank (d : Dev) (n : Nat) (q : QStep) (b : Nat) : Bool :=
  ((List.range q.rng.length).zip q.rng).any (fun x =>
    (banksOf x.2.1 x.2.2).contains b && !unitDone d n q x.1 ((min (x.2.1 + x.2.2) (24576 * (b + 1)) - 1 - x.2.1) / 64))

/-- The banks that an issued step still claims. -/
def claims (d : Dev) (n : Nat) (q : QStep) : List Nat := (List.range 16).filter (holdsBank d n q)

end Sys2Proof.Machine
end

