-- ==== Sys2Proof/Machine/CoreIssue.lean ====
section
/-!
DEFINITION. Issue of steps (R93 to R99, R107 to R121): conditions, the faults found at issue, the waits that hold issue,
and the movement of the head of issue.
-/
namespace Sys2Proof.Machine

/-! ## Conditions and loops (R94, R118) -/

/-- Loop level `k` as (iteration, count); a level with no active loop ran one iteration. -/
def levelOf (c : Core) (k : Nat) : Nat × Nat :=
  match c.loops[k]? with
  | some l => (l.i, l.n)
  | none => (0, 1)

def condTrue (c : Core) (k : Nat) : Bool :=
  if k == 0 then true
  else if k ≤ 4 then (levelOf c (k - 1)).1 == 0
  else if k ≤ 8 then let l := levelOf c (k - 5); l.1 + 1 == l.2
  else if k ≤ 12 then let l := levelOf c (k - 9); l.1 + 1 < l.2
  else if k == 13 then (levelOf c 0).1 % 2 == 0
  else (levelOf c 0).1 % 2 == 1

/-- The head of issue after step `i`: loops whose body ends at `i` run again or end, the innermost first. -/
def afterStep (i : Nat) : List LoopLv → Nat × List LoopLv
  | [] => (i + 1, [])
  | l :: r =>
    if l.last == i then
      if l.i + 1 < l.n then (l.start + 1, { l with i := l.i + 1 } :: r) else afterStep i r
    else (i + 1, l :: r)

/-! ## Faults found at issue -/

/-- What an issued step carries: the lowest fault code (0 none), effective addresses, claimed scratch ranges, tile rows
and columns. -/
structure Checked where
  code : Nat
  ea : List Nat
  rng : List (Nat × Nat)
  rows : Nat × Nat
  cols : Nat
deriving DecidableEq, Repr

/-- The lowest non-zero code of a list (R121). -/
def lowest (cs : List Nat) : Nat := cs.foldl (fun m c => if c == 0 then m else if m == 0 then c else min m c) 0

def flag (b : Bool) (code : Nat) : Nat := if b then code else 0

def ownChan (r l : Nat) : Bool := l == 172 + r || l == 204 + r

/-- Holder's order list plus one, as a step that names the holder carries it; 0 for a holder that is not occupied. -/
def holderList (c : Core) (h : Nat) : Nat :=
  match mget none c.holders h with
  | some l => l + 1
  | none => 0

def checkMove (p : Part) (n : Nat) (c : Core) (w op : Nat) : Checked :=
  let r := coreRegion n
  let u := mLen w
  let nb := 64 * u
  let sa := eaSA c (mSrc w)
  let da := eaSA c (mDst w)
  let sd := eaDA c (mSrc w)
  let dd := eaDA c (mDst w)
  let h := holderList c (mTH w)
  let h2 := holderList c (mTH2 w)
  let gv := if mGV w then flag ((mget SyncLink.none c.sync (mGL w)).depth == 0) 9 else 0
  let peer := flag (mPeer w == r) 9
  let mk (cs : List Nat) (ea : List Nat) (rng : List (Nat × Nat)) : Checked := ⟨lowest (gv :: cs), ea, rng, (0, 0), 0⟩
  match op with
  | 0x00 => mk [badSA sa nb 64, badSA da nb 64] [da, sa] [(sa, nb), (da, nb)]
  | 0x01 => mk [badDA p r sd nb, badSA da nb 64] [da, sd, h] [(da, nb)]
  | 0x02 => mk [badSA sa nb 64, badDA p r dd nb] [dd, sa, h] [(sa, nb)]
  | 0x03 => mk [badXA sa nb, badSA da nb 64] [da, sa, h] [(da, nb)]
  | 0x04 => mk [badSA sa nb 64, badXA da nb] [da, sa, h] [(sa, nb)]
  | 0x05 => mk [badDA p r sd nb, badXA da nb] [da, sd, h, h2] []
  | 0x06 => mk [badXA sa nb, badDA p r dd nb] [dd, sa, h, h2] []
  | 0x07 => mk [peer, badSA sa nb 64] [0, sa, h] [(sa, nb)]
  | 0x08 => mk [peer, badSA da nb 64] [da, 0, h] [(da, nb)]
  | 0x09 => mk [badDA p r sd nb] [0, sd, h] []
  | 0x0A => mk [peer] [0, 0, h] []
  | _ =>
    let base := aReg c (mGBase w)
    let tb := mGLim w * mGRow w
    let il := 4 * u
    let dl := u * mGRow w
    mk [badSA sa il 64, badSA da dl 64, if op == 0x0B then badDA p r base tb else badXA base tb]
      [da, sa, h, base] [(sa, il), (da, dl)]

def checkArray (c : Core) (w op : Nat) : Checked :=
  if op == 2 then
    let f := Fmt.ofCode (sFmt w)
    let c5 := flag (sPath w == 3 || f.isNone || (sDirect w && sAct w != 0)) 5
    let tile := if sTake w then c.loads.head? else c.activeRec
    let c1 := flag tile.isNone 1
    let c2 := flag (sRow w + sM w > 512) 2
    let c3 := match f, tile with
      | some a, some t =>
        flag ((sDirect w && sScaled w) || !a.scaledOk (sScaled w) || (sPath w != 3 && (pairKind (sPath w) a t.fmt).isNone)) 3
      | some a, none => flag ((sDirect w && sScaled w) || !a.scaledOk (sScaled w)) 3
      | none, _ => 0
    let ea := eaSA c (sAct w)
    let len := match f with
      | some a => sM w * (a.rowBytes + if sScaled w then 1 else 0)
      | none => 0
    let c6 := if sDirect w then 0 else badSA ea len 1
    let cm := match tile with | some t => t.colMask.toNat | none => 0
    ⟨lowest [c1, c2, c3, c5, c6], [ea], if sDirect w then [] else [(ea, len)], (sRow w, sM w), cm⟩
  else
    let f := Fmt.ofCode (lFmt w)
    let ea := eaSA c (lTile w)
    match f with
    | none => ⟨5, [], [], (0, 0), 0⟩
    | some a =>
      let len := 32 * a.rowBytes + if lScaled w then 32 else 0
      ⟨lowest [flag (!a.scaledOk (lScaled w)) 3, badSA ea len 1], [ea], [(ea, len)], (0, 0), 0⟩

def checkAcc (c : Core) (w op : Nat) : Checked :=
  let n := cCount w
  let ed := eaSA c (cData w)
  let ef := eaSA c (cFlag w)
  let c2 := flag (cRow w + n > 512) 2
  let c5 := flag ((op == 1 && cFmt w != 0) || (op == 2 && cFmt w ≥ 2) || (op ≥ 3 && cMask w != 0xFFFFFFFF)) 5
  let rows := (cRow w, n)
  let b := cMask w
  match op with
  | 0 => ⟨lowest [c2, c5], [], [], rows, b⟩
  | 1 => ⟨lowest [c2, c5], [], [], rows, b⟩
  | 2 => ⟨lowest [c2, c5, badSA ed (128 * n) 1, badSA ef (4 * n) 1], [ed, ef], [(ed, 128 * n), (ef, 4 * n)], rows, b⟩
  | _ => ⟨lowest [c2, c5, badSA ed (384 * n) 1], [ed], [(ed, 384 * n)], rows, b⟩

/-- Formats CVT_TO may name (R114). -/
def cvtToOk : Fmt → Bool
  | .int8 | .uint8 | .e4m3 | .e5m2 | .bf16 | .fp16 => true
  | _ => false

def checkVec (c : Core) (w op : Nat) : Checked :=
  if op == 0x11 then ⟨0, [], [], (0, 0), 0⟩
  else
    let n := vN w
    let f := Fmt.ofCode (vFmt w)
    let cv := op == 8 || op == 9
    let c5f := flag (cv && (match f with | none => true | some a => op == 8 && !cvtToOk a)) 5
    let narrow := match f with | some a => a.rowBytes | none => 128
    let sz (s : Nat) : Nat := if op == 9 && s == 0 then narrow else 128
    let dsz := if op == 8 then narrow else 128
    let used := vSources op
    let src := (List.range 3).map (fun s =>
      let k := vKind w s
      let a := vAddr w s
      if s ≥ used then (flag (k != 0 || a != 0) 5, 0, 0)
      else
        let ea := eaVA c a
        if k == 2 then (flag (s != 0 || a != 0) 5, 0, 0)
        else if k == 3 then (flag (a / 8 != 0) 5, a % 8, 0)
        else
          let len := if k == 1 then sz s else n * sz s
          (badSA ea len (sz s), ea, len))
    let dn := if op ≥ 0x0E then 1 else n
    let de := eaVA c (vDst w)
    ⟨lowest (c5f :: badSA de (dn * dsz) dsz :: src.map (·.1)), de :: src.map (·.2.1),
      (de, dn * dsz) :: src.map (fun x => (x.2.1, x.2.2)), (0, 0), 0⟩

def checkSync (n : Nat) (c : Core) (w op : Nat) : Checked :=
  let h := yHolder w
  let l := yList w
  let k := yCount w
  let s := mget SyncLink.none c.sync (yLink w)
  let code := match op with
    | 0 => flag ((mget none c.holders h).isSome || l > 235 || ownChan (coreRegion n) l) 9
    | 1 => flag (mget none c.holders h).isNone 9
    | _ => lowest [flag (k == 0) 5, flag (s.depth == 0 || k > s.depth) 9]
  ⟨code, [if op == 0 then l + 1 else holderList c h], [], (0, 0), 0⟩

def checkCtrl (c : Core) (w op : Nat) : Checked :=
  let code := match op with
    | 1 =>
      flag (c.loops.length ≥ 4 || kEnd w < c.pc + 1 ||
        (match c.loops.head? with | some l => kEnd w > l.last | none => false)) 9
    | 2 =>
      match c.loops.head? with
      | some l => flag (!(l.start < kTarget w && kTarget w ≤ l.last)) 9
      | none => flag (kTarget w ≥ c.loaded) 9
    | 4 => flag (kReg w == 0) 5
    | 5 => flag (kReg w == 0) 5
    | _ => 0
  ⟨code, [], [], (0, 0), 0⟩

def checkStep (p : Part) (n : Nat) (c : Core) (w : Nat) : Checked :=
  let op := wOp w
  match usedBits (wCls w) op with
  | none => ⟨4, [], [], (0, 0), 0⟩
  | some fs =>
    let c5 := flag (unusedOf w fs != 0) 5
    let k := match wCls w with
      | 1 => checkMove p n c w op
      | 2 => checkArray c w op
      | 3 => checkAcc c w op
      | 4 => checkVec c w op
      | 5 => checkSync n c w op
      | _ => checkCtrl c w op
    { k with code := lowest [c5, k.code] }

/-! ## Engines and what holds issue (R38, R39, R95) -/

def engOf (w : Nat) : Engine :=
  match wCls w with
  | 1 => .move
  | 2 => if wOp w == 2 then .rowFeeder else .colFeeder
  | 3 => if wOp w == 1 || wOp w == 2 then .drain else .acc
  | 4 => .vec
  | _ => .sync

/-- The reason that holds the step at the head of issue, 0 for none, in CORE_STAT.WAIT's codes. A step that its engine has started no
longer fills one of the four places of the engine's queue (DESIGN CHOICE, log entry 89). -/
def holdReason (d : Dev) (n w : Nat) (k : Checked) : Nat :=
  let c := core d n
  let e := engOf w
  if wCls w == clsCtrl then (if (wOp w == 6 || wOp w == 7) && !c.q.isEmpty then 7 else 0)
  else if wCls w == clsSync && wOp w == 3 then
    (if (mget SyncLink.none c.sync (yLink w)).held < yCount w then 1 else 0)
  else if (c.q.filter (fun s => s.eng == e && !s.started)).length ≥ 4 then 6
  else
    let mine := (k.rng.map (fun r => banksOf r.1 r.2)).flatten
    if c.q.any (fun s => s.eng != e && mine.any (holdsBank d n s)) then 3 else 0

/-- The step word at the head of issue, when the core issues: running, not stopping for heel. -/
def headOf (c : Core) : Option (BitVec 128) :=
  if (c.st == .run || c.st == .wait) && !c.heelReq && c.pc < c.loaded then some (mget 0 c.steps c.pc) else none

/-- Issue past step 4,095 or the last step loaded is a fault of its own (R120). -/
def runPast (d : Dev) (n : Nat) : Dev :=
  let c := core d n
  if (c.st == .run || c.st == .wait) && !c.heelReq && c.pc ≥ c.loaded then coreFault d n (c.pc % 4096) 12 stMalformed else d

/-- A core whose issue has stopped for HEEL_REQ is in heel once every engine has finished (R64). One whose item has ended, as in a thermal hold
(R397), is not to be resumed. -/
def heelIn (d : Dev) (n : Nat) : Dev :=
  let c := core d n
  if c.heelReq && c.q.isEmpty && (c.st == .run || c.st == .wait) then
    setCore d n { c with st := .heel, heelBy := c.item.isSome, heelReq := false, wait := 0 }
  else d

/-- What a CTRL step does at issue, the head already moved on (R117 to R120). -/
def ctrlEffect (c : Core) (i w : Nat) : Core :=
  match wOp w with
  | 1 => { c with loops := ⟨i, kEnd w, kCount w, 0⟩ :: c.loops, pc := i + 1 }
  | 2 => { c with pc := kTarget w }
  | 3 => { c with phase := kPhase w }
  | 4 => { c with addr := mput 0 c.addr (kReg w) (BitVec.ofNat 48 (kVal w)) }
  | 5 => { c with addr := mput 0 c.addr (kReg w) (BitVec.ofInt 48 ((mget 0 c.addr (kReg w)).toNat + kAdd w)) }
  | _ => c

/-- END of a settled core: code 10 with a token held or drained rows not taken, else the program is complete. -/
def endProgram (d : Dev) (n i : Nat) : Dev :=
  let c := core d n
  let held := c.holders.any (fun (_, o) => o.isSome)
  if held || !c.drained.isEmpty then
    let d := setCore d n { c with drained := [] }
    returnCoreTokens (coreFault d n i 10 stMalformed) n
  else
    let d := setCore d n { c with st := .heel, wait := 0, item := none, loops := [] }
    match c.item with
    | some x => event d (.done x n)
    | none => d

/-- Record the waits that SYNC steps make at issue (R115). -/
def syncIssue (c : Core) (w : Nat) : Core :=
  if wCls w != clsSync then c
  else if wOp w == 0 then { c with holders := mput none c.holders (yHolder w) (some (yList w)) }
  else if wOp w == 1 then { c with holders := mput none c.holders (yHolder w) none }
  else c

/-- A load joins the record of issued loads; a stream that takes the shadow makes it the active tile's (R46). Of two loads issued before
one take, the first take has the first load and the second take the second (DESIGN CHOICE, log entry 90). -/
def arrayIssue (c : Core) (w : Nat) : Core :=
  if wCls w != clsArray then c
  else if wOp w == 2 then
    if sTake w then { c with activeRec := c.loads.head?, loads := c.loads.drop 1 } else c
  else
    match Fmt.ofCode (lFmt w) with
    | some f => { c with loads := c.loads ++ [⟨f, lScaled w, BitVec.ofNat 32 (lColMask w)⟩] }
    | none => c

/-- The first reserved device address that a MOVE names: in the page of its device operand's first byte, or the start of a later page
that the operand reaches (R33). -/
def moveReserved (p : Part) (w : Nat) (ea : List Nat) : Option Nat :=
  let op := wOp w
  let a := ea.getD (if op == 2 || op == 6 then 0 else if op == 1 || op == 5 || op == 9 then 1 else 3) 0
  let n := if op == 11 then mGLim w * mGRow w else 64 * mLen w
  let starts := (List.range (n / 2 ^ 21 + 1)).map (fun k => (a / 2 ^ 21 + k + 1) * 2 ^ 21)
  if wCls w == 1 && (op == 1 || op == 2 || op == 5 || op == 6 || op == 9 || op == 11) then
    (a :: starts.filter (· < a + n)).find? (fun x => addrKind p x == .reserved)
  else none

/-- A fault found at issue; a MOVE that names a reserved address fails with a bark that names it (R33). -/
def issueFault (d : Dev) (n i w : Nat) (k : Checked) : Dev :=
  let d := coreFault d n i k.code (coreCodeStatus k.code)
  if k.code != 7 then d
  else match moveReserved d.kind w k.ea with
  | some a => barkReserved d (corePg n) a
  | none => d

/-- The step at the head of issue meets issue: faulted, skipped, held, or issued (R95). A WAIT and a CTRL step use no
queue. -/
def issueHead (d : Dev) (n : Nat) (wv : BitVec 128) : Dev :=
  let c := core d n
  let i := c.pc
  let w := wv.toNat
  if c.badStep.contains i then coreFault d n i 13 stUncorr
  else if (usedBits (wCls w) (wOp w)).isNone then coreFault d n i 4 stMalformed
  else if wCond w == 15 then
    coreFault d n i (lowest [5, (checkStep d.kind n c w).code]) stMalformed
  else if !condTrue c (wCond w) then
    let (pc, ls) := afterStep i c.loops
    count (setCore d n { c with st := .run, wait := 0, pc := pc, loops := ls }) (corePg n) CORE.STEPS_SKIPPED 1
  else
    let k := checkStep d.kind n c w
    if k.code != 0 then issueFault d n i w k
    else
      let h := holdReason d n w k
      if h != 0 then setCore d n { c with st := .wait, wait := h }
      else
        let d := act (count d (corePg n) CORE.STEPS_ISSUED 1) (unitCore n) 10 1
        let (pc, ls) := afterStep i c.loops
        let c := { c with st := .run, wait := 0, pc := pc, loops := ls }
        if wCls w == clsCtrl then
          if wOp w == 7 then endProgram (setCore d n { c with pc := i }) n i
          else if wOp w == 1 || wOp w == 2 then setCore d n (ctrlEffect { c with loops := (core d n).loops } i w)
          else
            let d := if wOp w == 3 then count d (PWR.page.pg 0) PWR.PHASE_MARKS 1 else d
            setCore d n (ctrlEffect c i w)
        else if wCls w == clsSync && wOp w == 3 then setCore d n c
        else
          let q : QStep :=
            { idx := i, word := wv, eng := engOf w, ea := k.ea, rng := k.rng, rows := k.rows, cols := k.cols,
              started := false, arrived := true, dataDone := false, failed := false, got := 0, part := [], age := 0, rowMask := 0 }
          setCore d n (arrayIssue (syncIssue { c with q := c.q ++ [q] } w) w)

/-- A core begins a program (R92, R240). -/
def startCore (d : Dev) (n entry : Nat) (args : List Nat) (item : Nat) : Dev :=
  let c := core d n
  let a : Map (BitVec 48) := (List.range 4).foldl (fun m i => mput 0 m (i + 1) (BitVec.ofNat 48 (args.getD i 0))) []
  runPast (setCore d n { c with st := .run, wait := 0, pc := entry, entry := entry, loops := [], holders := [], k := [], addr := a,
                                item := some item, heelBy := false, heelReq := false }) n

end Sys2Proof.Machine
end

