-- ==== Sys2Proof/Machine/CoreData.lean ====
section
/-!
DEFINITION. What ARRAY, ACC and VEC steps do to tiles, accumulator memory and scratch (R45 to R51, R73, R80, R85 to R90,
R107 to R114).
-/
namespace Sys2Proof.Machine

/-! ## Scratch with its uncorrectable words (R415): a scratch word is 8 bytes, an accumulator word one element -/

def scrBad (c : Core) (a n : Nat) : Bool :=
  n != 0 && c.badScratch.any (fun w => a / 8 ≤ w && w ≤ (a + n - 1) / 8)

/-- Uncorrectable words that a write of `n` bytes at `a` does not wholly rewrite. -/
def stillBad (a n : Nat) (bad : List Nat) : List Nat := bad.filter (fun w => !(a ≤ 8 * w && 8 * w + 8 ≤ a + n))

def scrPut (c : Core) (a : Nat) (bs : List Byte) : Core :=
  { c with scratch := writeBytes c.scratch a bs, badScratch := stillBad a bs.length c.badScratch }

def accKey (row col : Nat) : Nat := 32 * row + col
/-- Has a row read one of the columns of the mask, an uncorrectable accumulator word is met. -/
def accBad (c : Core) (row n : Nat) (m : BitVec 32) : Bool :=
  c.badAcc.any (fun w => accKey row 0 ≤ w && w < accKey (row + n) 0 && m.getLsbD (w % 32))
def accAt (c : Core) (row col : Nat) : AccElem := mget AccElem.empty c.acc (accKey row col)
def accPut (c : Core) (row col : Nat) (e : AccElem) : Core :=
  { c with acc := mput AccElem.empty c.acc (accKey row col) e, badAcc := c.badAcc.filter (· != accKey row col) }

/-! ## Tiles (R45 to R48) -/

def highest (m : BitVec 32) : Nat := (List.range 32).foldl (fun a i => if m.getLsbD i then i + 1 else a) 0

/-- The tile that a load step reads. Stored rows past the highest enabled one are not read. -/
def loadTile (c : Core) (w ea : Nat) (transposed : Bool) : Option Tile :=
  match Fmt.ofCode (lFmt w) with
  | none => none
  | some f =>
    let rm := BitVec.ofNat 32 (lRowMask w)
    let cm := BitVec.ofNat 32 (lColMask w)
    let l := if transposed then highest cm else highest rm
    let rows := (List.range 32).map (fun r => if r < l then readLe c.scratch (ea + r * f.rowBytes) f.rowBytes else 0)
    let at_ (r cc : Nat) : Nat := rowElem f (rows.getD r 0) cc
    let sc := if lScaled w then (readBytes c.scratch (ea + 32 * f.rowBytes) 32).map (·.toNat) else List.replicate 32 127
    let elems := ((List.range 32).map (fun i => (List.range 32).map (fun j => if transposed then at_ j i else at_ i j))).flatten
    if transposed then
      let on := (List.range 32).filter (fun i => rm.getLsbD i && sc.getD i 0 != 255)
      let big := on.foldl (fun m i => max m (sc.getD i 0)) 0
      some { fmt := f, scaled := lScaled w, rowMask := rm, colMask := cm, elems := elems,
             colScale := List.replicate 32 big, rowNan := sc.map (· == 255),
             rowShift := sc.map (fun s => big - s) }
    else
      some { fmt := f, scaled := lScaled w, rowMask := rm, colMask := cm, elems := elems, colScale := sc,
             rowNan := List.replicate 32 false, rowShift := List.replicate 32 0 }

/-- Does a load read an uncorrectable word: in the stored rows it reads, or in the scale bytes (R45, R107)? -/
def loadBad (c : Core) (w ea : Nat) (transposed : Bool) : Bool :=
  match Fmt.ofCode (lFmt w) with
  | none => false
  | some f =>
    scrBad c ea (highest (BitVec.ofNat 32 (if transposed then lColMask w else lRowMask w)) * f.rowBytes) ||
      (lScaled w && scrBad c (ea + 32 * f.rowBytes) 32)

def Tile.at (t : Tile) (i j : Nat) : Nat := t.elems.getD (32 * i + j) 0
def enabled (m : BitVec 32) : List Nat := (List.range 32).filter (fun i => m.getLsbD i)

/-! ## Streams (R41, R42, R70 to R74, R80, R86) -/

/-- The chunk of column `j` for one activation row with scale byte `sa`. -/
def columnChunk (k : ChunkKind) (af : Fmt) (row sa : Nat) (t : Tile) (j : Nat) : Chunk :=
  match k with
  | .f32 => f32Chunk ((enabled t.rowMask).map (fun i => (decodeVal af (rowElem af row i), decodeVal t.fmt (t.at i j))))
  | _ =>
    let cs := t.colScale.getD j 127
    let terms := (enabled t.rowMask).map (fun i =>
      { a := decodeElem af (rowElem af row i), w := decodeElem t.fmt (t.at i j),
        nanScale := sa == 255 || cs == 255 || t.rowNan.getD i false, shift := t.rowShift.getD i 0 : Term })
    chunkOf k (af.minExp + t.fmt.minExp) ((sa : Int) - 127 + ((cs : Int) - 127)) terms

/-- Counts of an operation on accumulator elements: X newly set, and elements that became another special value (R86). -/
structure AccCount where
  inexact : Nat
  special : Nat
deriving DecidableEq, Repr

def accDelta (old new : AccElem) (n : AccCount) : AccCount :=
  ⟨n.inexact + (new.x && !old.x).toNat, n.special + (new.special != 0 && new.special != old.special).toNat⟩

/-- Promote the chunks of one output row; `add` false empties each element first (R80). That an element made empty holds T = 0 and
A = 0 is the model's choice (DESIGN CHOICE, log entry 91). -/
def promoteRow (k : ChunkKind) (af : Fmt) (row sa : Nat) (t : Tile) (add : Bool) (tr : Nat) :
    List Nat → Core → AccCount → Core × AccCount
  | [], c, n => (c, n)
  | j :: js, c, n =>
    let old := if add then accAt c tr j else AccElem.empty
    let new := promote old (columnChunk k af row sa t j)
    promoteRow k af row sa t add tr js (accPut c tr j new) (accDelta old new n)

def streamRows (k : ChunkKind) (af : Fmt) (t : Tile) (add : Bool) :
    List (Nat × Nat) → Nat → Core → AccCount → Core × AccCount
  | [], _, c, n => (c, n)
  | (row, sa) :: rs, tr, c, n =>
    let (c, n) := promoteRow k af row sa t add tr (enabled t.colMask) c n
    streamRows k af t add rs (tr + 1) c n

/-- The rows of a stream with their scale bytes: from scratch at `ea`, or cut from the units of link 0 (R106, R108). -/
def streamInput (c : Core) (f : Fmt) (w ea : Nat) (direct : List Byte) : List (Nat × Nat) :=
  let rb := f.rowBytes
  (List.range (sM w)).map (fun m =>
    if sDirect w then (leNat ((direct.drop (m * rb)).take rb), 127)
    else
      (readLe c.scratch (ea + m * rb) rb,
       if sScaled w then (byteAt c.scratch (ea + sM w * rb + m)).toNat else 127))

/-- Units that a direct stream takes from link 0. -/
def directUnits (w : Nat) : Nat :=
  match Fmt.ofCode (sFmt w) with
  | some f => (sM w * f.rowBytes + 63) / 64
  | none => 0

/-! ## ACC operations -/

def drainCell (fmt : Nat) (e : AccElem) : BitVec 32 × Bool := if fmt == 0 then (drainF32 e, false) else drainI32 e

/-- DRAIN_S of one row: enabled elements and the flag word to scratch; returns saturated and special elements (R85). -/
def drainRow (fmt : Nat) (mask : BitVec 32) (tr data : Nat) : List Nat → Core → Nat → Core × Nat
  | [], c, n => (c, n)
  | j :: js, c, n =>
    let (v, s) := drainCell fmt (accAt c tr j)
    let c := if mask.getLsbD j then scrPut c (data + 4 * j) (leBytes 4 v.toNat) else c
    drainRow fmt mask tr data js c (if mask.getLsbD j && s then n + 1 else n)

def flagWord (c : Core) (mask : BitVec 32) (tr : Nat) : Nat :=
  (List.range 32).foldl (fun f j => if mask.getLsbD j && (accAt c tr j).x then f + 2 ^ j else f) 0

/-- Rows of a DRAIN_S, ascending. Where DATA and FLAG overlap, each row's flag word is written right after that row's elements
(DESIGN CHOICE, log entry 92). -/
def drainRows (fmt : Nat) (mask : BitVec 32) (tr data flagAt : Nat) : List Nat → Core → Nat → Core × Nat
  | [], c, n => (c, n)
  | i :: is, c, n =>
    let (c', n) := drainRow fmt mask (tr + i) (data + 128 * i) (List.range 32) c n
    drainRows fmt mask tr data flagAt is (scrPut c' (flagAt + 4 * i) (leBytes 4 (flagWord c mask (tr + i)))) n

/-- A row drained to the vector unit; the lane of a disabled column carries +0 (R110). -/
def drainVRow (c : Core) (mask : BitVec 32) (tr : Nat) : List (BitVec 32) :=
  (List.range 32).map (fun j => if mask.getLsbD j then drainF32 (accAt c tr j) else 0)

def saveRow (c : Core) (tr : Nat) : List Byte :=
  ((List.range 32).map (fun j => leBytes 12 (accRecord (accAt c tr j)))).flatten

/-- CLEAR; an element made empty holds T = 0 and A = 0 (DESIGN CHOICE, log entry 91). -/
def clearRows (mask : BitVec 32) (tr n : Nat) (c : Core) : Core :=
  (List.range n).foldl (fun c i => (enabled mask).foldl (fun c j => accPut c (tr + i) j AccElem.empty) c) c

/-- RESTORE writes every field of each record back (R90), and counts what that changes (R86). -/
def restoreRows (tr n data : Nat) (c : Core) (k : AccCount) : Core × AccCount :=
  (List.range n).foldl (fun p i => (List.range 32).foldl (fun (c, k) j =>
    let new := accOfRecord (readLe c.scratch (data + 384 * i + 12 * j) 12)
    (accPut c (tr + i) j new, accDelta (accAt c (tr + i) j) new k)) p) (c, k)

def mergeRows (tr n data : Nat) (c : Core) (k : AccCount) : Core × AccCount :=
  (List.range n).foldl (fun p i => (List.range 32).foldl (fun (c, k) j =>
    let old := accAt c (tr + i) j
    let new := mergeRecord old (accOfRecord (readLe c.scratch (data + 384 * i + 12 * j) 12))
    (accPut c (tr + i) j new, accDelta old new k)) p) (c, k)

/-- Records with V = 1 among those that a merge reads: the ones merged into elements (R90). -/
def mergeRecords (n data : Nat) (c : Core) : Nat :=
  ((List.range (32 * n)).filter (fun k => (accOfRecord (readLe c.scratch (data + 12 * k) 12)).v)).length

/-! ## VEC operations (R111 to R114) -/

abbrev Row := List (BitVec 32)

def rowOfBytes (bs : List Byte) : Row := (List.range 32).map (fun l => BitVec.ofNat 32 (leNat ((bs.drop (4 * l)).take 4)))
def bytesOfRow (r : Row) : List Byte := (r.map (fun v => leBytes 4 v.toNat)).flatten

def lane (r : Row) (l : Nat) : BitVec 32 := r.getD l 0
def zipRow (f : BitVec 32 → BitVec 32 → BitVec 32) (a b : Row) : Row := (List.range 32).map (fun l => f (lane a l) (lane b l))

/-- A row read from scratch: binary32, or the packed elements of a narrow format for CVT_FROM. -/
def vecLoad (c : Core) (op fmt a : Nat) : Row :=
  if op == 9 then
    match Fmt.ofCode fmt with
    | some f => let n := readLe c.scratch a f.rowBytes; (List.range 32).map (fun l => cvtFromElem f (rowElem f n l))
    | none => []
  else rowOfBytes (readBytes c.scratch a 128)

def vecRowBytes (op fmt : Nat) (narrow : Bool) : Nat :=
  if narrow then (match Fmt.ofCode fmt with | some f => f.rowBytes | none => 128) else (if op == 17 then 0 else 128)

/-- Source `s` for row `i`: rows of scratch, a broadcast row, which is read once, from the core `c₀` as the step found it (R112), a
drained row, or a constant. A drained row or a constant is no packed row of a narrow format, and CVT_FROM's lanes from it are
free values. -/
def vecSrc (c₀ c : Core) (q : QStep) (freeN w op s i : Nat) : Row :=
  let ea := q.ea.getD (s + 1) 0
  let sz := vecRowBytes op (vFmt w) (op == 9)
  match vKind w s with
  | 0 => vecLoad c op (vFmt w) (ea + i * sz)
  | 1 => vecLoad c₀ op (vFmt w) ea
  | 2 =>
    if op == 9 then (List.range 32).map (fun l => Config.freeLane (freeN + 32 * i + l))
    else rowOfBytes ((q.part.drop (128 * i)).take 128)
  | _ =>
    if op == 9 then (List.range 32).map (fun l => Config.freeLane (freeN + 32 * i + l))
    else List.replicate 32 (mget (0 : BitVec 32) c.k (vAddr w s % 8))

/-- Result row of an operation that is no fold and no conversion to a narrow format. -/
def vecOp (op : Nat) (a b c : Row) : Row :=
  match op with
  | 0 => zipRow fAdd a b
  | 1 => zipRow fSub a b
  | 2 => zipRow fMul a b
  | 3 => (List.range 32).map (fun l => fFma (lane a l) (lane b l) (lane c l))
  | 4 => zipRow fMin a b
  | 5 => zipRow fMax a b
  | 6 => zipRow fCmplt a b
  | 7 => zipRow fCmpeq a b
  | 10 => a.map fRcp
  | 11 => a.map fRsqrt
  | 12 => a.map fExp2
  | 13 => a.map fLog2
  | _ => a

/-- Bytes a result row is stored as. -/
def vecStore (op fmt : Nat) (a : Row) : List Byte :=
  if op == 8 then
    match Fmt.ofCode fmt with
    | some f => leBytes f.rowBytes ((List.range 32).foldl (fun n l => n + cvtToElem f (lane a l) * 2 ^ (f.bits * l)) 0)
    | none => []
  else bytesOfRow a

def foldOp (op : Nat) : BitVec 32 → BitVec 32 → BitVec 32 :=
  if op == 14 then fAdd else if op == 15 then fMax else fMin

/-- NaN of a fold over one row reads as the quiet NaN, like every result of an operation (R57, R111). -/
def canon (v : BitVec 32) : BitVec 32 := if isNan v then qnan else v

def vecFold (c : Core) (q : QStep) (freeN w op : Nat) : Row :=
  (List.range (vN w - 1)).foldl (fun acc i => zipRow (foldOp op) acc (vecSrc c c q freeN w op 0 (i + 1)))
    ((vecSrc c c q freeN w op 0 0).map canon)

/-- The rows of a VEC step written in ascending order, each row reading scratch as earlier rows left it. -/
def vecRows (c₀ : Core) (q : QStep) (freeN w op : Nat) : List Nat → Core → Core
  | [], c => c
  | i :: is, c =>
    let src := fun s => vecSrc c₀ c q freeN w op s i
    let r := vecOp op (src 0) (src 1) (src 2)
    let sz := vecRowBytes op (vFmt w) (op == 8)
    vecRows c₀ q freeN w op is (scrPut c (q.ea.getD 0 0 + i * sz) (vecStore op (vFmt w) r))

def vecEffect (c : Core) (q : QStep) (freeN : Nat) : Core :=
  let w := q.word.toNat
  let op := wOp w
  if op == 17 then { c with k := mput 0 c.k (vKSel w) (vVal w) }
  else if op ≥ 14 then scrPut c (q.ea.getD 0 0) (bytesOfRow (vecFold c q freeN w op))
  else vecRows c q freeN w op (List.range (vN w)) c

end Sys2Proof.Machine
end

