-- ==== Sys2Proof/Machine/Rings.lean ====
section
/-!
DEFINITION. The rings of the whistle network and the words they carry: the path of a message, the stations that own slots,
the frames of a ring, and the messages that require delivery (R141 to R145). A ring is named by its page (a region 0 to 31,
or 32 for the package) and its number on that page (0 to 3 pack rings, 4 region ring, 7 trunk).
-/
namespace Sys2Proof.Machine

/-- Stations on a ring (R141). -/
def ringSize (k : Nat) : Nat := if k < 4 then 35 else if k == 4 then 7 else 52

/-- Rings a WHS page carries (R150). -/
def ringLegal (w k : Nat) : Bool := if w == 32 then k == 7 else k ≤ 4

/-- Fields of a whistle address: region, ring, station (R143). -/
def stRegion (a : Nat) : Nat := a / 512
def stRing (a : Nat) : Nat := a / 64 % 8
def stStation (a : Nat) : Nat := a % 64
def stationAt (w k s : Nat) : Nat := if k == 7 then 448 + s else 512 * w + 64 * k + s

/-- The ring a station stands on. -/
def ringOf (a : Nat) : Nat × Nat := if stRing a == 7 then (32, 7) else (stRegion a, stRing a)

/-- The WHS page of a whistle address: the trunk's, or its region's. -/
def whsOf (a : Nat) : Nat := whsPg (ringOf a).1

/-- Rings a word climbs from a station to the trunk, each with the station at which it enters (R141). -/
def climb (a : Nat) : List (Nat × Nat × Nat) :=
  let r := stRegion a
  if stRing a == 7 then [(32, 7, stStation a)]
  else if stRing a == 4 then [(r, 4, stStation a), (32, 7, r)]
  else [(r, stRing a, stStation a), (r, 4, stRing a), (32, 7, r)]

/-- Rings a word crosses from the trunk down to a station. -/
def descend (a : Nat) : List (Nat × Nat × Nat) :=
  let r := stRegion a
  if stRing a == 7 then [] else if stRing a == 4 then [(r, 4, 6)] else [(r, 4, 6), (r, stRing a, 34)]

/-- Rings a message crosses from one station to another, each with the station at which it enters the ring (R141). -/
def ringPath (src dst : Nat) : List (Nat × Nat × Nat) :=
  if ringOf src == ringOf dst then (climb src).take 1
  else if stRing src != 7 && stRing dst != 7 && stRegion src == stRegion dst then
    if stRing src == 4 then (climb src).take 1 ++ [(stRegion dst, stRing dst, 34)]
    else if stRing dst == 4 then (climb src).take 2
    else (climb src).take 2 ++ [(stRegion dst, stRing dst, 34)]
  else climb src ++ descend dst

/-- Slots of a ring's active table that a station owns; before firmware has taken a table, the start table in use serves every
station (R142). -/
def slotsOwned (x : Ring) (t : Nat) : Nat :=
  if x.active.isEmpty then 256 else (x.active.filter (fun b => b.toNat == t)).length

/-- May a message travel: does the station at which it enters each ring of its path own a slot there? A leaf with weight 0 owns none, and
sends nothing (R142, R145). -/
def mayTravel (d : Dev) (src dst : Nat) : Bool :=
  (ringPath src dst).all (fun h => slotsOwned (ring d h.1 h.2.1) h.2.2 != 0)

/-- Words of a message: header, payload and CRC. A leash and an acknowledge carry no payload (R143). -/
def msgWords (typ : Nat) : Nat := if typ ≤ 2 then 3 else 3 + (Config.whsPayload typ).val

/-- A message's words wait at each station where it enters a ring (R142). -/
def carry (d : Dev) (src dst typ : Nat) : Dev :=
  (ringPath src dst).foldl (fun d h =>
    let x := ring d h.1 h.2.1
    setRing d h.1 h.2.1 { x with words := mupd 0 x.words h.2.2 (· + msgWords typ) }) d

/-- Words of each station that a frame carries: as many as wait, up to the slots the station owns (R142). -/
def frameWords (x : Ring) : List (Nat × Nat) := x.words.map (fun e => (e.1, min e.2 (slotsOwned x e.1)))

/-- A frame of 256 slots ends: the slots that carried a word are used, the others passed empty (R142, R150). -/
def ringFrame (x : Ring) : Ring :=
  let sent := frameWords x
  let used := min 256 (sent.foldl (fun n e => n + e.2) 0)
  { x with words := sent.foldl (fun m e => mupd 0 m e.1 (· - e.2)) x.words, frames := x.frames + 1, used := x.used + used,
           idle := x.idle + (256 - used) }

/-! ## Messages that require delivery (R143, R144) -/

def wtLeash : Nat := 1
def wtAck : Nat := 2
def wtPageRead : Nat := 3
def wtPageWrite : Nat := 4
def wtFirmware : Nat := 7
def wtSteward : Nat := 8

/-- A whistle message that requires delivery leaves its source with the next SEQ to that destination. -/
def wSend (d : Dev) (src dst typ who lnk cnt : Nat) : Dev :=
  let key := 16384 * src + dst
  let seq := mget 0 d.wseq key
  carry { d with wseq := mput 0 d.wseq key ((seq + 1) % 4096),
                 wmsgs := d.wmsgs ++ [⟨src, dst, typ, seq, who, lnk, cnt, false, 0⟩] } src dst typ

/-- A message that its destination has acted on and whose acknowledge has not yet come (R143). -/
def wServed (d : Dev) (src dst typ : Nat) : Dev :=
  let key := 16384 * src + dst
  let seq := mget 0 d.wseq key
  carry { d with wseq := mput 0 d.wseq key ((seq + 1) % 4096),
                 wmsgs := d.wmsgs ++ [⟨src, dst, typ, seq, 0, 0, 0, true, 0⟩] } src dst typ

/-- Is a message the oldest of its source and destination that has not arrived (R143)? -/
def inOrder (d : Dev) (m : WMsg) : Bool :=
  d.wmsgs.find? (fun x => x.src == m.src && x.dst == m.dst && !x.seen) == some m

end Sys2Proof.Machine
end

