-- ==== Sys2Proof/Machine/CoreRun.lean ====
section
/-!
DEFINITION. How the engines of a core start and complete steps (R38, R96 to R98, R100 to R116): the waits, the data that
moves at shared ports, sync links and tokens, and STEP_COMPLETE.
-/
namespace Sys2Proof.Machine

/-! ## Queue of issued steps -/

def qset (d : Dev) (n i : Nat) (f : QStep → QStep) : Dev :=
  let c := core d n
  setCore d n { c with q := c.q.modify i f }
def qdel (d : Dev) (n i : Nat) : Dev :=
  let c := core d n
  setCore d n { c with q := c.q.eraseIdx i }
def qfail (d : Dev) (n i : Nat) : Dev := qset d n i (fun q => { q with started := true, failed := true })

/-! ## Tokens a step presents (R103) -/

def tokAt (c : Core) (h : Nat) : Option Token := mget none c.toks h
def isHolderStep (h : Nat) (q : QStep) : Bool :=
  wCls q.word.toNat == clsSync && wOp q.word.toNat ≤ 1 && yHolder q.word.toNat == h
/-- Holder `h` holds its token for a step with `before` ahead of it in the queue. -/
def tokReady (c : Core) (before : List QStep) (h : Nat) : Bool := (tokAt c h).isSome && !before.any (isHolderStep h)

def usesTwo (op : Nat) : Bool := op == 5 || op == 6
/-- Does a step name holder `h`? -/
def namesHolder (h : Nat) (q : QStep) : Bool :=
  let w := q.word.toNat
  if wCls w == clsMove then (mTU w && mTH w == h) || (usesTwo (wOp w) && mTU2 w && mTH2 w == h)
  else isHolderStep h q

/-- The crossbar path of COPY, LOAD_X, STORE_X, T_TO_X, X_TO_T and GATHER_X; every other MOVE takes the vertical path. -/
def onCrossbar (op : Nat) : Bool := op == 0 || (3 ≤ op && op ≤ 6) || op == 12

/-! ## When an engine may start a step (R96, R98): 0 may start, 8 not yet, otherwise a CORE_STAT.WAIT code -/

/-- CLEAR, RESTORE and MERGE set fill-pending marks; DRAIN_V, DRAIN_S and SAVE drain-pending marks. -/
def fills (q : QStep) : Bool := accOp q == 0 || accOp q == 4 || accOp q == 5
def drains (q : QStep) : Bool := accOp q == 1 || accOp q == 2 || accOp q == 3

def waitOf (d : Dev) (n i : Nat) (q : QStep) : Nat :=
  let c := core d n
  let w := q.word.toNat
  let before := c.q.take i
  match q.eng with
  | .vec => if before.any (·.eng == .vec) then 8 else 0
  | .colFeeder => if before.any (·.eng == .colFeeder) then 8 else if c.shadow.isSome then 4 else 0
  | .acc =>
    if before.any (·.eng == .acc) then 8
    else if before.any (fun s => isStream s && (accOp q == 5 || markHits s q)) then 5
    else if accOp q != 3 && before.any (fun s => drains s && markAny s q) then 5 else 0
  | .drain =>
    if before.any (·.eng == .drain) then 8
    else if before.any (fun s => (isStream s || fills s) && markHits s q) then 5
    else 0
  | .rowFeeder =>
    if before.any (fun s => isStream s && (!s.started || !s.arrived)) then 8
    else if before.any (fun s => fills s || (drains s && markHits s q)) then 5
    else if sTake w && (c.shadow.isNone || before.any (fun s => s.eng == .colFeeder && s.started)) then 4 else 0
  | .move =>
    let ms := before.filter (·.eng == .move)
    if ms.any (fun s => !s.started) then 8
    else if ms.any (fun s => onCrossbar (wOp s.word.toNat) == onCrossbar (wOp w) && !s.dataDone && !sendLeft d n s) then 8
    else if (mTU w && wOp w != 0 && !tokReady c before (mTH w)) ||
        (usesTwo (wOp w) && mTU2 w && !tokReady c before (mTH2 w)) then 2
    else 0
  | .sync => 8

/-- What a SYNC step waits for: TAKE and RELEASE the token, GIVE the leashes (R115). -/
def syncWait (c : Core) (q : QStep) : Nat :=
  let w := q.word.toNat
  match wOp w with
  | 0 => 2
  | 1 => if (tokAt c (yHolder w)).isNone then 2 else 0
  | _ => if (mget SyncLink.none c.sync (yLink w)).held < yCount w then 1 else 0

/-- CORE_STAT.WAIT while issue is not held: the reason of the oldest issued step that has not started (R64). -/
def oldestWait (d : Dev) (n : Nat) : Nat :=
  let c := core d n
  match c.q.findIdx? (fun q => !q.started) with
  | some i =>
    (match c.q[i]? with
     | some q => if q.eng == .sync then syncWait c q else let w := waitOf d n i q; if w == 8 then 0 else w
     | none => 0)
  | none => 0

/-! ## Moves: one 64-byte unit at each end (R100, R137) -/

inductive MEnd where
  | scratch | vertical | xbar | slice
deriving DecidableEq, Repr

/-- Ports presented in turn with one token; false once one refuses. -/
def presentAll (n idx : Nat) : List (Nat × Option Token) → Dev → Dev × Bool
  | [], d => (d, true)
  | (p, t) :: ps, d =>
    match presentUnit d n p t idx with
    | (d, true) => presentAll n idx ps d
    | (d, false) => (d, false)

/-- The crossbar tower port of the join whose token is `t`; port 168 where it has none (R128). -/
def towerPort (d : Dev) (r : Nat) (t : Option Token) : Nat :=
  match t with
  | none => 168
  | some k => ((List.range 4).map (168 + ·)).find? (fun p => (port d r p).lead == some k.port) |>.getD 168

def vertPort (d : Dev) (n : Nat) : Nat := 236 + (colOf d n).getD 0

/-- The ports that a unit at an end of a move crosses. -/
def endPorts (d : Dev) (n : Nat) (e : MEnd) (a : Nat) (t : Option Token) : List (Nat × Option Token) :=
  let r := coreRegion n
  match e with
  | .scratch => []
  | .slice => [(136 + a / 2 ^ 20 % 32, t)]
  | .vertical => [(frameCol (meFrame (entry d r (bits a 35 21))), t), (vertPort d n, t)]
  | .xbar => [(towerPort d r t, t), (frameCol (meFrame (entry d r (bits a 35 21))), t)]

/-- The checks of R155 for a tower end; the first that fails ends the item with its status. -/
def endCheck (d : Dev) (n idx : Nat) (e : MEnd) (a : Nat) (write : Bool) : Dev × Bool :=
  if e == .scratch || e == .slice then (d, true)
  else
    let r := coreRegion n
    match checkPage d r (bits a 35 21) .engine write with
    | some (k, st) => (coreFault (barkAccess d r (bits a 35 21) k a st) n idx 0 st, false)
    | none => (d, true)

def unitRead (d : Dev) (n idx : Nat) (e : MEnd) (a : Nat) (t : Option Token) : Dev × Option (List Byte) :=
  let r := coreRegion n
  match endCheck d n idx e a false with
  | (d, false) => (d, none)
  | (d, true) =>
    match presentAll n idx (endPorts d n e a t) d with
    | (d, false) => (d, none)
    | (d, true) =>
      match e with
      | .scratch =>
        if scrBad (core d n) a 64 then (coreFault d n idx 14 stUncorr, none)
        else (d, some (readBytes (core d n).scratch a 64))
      | .slice =>
        let s := a / 2 ^ 20 % 32
        if (mget [] d.badSlice (32 * r + s)).any (fun w => w / 8 == a % 2 ^ 20 / 64) then (coreFault d n idx 14 stUncorr, none)
        else (d, some (readBytes (slice d r s) (a % 2 ^ 20) 64))
      | _ =>
        match readPage d r (bits a 35 21) (bits a 20 0) 64 with
        | (d, some x) => (d, some x)
        | (d, none) => (coreFault (barkAccess d r (bits a 35 21) 5 a stUncorr) n idx 0 stUncorr, none)

def unitWrite (d : Dev) (n idx : Nat) (e : MEnd) (a : Nat) (t : Option Token) (bs : List Byte) : Dev × Bool :=
  let r := coreRegion n
  match endCheck d n idx e a true with
  | (d, false) => (d, false)
  | (d, true) =>
    match presentAll n idx (endPorts d n e a t) d with
    | (d, false) => (d, false)
    | (d, true) =>
      match e with
      | .scratch => (setCore d n (scrPut (core d n) a bs), true)
      | .slice =>
        let s := a / 2 ^ 20 % 32
        let d := { d with badSlice := mupd [] d.badSlice (32 * r + s) (·.filter (fun w => w / 8 != a % 2 ^ 20 / 64)) }
        (setSlice d r s (writeBytes (slice d r s) (a % 2 ^ 20) bs), true)
      | _ =>
        match writePage d r (bits a 35 21) (bits a 20 0) bs with
        | (d, true) => (d, true)
        | (d, false) => (coreFault (barkAccess d r (bits a 35 21) 5 a stUncorr) n idx 0 stUncorr, false)

/-- Units moved in order, from (source, destination) addresses. A COPY whose source and destination overlap so reads what earlier units
have written (DESIGN CHOICE, log entry 93). -/
def moveUnits (n idx : Nat) (es ed : MEnd) (ts td : Option Token) : List (Nat × Nat) → Dev → Dev × Bool
  | [], d => (d, true)
  | (a, b) :: r, d =>
    match unitRead d n idx es a ts with
    | (d, none) => (d, false)
    | (d, some bs) =>
      match unitWrite d n idx ed b td bs with
      | (d, false) => (d, false)
      | (d, true) => moveUnits n idx es ed ts td r d

/-- Units read in order for a send or a feed: those that passed, and whether all did. -/
def readUnits (n idx : Nat) (es : MEnd) (ts : Option Token) (extra : List (Nat × Option Token)) :
    List Nat → Dev → List Byte → Dev × List Byte × Bool
  | [], d, acc => (d, acc, true)
  | a :: r, d, acc =>
    match unitRead d n idx es a ts with
    | (d, none) => (d, acc, false)
    | (d, some bs) =>
      match presentAll n idx extra d with
      | (d, false) => (d, acc, false)
      | (d, true) => readUnits n idx es ts extra r d (acc ++ bs)

def units (a b n : Nat) : List (Nat × Nat) := (List.range n).map (fun i => (a + 64 * i, b + 64 * i))

/-- Rows of a gather in index order; an index at or above the limit is code 8 (R105). -/
def gatherRows (n : Nat) (q : QStep) (e : MEnd) (t : Option Token) (base row lim : Nat) :
    List Nat → Nat → Dev → Dev × Bool
  | [], _, d => (d, true)
  | x :: xs, dst, d =>
    if x ≥ lim then (coreFault d n q.idx 8 stMalformed, false)
    else
      match moveUnits n q.idx e .scratch t none (units (base + x * row) dst (row / 64)) d with
      | (d, false) => (d, false)
      | (d, true) => gatherRows n q e t base row lim xs (dst + row) d

/-- The link to a peer is lost (R231). -/
def pairLost (d : Dev) (r j : Nat) : Bool := (link d r j).st == .lost

/-- A turn on a channel of a lost pair: the item fails with LINK, no data moves, and the turn completes at once, its order
list going on as after a release (R231). -/
def lostTurn (d : Dev) (n i : Nat) (q : QStep) : Dev :=
  let r := coreRegion n
  let h := mTH q.word.toNat
  let d := qdel (coreFault d n q.idx 0 stLink) n i
  let c := core d n
  match (if mTU q.word.toNat then tokAt c h else none) with
  | none => d
  | some t =>
    let d := setCore d n { c with toks := mput none c.toks h none }
    if (port d r t.port).lead == some t.port && (port d r t.port).turn % 2 ^ 14 == t.turn then releaseAtPort d r t.port else d

/-- Activity of a MOVE step of `u` units (R384). -/
def moveAct (d : Dev) (n op u : Nat) : Dev :=
  let a := fun (d : Dev) k m => act d (unitCore n) k m
  let scr := if op == 0 then 2 * u else if op == 5 || op == 6 || op == 9 || op == 10 then 0 else u
  let d := a d 3 scr
  let d := if onCrossbar op then a d 7 u else a d 8 u
  let d := if 3 ≤ op && op ≤ 6 || op == 12 then a d 9 u else d
  if op == 1 || op == 2 || op == 5 || op == 6 || op == 9 || op == 11 then a d 13 ((u + 3) / 4) else d

/-- The data of a MOVE step, moved when it starts; the receives are filled as their frames arrive. -/
def startMove (d : Dev) (n i : Nat) (q : QStep) : Dev :=
  let w := q.word.toNat
  let op := wOp w
  let r := coreRegion n
  let c := core d n
  let t := if mTU w && op != 0 then tokAt c (mTH w) else none
  let t2 := if mTU2 w then tokAt c (mTH2 w) else none
  let ea := q.ea.getD 0 0
  let sa := q.ea.getD 1 0
  let u := mLen w
  let fin := fun (p : Dev × Bool) => if p.2 then p.1 else qfail p.1 n i
  let d := qset d n i (fun q => { q with started := true })
  let d := moveAct d n op (if op == 11 || op == 12 then u * (mGRow w / 64) else u)
  match op with
  | 0 => fin (moveUnits n q.idx .scratch .scratch none none (units sa ea u) d)
  | 1 => fin (moveUnits n q.idx .vertical .scratch t none (units sa ea u) d)
  | 2 => fin (moveUnits n q.idx .scratch .vertical none t (units sa ea u) d)
  | 3 => fin (moveUnits n q.idx .slice .scratch t none (units sa ea u) d)
  | 4 => fin (moveUnits n q.idx .scratch .slice none t (units sa ea u) d)
  | 5 => fin (moveUnits n q.idx .xbar .slice t t2 (units sa ea u) d)
  | 6 => fin (moveUnits n q.idx .slice .xbar t2 t (units sa ea u) d)
  | 7 =>
    let j := mPeer w
    if pairLost d r j then lostTurn d n i q
    else
      let close := fun (d : Dev) (fs : List TxItem) =>
        let k := (chan d r j).sendK + 1
        chanSend (qset (setChan d r j { chan d r j with sendK := k }) n i (fun q => { q with got := k })) r j fs
      let halted := (port d r (172 + j)).halted
      match readUnits n q.idx .scratch none [(172 + j, t), (vertPort d n, t)] ((units sa 0 u).map (·.1)) d [] with
      | (d, bs, true) => close d (sendFrames bs)
      | (d, bs, false) =>
        let d := if (port d r (172 + j)).halted && !halted then
            close d ((pieces 56 bs).map (fun p => ⟨0, kData, p, 0⟩) ++ [⟨0, kRefused, [], 0⟩])
          else d
        qfail d n i
  | 8 | 10 =>
    if pairLost d r (mPeer w) then lostTurn d n i q else qset d n i (fun q => { q with arrived := false })
  | 9 => qset d n i (fun q => { q with arrived := false })
  | _ =>
    let base := q.ea.getD 3 0
    if scrBad c sa (4 * u) then qfail (coreFault d n q.idx 14 stUncorr) n i
    else
      let xs := (List.range u).map (fun k => readLe c.scratch (sa + 4 * k) 4)
      fin (gatherRows n q (if op == 11 then .vertical else .slice) t base (mGRow w) (mGLim w) xs ea d)

/-! ## Receives (R104, R135, R138, R214) -/

/-- Discard the frames of sends that are to be skipped. -/
def dropSkipped : Nat → Chan → Chan
  | 0, c => c
  | f + 1, c =>
    if c.skip == 0 then c
    else
      match c.rx with
      | [] => c
      | x :: r => dropSkipped f { c with rx := r, skip := if x.kind == kData then c.skip else c.skip - 1 }

def chanDrop (d : Dev) (i j : Nat) : Dev :=
  let c := chan d i j
  setChan d i j (dropSkipped c.rx.length c)

/-- Bytes that complete units of a receive, each presented at the inbound port and stored. -/
def recvUnits (n : Nat) (q : QStep) (t : Option Token) : List (List Byte) → Nat → Dev → Dev × Bool
  | [], _, d => (d, true)
  | b :: r, k, d =>
    let w := q.word.toNat
    match presentAll n q.idx [(204 + mPeer w, t), (vertPort d n, t)] d with
    | (d, false) => (d, false)
    | (d, true) =>
      let c := core d n
      let d := if wOp w == 10 then setCore d n { c with link0 := c.link0 ++ [b] }
        else setCore d n (scrPut c (q.ea.getD 0 0 + 64 * k) b)
      recvUnits n q t r (k + 1) d

/-- One frame taken by the receive at position `i` of the queue. -/
def recvFrame (d : Dev) (n i : Nat) (q : QStep) (x : TxItem) : Dev :=
  let w := q.word.toNat
  let r := coreRegion n
  let j := mPeer w
  let len := 64 * mLen w
  let stop := fun (d : Dev) code st => qfail (coreFault d n q.idx code st) n i
  let discard := fun (d : Dev) => setChan d j r { chan d j r with skip := (chan d j r).skip + 1 }
  if x.kind == kFenced then stop d 0 stFenced
  else if x.kind == kRefused then stop d 0 stSchedule
  else
    let bs := (q.part ++ x.data).take (len - (q.got - q.part.length))
    let got := q.got + x.data.length
    let whole := bs.length / 64
    let t := if mTU w then tokAt (core d n) (mTH w) else none
    match recvUnits n q t (pieces 64 (bs.take (64 * whole))) ((q.got - q.part.length) / 64) d with
    | (d, false) => qfail d n i
    | (d, true) =>
      let d := qset d n i (fun q => { q with got := got, part := bs.drop (64 * whole), arrived := got == len && x.kind == kLast })
      if x.kind == kLast then (if got == len then d else stop d 11 stMalformed)
      else if got ≥ len then stop (discard d) 11 stMalformed
      else d

/-- Leashes of link 0 that the MOVE engine holds: its depth less the entries in the buffer (R53, R54). An entry is a unit of 64 bytes,
as R106 counts what direct streams take. -/
def link0Room (d : Dev) (n : Nat) : Nat := 16 - (core d n).link0.length

/-- The receive at position `i` takes the next frame of its channel, if one stands there; one into link 0 needs a leash of it. -/
def recvNext (d : Dev) (n i : Nat) (q : QStep) : Option Dev :=
  let j := mPeer q.word.toNat
  let r := coreRegion n
  let d := chanDrop d j r
  if wOp q.word.toNat == 10 && link0Room d n == 0 then none
  else
    match (chan d j r).rx with
    | [] => none
    | x :: rest => some (recvFrame (setChan d j r { chan d j r with rx := rest }) n i q x)

/-- FEED_T sends the units into link 0 for which it holds leashes (R53, R106). -/
def feedNext (d : Dev) (n i : Nat) (q : QStep) : Option Dev :=
  let w := q.word.toNat
  let k := min (link0Room d n) (mLen w - q.got)
  if k == 0 then none
  else
    let t := if mTU w then tokAt (core d n) (mTH w) else none
    match readUnits n q.idx .vertical t [] ((units (q.ea.getD 1 0 + 64 * q.got) 0 k).map (·.1)) d [] with
    | (d, bs, ok) =>
      let c := core d n
      let d := setCore d n { c with link0 := c.link0 ++ pieces 64 bs }
      let d := qset d n i (fun q => { q with got := q.got + bs.length / 64, arrived := q.got + k == mLen w })
      some (if ok then d else qfail d n i)

/-! ## Starting the other engines -/

def addCounts (d : Dev) (n : Nat) (k : AccCount) : Dev :=
  count (count d (corePg n) CORE.INEXACT_ELEM k.inexact) (corePg n) CORE.SPECIAL_ELEM k.special

/-- Promote a stream's rows, its input complete. -/
def finishStream (d : Dev) (n i : Nat) (q : QStep) : Dev :=
  let w := q.word.toNat
  let c := core d n
  match Fmt.ofCode (sFmt w), c.active with
  | some f, some t =>
    if (sAdd w && accBad c (sRow w) (sM w) t.colMask) then qfail (coreFault d n q.idx 14 stUncorr) n i
    else
      match pairKind (sPath w) f t.fmt with
      | none => d
      | some k =>
        let rows := streamInput c f w (q.ea.getD 0 0) q.part
        let (c, a) := streamRows k f t (sAdd w) rows (sRow w) c ⟨0, 0⟩
        let macs := sM w * (enabled t.rowMask).length * (enabled t.colMask).length
        let d := addCounts (setCore d n c) n a
        let d := act d (unitCore n) (sPath w) macs
        let d := act d (unitCore n) 4 (sM w)
        let d := if sDirect w then d
          else act d (unitCore n) 3 ((sM w * (f.rowBytes + (sScaled w).toNat) + 63) / 64)
        count d (corePg n) (if sPath w == 0 then CORE.MAC_8 else if sPath w == 1 then CORE.MAC_4 else CORE.MAC_16) macs
  | _, _ => d

def startStream (d : Dev) (n i : Nat) (q : QStep) : Dev :=
  let w := q.word.toNat
  let c := core d n
  let c := if sTake w then { c with active := c.shadow, shadow := none } else c
  let len := match Fmt.ofCode (sFmt w) with | some f => sM w * (f.rowBytes + (sScaled w).toNat) | none => 0
  let d := setCore d n c
  let m := (c.active.map (·.rowMask)).getD 0
  if sDirect w then qset d n i (fun q => { q with started := true, arrived := false, rowMask := m })
  else if scrBad c (q.ea.getD 0 0) len then qfail (coreFault d n q.idx 14 stUncorr) n i
  else finishStream (qset d n i (fun q => { q with started := true, rowMask := m })) n i q

/-- A direct stream takes units from link 0 as they stand there. -/
def streamPull (d : Dev) (n i : Nat) (q : QStep) : Option Dev :=
  let c := core d n
  let need := directUnits q.word.toNat - q.got
  let k := min need c.link0.length
  if k == 0 then none
  else
    let part := q.part ++ (c.link0.take k).flatten
    let d := setCore d n { c with link0 := c.link0.drop k }
    let q := { q with part := part, got := q.got + k, arrived := k == need }
    let d := qset d n i (fun _ => q)
    some (if k == need then finishStream d n i q else d)

/-- Leashes of a drain lane: its depth less the rows in its buffer (R53, R54). -/
def laneRoom (d : Dev) (n : Nat) : Nat := 16 - (core d n).drained.length

/-- DRAIN_V reads the rows for which its lanes hold leashes; each read clears the row's mark (R56, R110). -/
def drainNext (d : Dev) (n i : Nat) (q : QStep) : Option Dev :=
  let w := q.word.toNat
  let k := min (laneRoom d n) (cCount w - q.got)
  if k == 0 then none
  else
    let c := core d n
    let rows := (List.range k).map (fun x => drainVRow c (BitVec.ofNat 32 (cMask w)) (cRow w + q.got + x))
    some (qset (setCore d n { c with drained := c.drained ++ rows }) n i
      (fun q => { q with got := q.got + k, arrived := q.got + k == cCount w }))

def startLoad (d : Dev) (n i : Nat) (q : QStep) : Dev :=
  let w := q.word.toNat
  let c := core d n
  let ea := q.ea.getD 0 0
  let (_, len) := q.rng.headD (0, 0)
  if loadBad c w ea (wOp w == 1) then qfail (coreFault d n q.idx 14 stUncorr) n i
  else
    let d := act d (unitCore n) 3 ((len + 63) / 64)
    qset (setCore d n { c with shadow := loadTile c w ea (wOp w == 1) }) n i (fun q => { q with started := true })

def startAcc (d : Dev) (n i : Nat) (q : QStep) : Dev :=
  let w := q.word.toNat
  let c := core d n
  let tr := cRow w
  let k := cCount w
  let m := BitVec.ofNat 32 (cMask w)
  let ed := q.ea.getD 0 0
  let bad := qfail (coreFault d n q.idx 14 stUncorr) n i
  let go := fun (d : Dev) (c : Core) (bytes : Nat) =>
    qset (act (act (setCore d n c) (unitCore n) 4 k) (unitCore n) 3 ((bytes + 63) / 64)) n i
      (fun q => { q with started := true })
  match wOp w with
  | 0 => go d (clearRows m tr k c) 0
  | 1 =>
    if accBad c tr k m then bad
    else qset (go d c 0) n i (fun q => { q with arrived := false })
  | 2 =>
    if accBad c tr k m then bad
    else
      let (c', s) := drainRows (cFmt w) m tr ed (q.ea.getD 1 0) (List.range k) c 0
      go (count d (corePg n) CORE.DRAIN_SAT (if cFmt w == 1 then s else 0)) c' (132 * k)
  | 3 =>
    if accBad c tr k m then bad
    else go d ((List.range k).foldl (fun c' i => scrPut c' (ed + 384 * i) (saveRow c (tr + i))) c) (384 * k)
  | 4 =>
    if scrBad c ed (384 * k) then bad
    else
      let (c', a) := restoreRows tr k ed c ⟨0, 0⟩
      addCounts (go d c' (384 * k)) n a
  | _ =>
    if scrBad c ed (384 * k) || accBad c tr k m then bad
    else
      let (c', a) := mergeRows tr k ed c ⟨0, 0⟩
      addCounts (count (go d c' (384 * k)) (corePg n) CORE.MERGE_CNT (mergeRecords k ed c)) n a

def vecDrain (q : QStep) : Bool := wOp q.word.toNat != 17 && vKind q.word.toNat 0 == 2

def finishVec (d : Dev) (n i : Nat) (q : QStep) : Dev :=
  let w := q.word.toNat
  let op := wOp w
  let c := core d n
  let src := (q.rng.drop 1).any (fun (a, l) => scrBad c a l)
  if src then qfail (coreFault d n q.idx 14 stUncorr) n i
  else
    let d := setCore d n (vecEffect c q d.freeN)
    let d := if op == 9 then { d with freeN := d.freeN + 32 * vN w } else d
    let d := if op == 17 then d
      else act d (unitCore n) (if 10 ≤ op && op ≤ 13 then 6 else 5) (32 * vN w)
    act d (unitCore n) 3 ((q.rng.foldl (fun s x => s + x.2) 0 + 63) / 64)

def startVec (d : Dev) (n i : Nat) (q : QStep) : Dev :=
  if vecDrain q then qset d n i (fun q => { q with started := true, arrived := false })
  else finishVec (qset d n i (fun q => { q with started := true })) n i q

/-- A VEC step with a drained source takes rows as the drain delivers them. -/
def vecPull (d : Dev) (n i : Nat) (q : QStep) : Option Dev :=
  let c := core d n
  let need := vN q.word.toNat - q.got
  let k := min need c.drained.length
  if k == 0 then none
  else
    let part := q.part ++ ((c.drained.take k).map bytesOfRow).flatten
    let d := setCore d n { c with drained := c.drained.drop k }
    let q := { q with part := part, got := q.got + k, arrived := k == need }
    let d := qset d n i (fun _ => q)
    some (if k == need then finishVec d n i q else d)

/-! ## Sync links and tokens (R115, R116, R132, R144) -/

/-- Whistle address of a core's site (R143). -/
def stationOf (d : Dev) (n : Nat) : Nat := coreRegion n * 512 + corePack n % 4 * 64 + (siteOf d n).getD 0

/-- `k` leashes of link `l` leave core `n` for the far end (R116). -/
def sendLeash (d : Dev) (n l k : Nat) : Dev :=
  let c := core d n
  let s := mget SyncLink.none c.sync l
  let d := setCore d n { c with sync := mput SyncLink.none c.sync l { s with held := s.held - k, inWay := s.inWay + k } }
  wSend d (stationOf d n) (stationOf d s.farCore) wtLeash n l k

/-- RELEASE: the token in holder `h` leaves for its port (R132). -/
def releaseToken (d : Dev) (n h : Nat) : Dev :=
  let c := core d n
  let r := coreRegion n
  match mget none c.toks h with
  | none => d
  | some t =>
    let d := setCore d n { c with toks := mput none c.toks h none }
    let x := port d r t.port
    setPort d r t.port { x with place := .releasing, msgs := x.msgs ++ [⟨1, t.turn, coreUser n, 0, false⟩] }

/-- The first SYNC step of the queue completes when its condition holds. -/
def syncHead (d : Dev) (n i : Nat) (q : QStep) : Option Dev :=
  let c := core d n
  let r := coreRegion n
  let w := q.word.toNat
  let before := c.q.take i
  let h := yHolder w
  if before.any (·.eng == .sync) then none
  else
    match wOp w with
    | 0 =>
      match mget none c.parked (yList w) with
      | none => none
      | some t =>
        let d := setCore d n { c with parked := mput none c.parked (yList w) none, toks := mput none c.toks h (some t) }
        let d := setPort d r (yList w) { port d r (yList w) with place := .held, stalled := false }
        some (qdel d n i)
    | 1 =>
      if (mget none c.toks h).isSome && !before.any (namesHolder h) then some (qdel (releaseToken d n h) n i) else none
    | _ =>
      let s := mget SyncLink.none c.sync (yLink w)
      if before.isEmpty && yCount w ≤ s.held then some (qdel (sendLeash d n (yLink w) (yCount w)) n i) else none

/-! ## The pump: everything that may start or proceed at a core does -/

/-- Does a step move data through the tower base die: the vertical channel, a crossbar tower port or a peer channel? -/
def crossesTower (w : Nat) : Bool :=
  wCls w == 1 && (wOp w == 1 || wOp w == 2 || (5 ≤ wOp w && wOp w ≤ 11))

/-- A step of the queue with something to do now, and the device after it. The crossover of a tower in reset starts no unit (R359). -/
def proceed (d : Dev) (n i : Nat) (q : QStep) : Option Dev :=
  let c := core d n
  let w := q.word.toNat
  if q.failed || (crossesTower w && !q.dataDone && (tower d (coreRegion n)).hold) then none
  else if q.eng == .sync then syncHead d n i q
  else if !q.started then
    (if waitOf d n i q != 0 then none
     else
      match q.eng with
      | .move => some (startMove d n i q)
      | .colFeeder => some (startLoad d n i q)
      | .rowFeeder => some (startStream d n i q)
      | .vec => some (startVec d n i q)
      | _ => some (startAcc d n i q))
  else if !q.arrived then
    (match q.eng with
     | .move => if wOp w == 9 then feedNext d n i q else recvNext d n i q
     | .rowFeeder => streamPull d n i q
     | .vec => vecPull d n i q
     | .drain => drainNext d n i q
     | _ => none)
  else if q.eng == .move && q.dataDone && mGV w then
    (if (mget SyncLink.none c.sync (mGL w)).held ≥ 1 then some (qdel (sendLeash d n (mGL w) 1) n i) else none)
  else none

def proceedFirst (d : Dev) (n : Nat) : List (Nat × QStep) → Option Dev
  | [] => none
  | (i, q) :: r => match proceed d n i q with | some d => some d | none => proceedFirst d n r

def numbered (qs : List QStep) : List (Nat × QStep) := (List.range qs.length).zip qs

def pumpGo (n : Nat) : Nat → Dev → Dev
  | 0, d => d
  | f + 1, d =>
    match proceedFirst d n (numbered (core d n).q) with
    | some d => pumpGo n f d
    | none => d

/-- The reason that holds the step at the head of issue of a core in wait, as things stand now; 0 once nothing holds it. -/
def headWait (d : Dev) (n : Nat) : Nat :=
  let c := core d n
  match headOf c with
  | none => 0
  | some wv =>
    let k := checkStep d.kind n c wv.toNat
    if k.code != 0 then 0 else holdReason d n wv.toNat k

/-- WAIT and STATE of a core: the reason that holds its issue, else that of its oldest step that has not started (R64). -/
def showWait (d : Dev) (n : Nat) : Dev :=
  let c := core d n
  if c.st == .run then setCore d n { c with wait := oldestWait d n }
  else if c.st == .wait then
    let h := headWait d n
    setCore d n (if h != 0 then { c with wait := h } else { c with st := .run, wait := oldestWait d n })
  else d

/-- Frames that may stand in the receive buffers a core reads. -/
def rxCount (d : Dev) (n : Nat) : Nat :=
  (List.range 32).foldl (fun s j => s + (chan d j (coreRegion n)).rx.length) 0

/-- Turns that rows and units through the links of a core may take. -/
def linkTurns (c : Core) : Nat :=
  (c.q.map (fun q => if q.eng == .move then mLen q.word.toNat else if q.eng == .drain then cCount q.word.toNat else 0)).foldl (· + ·) 0

def pump (d : Dev) (n : Nat) : Dev :=
  let k := (core d n).q.length
  showWait (heelIn (pumpGo n ((k + 1) * (k + 1) * 2 + rxCount d n + 2 * linkTurns (core d n)) d) n) n

/-- STEP issue: the word at the head of issue meets issue when it is of the kind the command names; then everything
that may start does. -/
def issue (sel : Nat → Bool) (n : Nat) (d : Dev) : Dev :=
  match headOf (core d n) with
  | none => d
  | some wv => if sel wv.toNat then pump (runPast (issueHead d n wv) n) n else d

/-- The class and operation that an issue row names. -/
def isOp (cls op : Nat) (w : Nat) : Bool := wCls w == cls && wOp w == op

/-! ## STEP_COMPLETE (R96) -/

/-- May the engine complete the started step: its data is at its end? -/
def canComplete (d : Dev) (n : Nat) (q : QStep) : Bool :=
  let w := q.word.toNat
  q.started && q.arrived && !q.failed && !q.dataDone &&
    match q.eng with
    | .move =>
      let r := coreRegion n
      if wOp w == 7 then q.got + endMarks ((chan d r (mPeer w)).unacked ++ (chan d r (mPeer w)).waiting) ≤ (chan d r (mPeer w)).sendK
      else true
    | .sync => false
    | _ => true

def stepDone (n : Nat) (e : Engine) (d : Dev) : Dev :=
  let c := core d n
  match c.q.findIdx? (fun q => q.eng == e && canComplete d n q) with
  | none => d
  | some i =>
    match c.q[i]? with
    | none => d
    | some q =>
      if e == .move && mGV q.word.toNat then pump (qset d n i (fun q => { q with dataDone := true })) n
      else pump (qdel d n i) n

/-! ## HEEL_REQ and RESUME (R64) -/

def heelOk (d : Dev) (n : Nat) : Bool := (core d n).st != .muzzled
def coreHeel (n : Nat) (d : Dev) : Dev :=
  let c := core d n
  match c.st with
  | .muzzled => notNow d (corePg n)
  | .run | .wait => heelIn (setCore d n { c with heelReq := true }) n
  | _ => d

def coreResumeAt (n : Nat) (d : Dev) : Dev :=
  let c := core d n
  if c.st == .heel && c.heelBy then pump (runPast (setCore d n { c with st := .run, heelBy := false }) n) n
  else notNow d (corePg n)

/-! ## Token messages at cores and ports (R131 to R136) -/

def isMsg (kind turn user : Nat) (m : TokMsg) : Bool := m.kind == kind && m.turn == turn && m.user == user

/-- The messages with those that the test names marked as acted on. -/
def markSeen (hit : TokMsg → Bool) (ms : List TokMsg) : List TokMsg := ms.map (fun m => if hit m then { m with seen := true } else m)

/-- A grant reaches its core and parks there; the TAKE that waits takes it. -/
def grantArrives (r p u turn : Nat) (crc : Bool) (d : Dev) : Dev :=
  let x := port d r p
  let n := 128 * r + u
  if crc && x.place == .granting && x.turn % 2 ^ 14 == turn && x.msgs.any (isMsg 0 turn u) then
    let c := core d n
    let d := setPort d r p { x with place := .parked, stalled := false, msgs := markSeen (isMsg 0 turn u) x.msgs }
    pump (setCore d n { c with parked := mput none c.parked p (some ⟨p, turn⟩) }) n
  else d

def releaseArrives (r p u turn : Nat) (crc : Bool) (d : Dev) : Dev :=
  let x := port d r p
  if crc && x.place == .releasing && x.turn % 2 ^ 14 == turn && x.msgs.any (isMsg 1 turn u) then
    releaseAtPort (setPort d r p { x with msgs := markSeen (isMsg 1 turn u) x.msgs }) r p
  else d

/-- An acknowledge clears the oldest unacknowledged message of its PORT and TURN that its receiver has met (R133). -/
def ackArrives (r p turn : Nat) (crc : Bool) (d : Dev) : Dev :=
  let x := port d r p
  if crc then setPort d r p { x with msgs := x.msgs.eraseP (fun m => m.turn == turn && m.seen) } else d

/-- After 8 resends the token lane has failed: the core at its far end is muzzled, and the token returns (R133). -/
def resendToken (r p : Nat) (d : Dev) : Dev :=
  let x := port d r p
  match x.msgs with
  | [] => d
  | m :: rest =>
    if m.resends < 8 then
      count (setPort d r p { x with msgs := { m with resends := m.resends + 1 } :: rest }) (ordPg r) ORD.TOK_RESENDS 1
    else
      let d := setPort d r p { x with msgs := rest }
      let away := x.lead == some p && x.turn % 2 ^ 14 == m.turn
      let d := muzzleCore d (128 * r + m.user) 7
      if away && (port d r p).lead == some p && (port d r p).turn == x.turn then returnToken d r p else d

/-- The watchdog of R136. -/
def tokenStalls (r p : Nat) (d : Dev) : Dev :=
  let x := port d r p
  match portEntry p x with
  | none => d
  | some e =>
    let waits := x.place == .parked || (x.place == .joinWait && x.lead.isNone) ||
      (x.place == .atPort && (entryUser e).isSome)
    if getF d (ordPg r) ORD.ORD_WDOG_LIMIT == 0 || x.list.isNone || x.halted || x.ended || x.stalled || !waits then d
    else
      let d := count (setPort d r p { x with stalled := true }) (ordPg r) ORD.TOKEN_STALLS 1
      bark d 0x2502 (ordPg r) (regionDie r) 1 (partOf d r) none
        (leBytes 2 p ++ leBytes 2 x.ent ++ [BitVec.ofNat 8 (if oeKind e == oeFloor then 0xFF else oeUser e)])

/-! ## Leashes and acknowledges on the whistle network (R143, R144) -/

/-- A leash message at its destination: its count joins the link whose far end sent it, once, and the destination acknowledges it. Messages of
one source to one destination arrive in the order sent, and a message arrives only where its path's stations own slots. -/
def leashArrives (dst src lnk cnt seq : Nat) (crc : Bool) (d : Dev) : Dev :=
  let s := stationOf d src
  let t := stationOf d dst
  let same := fun (m : WMsg) => m.src == s && m.dst == t && m.seq == seq && m.typ == wtLeash && m.who == src &&
    m.lnk == lnk && m.cnt == cnt
  let hit := fun (m : WMsg) => same m && !m.seen && inOrder d m
  if !mayTravel d s t then d
  else if !crc then count d (whsOf t) WHS.MSG_CRC_ERR 1
  else if d.wmsgs.any (fun m => same m && m.seen) then carry d t s wtAck
  else if !d.wmsgs.any hit then d
  else
    let d := carry { d with wmsgs := d.wmsgs.map (fun m => if hit m then { m with seen := true } else m) } t s wtAck
    let c := core d dst
    match (List.range 16).find? (fun l =>
        let k := mget SyncLink.none c.sync l
        k.depth != 0 && k.farCore == src && k.farLink == lnk) with
    | none => d
    | some l =>
      let k := mget SyncLink.none c.sync l
      let d := setCore d dst { c with sync := mput SyncLink.none c.sync l { k with held := k.held + cnt } }
      let e := core d src
      let ks := mget SyncLink.none e.sync lnk
      let d := setCore d src { e with sync := mput SyncLink.none e.sync lnk { ks with inWay := ks.inWay - cnt } }
      pump d dst

/-- An acknowledge at the source of a message that has arrived: the message is done (R143). -/
def wAck (src dst seq : Nat) (crc : Bool) (d : Dev) : Dev :=
  if !mayTravel d dst src then d
  else if crc then { d with wmsgs := d.wmsgs.eraseP (fun m => m.src == src && m.dst == dst && m.seq == seq && m.seen) }
  else count d (whsOf src) WHS.MSG_CRC_ERR 1

end Sys2Proof.Machine
end

