-- ==== Sys2Proof/Machine/FloorWord.lean ====
section
/-!
DEFINITION. The words of floor commands (chapter 7): their fields, the static checks, and the runs, masks and slots they name.
-/
namespace Sys2Proof.Machine

/-! ## The command word (R191, R192) -/

def fOp (w : Nat) : Nat := bits w 127 122
def fCM (w : Nat) : Nat := bits w 121 116
def fLM (w : Nat) : Nat := bits w 115 100

/-- Lowest named operand bit of each operation; every operation names its operand bits from 95 down to it without a
gap. None for a reserved OP; 96 where it names none. -/
def fLowBit : Nat → Option Nat
  | 1 => some 11 | 2 => some 70 | 3 => some 22 | 4 => some 30 | 5 => some 30 | 6 => some 45 | 7 => some 32
  | 8 => some 90 | 9 => some 9 | 10 => some 45 | 11 => some 44 | 12 => some 96 | 13 => some 96 | 14 => some 96
  | _ => none

def runSlot (f : Nat) : Nat := bits f 31 26
def runOff (f : Nat) : Nat := bits f 25 13
def runLen (f : Nat) : Nat := bits f 12 0 + 1
def fD (w : Nat) : Nat := bits w 95 64
def fS (w : Nat) : Nat := bits w 63 32

/-- Layer positions enabled, and the bytes of a run (R191). -/
def layersOf (w : Nat) : List Nat := (List.range 16).filter (fun l => bit (fLM w) l)
def runB (w f : Nat) : Nat := (layersOf w).length * 256 * runLen f

def workBytes : Nat := 343488 * 32

def mvRL (w : Nat) : Nat := bits w 63 54 + 1
def mvVX (w : Nat) : Nat := bits w 53 35
def mvNV (w : Nat) : Nat := bits w 34 32 + 1
def mvVRow (w : Nat) : Bool := bit w 31
def mvWFmt (w : Nat) : Nat := bits w 30 27
def mvVFmt (w : Nat) : Nat := bits w 26 23
def mvWSc (w : Nat) : Bool := bit w 22
def mvVSc (w : Nat) : Bool := bit w 21
def mvAcc (w : Nat) : Nat := bits w 20 12
def mvAdd (w : Nat) : Bool := bit w 11

/-- Bytes of a weight row and of a vector rounded up to 32 (R193). -/
def mvRowBytes (w : Nat) (f : Fmt) : Nat := mvRL w * (f.rowBytes + (mvWSc w).toNat)
def mvVecBytes (w : Nat) (f : Fmt) : Nat := (mvRL w * (f.rowBytes + (mvVSc w).toNat) + 31) / 32 * 32

def floorFmt (f : Fmt) : Bool := f.bits == 8 || f.bits == 4

def stAcc (w : Nat) : Nat := bits w 63 55
def stCount (w : Nat) : Nat := bits w 54 46 + 1
def stFmt (w : Nat) : Nat := bits w 45 43
def stMode (w : Nat) : Nat := bits w 42 41
def stScl (w : Nat) : Nat := bits w 40 22
def stBytes (w : Nat) : Nat :=
  if stFmt w == 2 then 12 * stCount w
  else stCount w * (if stFmt w ≤ 1 then 4 else 1) + 4 * ((stCount w + 31) / 32)

def rdAcc (w : Nat) : Nat := bits w 95 87
def rdCount (w : Nat) : Nat := bits w 86 78 + 1
def rdCol (w : Nat) : Nat := bits w 77 70

def gIX (w : Nat) : Nat := bits w 31 13
def gRU (w : Nat) : Nat := bits w 12 9 + 1

def lowVX (w : Nat) : Nat := bits w 63 45
def fSplit (w : Nat) : Bool := bit w 44
def fEFmt (w : Nat) : Nat := bits w 31 30

def selCols (m : BitVec 136) : List Nat := (List.range 136).filter (fun b => m.getLsbD b)

def mvFmts (w : Nat) : Option (Fmt × Fmt) :=
  match Fmt.ofCode (mvWFmt w), Fmt.ofCode (mvVFmt w) with
  | some a, some b => some (a, b)
  | _, _ => none

/-- Codes 1 to 4 of Table — floor fault codes: 0 none, the lowest that holds. -/
def floorStatic (m : BitVec 136) (w : Nat) : Nat :=
  let op := fOp w
  let nsel := (selCols m).length
  let run2 (f : Nat) : Bool := runOff f + runLen f > 8192
  match fLowBit op with
  | none => 1
  | some lo =>
    let reserved := bits w 99 96 != 0 || bits w 95 0 % 2 ^ lo != 0 || (op ≥ 12 && fLM w != 0)
    let c1 := reserved || (op == 1 && (mvFmts w).isNone) ||
      (op == 3 && (stFmt w ≥ 5 || stMode w == 3 || ((stFmt w == 1 || stFmt w == 2) && stMode w != 0))) ||
      ((op == 4 || op == 5) && fEFmt w ≥ 2)
    if c1 then 1
    else
      let c2 := match op with
        | 1 =>
          run2 (fD w) || (match mvFmts w with
            | some (a, _) => runB w (fD w) % mvRowBytes w a != 0
            | none => false)
        | 3 => run2 (fD w) || runB w (fD w) < stBytes w
        | 4 | 5 | 7 => run2 (fD w) || run2 (fS w) || runB w (fD w) != runB w (fS w)
        | 9 => run2 (fD w) || run2 (fS w) || runB w (fD w) % (256 * gRU w) != 0 || runB w (fS w) % (256 * gRU w) != 0
        | 6 | 10 | 11 => run2 (fD w)
        | _ => false
      if c2 then 2
      else
        let c3 := match op with
          | 1 =>
            match mvFmts w with
            | some (a, b) =>
              let r := runB w (fD w) / mvRowBytes w a
              mvAcc w + (if mvVRow w then r else r * mvNV w) > 512 ||
                32 * mvVX w + mvNV w * mvVecBytes w b > workBytes
            | none => false
          | 2 => rdAcc w + rdCount w > 512 || rdCol w ≥ 136 || !m.getLsbD (rdCol w)
          | 3 =>
            stAcc w + stCount w > 512 || (stMode w == 1 && 32 * stScl w + 4 > workBytes) ||
              (stMode w == 2 && 32 * stScl w + 4 * stCount w > workBytes)
          | 6 => 32 * lowVX w + 32 > workBytes
          | 9 => 32 * gIX w + 4 * (runB w (fD w) / (256 * gRU w)) > workBytes
          | 10 => 32 * lowVX w + nsel * runB w (fD w) > workBytes
          | 11 => 32 * lowVX w + (if fSplit w then nsel else 1) * runB w (fD w) > workBytes
          | _ => false
        if c3 then 3
        else
          let c4 := op == 1 && (match mvFmts w with
            | some (a, b) =>
              !floorFmt a || !floorFmt b || !a.scaledOk (mvWSc w) || !b.scaledOk (mvVSc w) || (pairA32 a b).isNone
            | none => false)
          if c4 then 4 else 0

/-! ## State accessors -/

def fWord (d : Dev) (t : Nat) : Nat := (mget (0 : BitVec 128) (floor d t).seq (floor d t).cmd).toNat
def fMask (d : Dev) (t w : Nat) : BitVec 136 := mget (0 : BitVec 136) (floor d t).masks (fCM w)
def laneAcc (f : Floor) (b i : Nat) : AccElem := mget AccElem.empty f.acc (512 * b + i)
def setLane (f : Floor) (b i : Nat) (e : AccElem) : Floor := { f with acc := mput AccElem.empty f.acc (512 * b + i) e }
def slotEntry (f : Floor) (b s l : Nat) : BitVec 16 := mget noPage f.slots ((b * 64 + s) * 16 + l)

/-- Runs of a command in its table's order, with whether each is read and written. -/
def fRuns (w : Nat) : List (Nat × Bool × Bool) :=
  match fOp w with
  | 1 => [(fD w, true, false)]
  | 3 | 6 | 11 => [(fD w, false, true)]
  | 4 | 5 => [(fD w, true, true), (fS w, true, false)]
  | 7 | 9 => [(fD w, false, true), (fS w, true, false)]
  | 10 => [(fD w, true, false)]
  | _ => []

/-- The pages of a slot at the enabled layers of a column. -/
def slotPages (f : Floor) (w b s : Nat) : List (Option Nat) :=
  (layersOf w).map (fun l => let e := (slotEntry f b s l).toNat; if e ≥ 2 ^ 15 then none else some e)

end Sys2Proof.Machine
end

