-- ==== Sys2Proof/Machine/FloorTimes.lean ====
section
/-!
DEFINITION. The times of floor commands (R190, R192, R203 to R205): occupancy and tail, the blocks of their runs that commands reach, what
they read and write of work SRAM and lane accumulators, and the words of the floor's stores they read.
-/
namespace Sys2Proof.Machine

/-- Rows of an MV_ROW in each column. -/
def mvRowCount (w : Nat) (f : Fmt) : Nat := runB w (fD w) / mvRowBytes w f

def gRows (w : Nat) : Nat := runB w (fD w) / (256 * gRU w)

def units256 (n : Nat) : Nat := (n + 255) / 256

/-- Whole M-cycles of 350 ns with an A clock of `a` MHz (R200): 165 at OP0. -/
def holeCycles (a : Nat) : Nat := (350 * a + 1999) / 2000

/-- Occupancy n0 of a command, in M-cycles, with an A clock of `a` MHz (Table — floor commands). -/
def floorOcc (a w : Nat) : Nat :=
  match fOp w with
  | 1 => units256 (runB w (fD w)) * (if mvVRow w then 1 else mvNV w)
  | 2 => rdCount w + 16
  | 3 => units256 (stBytes w)
  | 4 | 5 => 3 * units256 (runB w (fD w))
  | 6 => units256 (runB w (fD w))
  | 7 => 2 * units256 (runB w (fD w))
  | 8 => 4 * (layersOf w).length
  | 9 => gRows w * max 8 (2 * gRU w)
  | 10 | 11 => units256 (runB w (fD w))
  | 12 => holeCycles a
  | _ => 1

/-- The further M-cycles to completion. -/
def floorTail (w : Nat) : Nat :=
  match fOp w with
  | 1 => 12
  | 3 | 4 | 5 | 6 | 7 | 9 | 10 | 11 => 4
  | _ => 0

/-! ## Tier, row gap and activation cap (R203, R204) -/

def tierNow (d : Dev) (t : Nat) : Nat := max (floor d t).tier (getF d (flrPg t) FLR.FLR_TIER_MIN_MIN)
def capOf (tier : Nat) : Nat := if tier == 0 then 16384 else if tier == 1 then 12864 else if tier == 2 then 10752 else 8192
def rowGap (tier : Nat) : Nat := if tier == 0 then 8 else if tier == 1 then 9 else if tier == 2 then 10 else 12
/-- k_tier in hundredths. -/
def tierFactor (tier : Nat) : Nat := if tier == 0 then 100 else if tier == 1 then 125 else if tier == 2 then 150 else 200
def capSum (f : Floor) : Nat := f.caps.foldl (· + ·) 0 + f.capNow

/-! ## Blocks reached (R204) -/

/-- 2 KiB blocks that the first `n` words of a run reach in one column, in each page from its first word on. -/
def pageBlocks (r n : Nat) : Nat := if n == 0 then 0 else (8 * runOff r + n + 63) / 64 - 8 * runOff r / 64
def firstBlocks (r n : Nat) : Nat :=
  let len := 8 * runLen r
  n / len * pageBlocks r len + pageBlocks r (n % len)

/-- Words of a run in one column. -/
def runWordCount (w r : Nat) : Nat := (layersOf w).length * (8 * runLen r)

/-- Blocks that words `a` to `a + n − 1` of a run reach: layer position and block of its page. -/
def blocksAt (r a n : Nat) : List (Nat × Nat) :=
  let len := 8 * runLen r
  ((List.range n).map (fun i => ((a + i) / len, (8 * runOff r + (a + i) % len) / 64))).eraseDups

/-- Distinct blocks of the source run that the first `n` words of a GATHER's rows reach. -/
def gatherBlocks (w : Nat) (xs : List Nat) (n : Nat) : Nat :=
  let m := 8 * gRU w
  (((List.range xs.length).zip xs).flatMap (fun (i, x) => blocksAt (fS w) (x * m) (min m (n - i * m)))).eraseDups.length

/-- Rows opened in one column whose runs were reached for so many words each (`none`: as far as the command goes). -/
def blocksOf (w : Nat) (xs : List Nat) (far : Option (List Nat)) : Nat :=
  let n (i full : Nat) : Nat := match far with
    | some l => l.getD i 0
    | none => full
  match fOp w with
  | 3 => firstBlocks (fD w) (n 0 ((stBytes w + 31) / 32))
  | 9 => firstBlocks (fD w) (n 0 (xs.length * (8 * gRU w))) + gatherBlocks w xs (n 1 (xs.length * (8 * gRU w)))
  | _ =>
    let rs := fRuns w
    ((List.range rs.length).zip rs).foldl (fun s x => s + firstBlocks x.2.1 (n x.1 (runWordCount w x.2.1))) 0

/-- Columns that open a row at the `i`-th opening of a command, from the rows each column opens: (openings, columns) in order. -/
def openingsOf (ns : List Nat) : List (Nat × Nat) :=
  let ends := (ns.eraseDups.filter (· != 0)).mergeSort (· ≤ ·)
  (ends.foldl (fun (p : Nat × List (Nat × Nat)) n => (n, p.2 ++ [(n - p.1, (ns.filter (· ≥ n)).length)])) (0, [])).2

/-! ## What commands read and write of the floor's own stores (R190) -/

/-- A stretch of work SRAM bytes, or of lane accumulators in a set of columns. -/
structure FloorUse where
  acc : Bool
  cols : BitVec 136
  lo : Nat
  len : Nat
  write : Bool
deriving DecidableEq, Repr

def floorUses (m : BitVec 136) (w : Nat) : List FloorUse :=
  let work (lo len : Nat) (wr : Bool) : FloorUse := ⟨false, BitVec.allOnes 136, lo, len, wr⟩
  let nsel := (selCols m).length
  match fOp w with
  | 1 =>
    (match mvFmts w with
     | some (a, b) =>
       let rows := mvRowCount w a
       let n := if mvVRow w then rows else rows * mvNV w
       [work (32 * mvVX w) (mvNV w * mvVecBytes w b) false, ⟨true, m, mvAcc w, n, true⟩] ++
         (if mvAdd w then [⟨true, m, mvAcc w, n, false⟩] else [])
     | none => [])
  | 2 =>
    let dst := BitVec.ofNat 136 (2 ^ rdCol w)
    [⟨true, m, rdAcc w, rdCount w, false⟩, ⟨true, dst, rdAcc w, rdCount w, true⟩]
  | 3 =>
    [⟨true, m, stAcc w, stCount w, false⟩] ++
      (if stMode w == 1 then [work (32 * stScl w) 4 false]
       else if stMode w == 2 then [work (32 * stScl w) (4 * stCount w) false] else [])
  | 6 => [work (32 * lowVX w) 32 false]
  | 9 => [work (32 * gIX w) (4 * gRows w) false]
  | 10 => [work (32 * lowVX w) (nsel * runB w (fD w)) true]
  | 11 => [work (32 * lowVX w) ((if fSplit w then nsel else 1) * runB w (fD w)) false]
  | _ => []

def usesMeet (a b : FloorUse) : Bool :=
  a.acc == b.acc && a.write != b.write && (a.cols &&& b.cols) != 0 && a.lo < b.lo + b.len && b.lo < a.lo + a.len

/-- Does a started command write what a next one reads, or read what it writes? -/
def floorDepends (m m' : BitVec 136) (w w' : Nat) : Bool :=
  (floorUses m w).any (fun a => (floorUses m' w').any (usesMeet a))

/-! ## The stores of a floor by 8-byte words (R185, R415) -/

/-- First word of the slot table, of the column masks and of work SRAM, the stores counted in the order of Table — floor share of base SRAM
(DESIGN CHOICE, log entry 105). -/
def slotWord0 : Nat := 65536
def maskWord0 : Nat := 100352
def workWord0 : Nat := 100608

/-- Words of the floor's stores that command `i`, `w` reads: its own, its mask, the slot entries of its runs, and work SRAM. -/
def floorReads (i : Nat) (m : BitVec 136) (w x : Nat) : Bool :=
  x / 2 == i ||
  (fOp w != 14 && maskWord0 + 4 * fCM w ≤ x && x < maskWord0 + 4 * fCM w + 4) ||
  ((fRuns w).map (fun r => runSlot r.1) ++ (if fOp w == 8 then [bits w 95 90] else [])).any (fun s =>
    (selCols m).any (fun b => (layersOf w).any (fun l => slotWord0 + ((b * 64 + s) * 16 + l) / 4 == x))) ||
  (floorUses m w).any (fun u => !u.acc && !u.write && workWord0 + u.lo / 8 ≤ x && x ≤ workWord0 + (u.lo + u.len - 1) / 8 && u.len != 0)

/-- Does the command read an uncorrectable word of a floor store (R201, R415)? -/
def floorSramBad (d : Dev) (t i : Nat) (m : BitVec 136) (w : Nat) : Bool :=
  d.sramBad.any (fun x => x.1 == 4 && x.2.1 == t && floorReads i m w x.2.2)

end Sys2Proof.Machine
end

