-- ==== Sys2Proof/Machine/Floor.lean ====
section
/-!
DEFINITION. The tower floor (chapter 7): the data commands, floor faults, the activation cap, and the floor sequencer and its turns.
-/
namespace Sys2Proof.Machine

/-! ## Faults (R201) -/

def floorFault (d : Dev) (t code col status : Nat) : Dev :=
  let f := floor d t
  if f.st == .fault then d
  else
    let d := setFloor d t { f with st := .fault, wait := 0, faultCol := col, faultCmd := f.cmd, faultCode := code,
                                   running := false, turnSent := false, clearWait := none }
    let d := bark d 0x2401 (flrPg t) (regionDie t) 2 (partOf d t) (if f.item.isSome then some status else none)
      (leBytes 2 code ++ leBytes 2 f.cmd ++ [BitVec.ofNat 8 col])
    match f.item with
    | some i => event (count d (flrPg t) FLR.SEQ_FAILED 1) (.fault i (unitFloor t) status)
    | none => haltRegion d t

/-- The first page check of R192 that fails over the runs and columns: column, code, status, page, check, none where
the slot has no page. -/
def pageFault (d : Dev) (t w : Nat) (cols : List Nat) : Option (Nat × Nat × Nat × Option (Nat × Nat × Nat)) :=
  let f := floor d t
  let one (b : Nat) (clear : Bool) (rd wr : Bool) (off : Nat) (p : Option Nat) :
      Option (Nat × Nat × Nat × Option (Nat × Nat × Nat)) :=
    match p with
    | none => some (b, 5, stMalformed, none)
    | some k =>
      if clear then
        if meState (entry d t k) == meAbsent then some (b, 10, stNotNow, some (k, 2, 0))
        else match checkPage d t k .engine true with
          | some (3, s) => some (b, 5, s, some (k, 3, 0))
          | _ => none
      else
        match (if rd then checkPage d t k .engine false else none), (if wr then checkPage d t k .engine true else none) with
        | some (c, s), _ => some (b, 5, s, some (k, c, off))
        | none, some (c, s) => some (b, 5, s, some (k, c, off))
        | none, none => none
  if fOp w == 8 then
    cols.findSome? (fun b => (slotPages f w b (bits w 95 90)).findSome? (one b true false true 0))
  else
    (fRuns w).findSome? (fun (r, rd, wr) =>
      cols.findSome? (fun b => (slotPages f w b (runSlot r)).findSome? (one b false rd wr (256 * runOff r))))

/-! ## Runs read and written -/

/-- The 32-byte words of a run in a column, as (page, word of the page), ascending. -/
def runWords (f : Floor) (w b r : Nat) : List (Nat × Nat) :=
  ((slotPages f w b (runSlot r)).filterMap id).flatMap (fun k =>
    (List.range (8 * runLen r)).map (fun i => (k, 8 * runOff r + i)))

/-- Words read until one is uncorrectable. -/
def readWords (t : Nat) : List (Nat × Nat) → Dev → List Byte → Dev × List Byte × Bool
  | [], d, acc => (d, acc, true)
  | (k, i) :: r, d, acc =>
    match readWord d t k i with
    | (d, some x) => readWords t r d (acc ++ x)
    | (d, none) => (barkAccess d t k 5 (devAddr t k (32 * i)) stUncorr, acc, false)

/-- A column that stopped at an uncorrectable word, with the words it reached of each run (R201). -/
abbrev Stop := Nat × List Nat

/-- Words of one run reached where a read or a write stopped: the failing word is the last. -/
def stopAt (done : Nat) : Option (List Nat) := some [done + 1]

/-- Bytes written over the words of a run from its start, `n` of which are written already; a part word at the end is merged (R165). -/
def writeWords (t : Nat) : List (Nat × Nat) → List Byte → Nat → Dev → Dev × Option (List Nat)
  | [], _, _, d => (d, none)
  | (k, i) :: r, bs, n, d =>
    if bs.isEmpty then (d, none)
    else if bs.length ≥ 32 then writeWords t r (bs.drop 32) (n + 1) (storeWord d t k i (bs.take 32))
    else
      match writePage d t k (32 * i) bs with
      | (d, true) => (d, none)
      | (d, false) => (barkAccess d t k 5 (devAddr t k (32 * i)) stUncorr, stopAt n)

/-- Each selected column in ascending order, with its rank; those that stop at an uncorrectable word are named. -/
def eachCol (act : Nat → Nat → Dev → Dev × Option (List Nat)) : List Nat → Nat → Dev → List Stop → Dev × List Stop
  | [], _, d, bad => (d, bad)
  | b :: r, q, d, bad =>
    match act b q d with
    | (d, none) => eachCol act r (q + 1) d bad
    | (d, some far) => eachCol act r (q + 1) d (bad ++ [(b, far)])

/-! ## MV_ROW (R193, R184) -/

/-- Chunk of 32 products of a weight row and a vector, elements and scale bytes as stored. -/
def floorChunk (wf vf : Fmt) (ws vs : Option Nat) (wrow vrow : Nat) : Chunk :=
  match pairA32 wf vf with
  | none => .nan false
  | some k =>
    let nan := ws == some 255 || vs == some 255
    let terms := (List.range 32).map (fun i =>
      ({ a := decodeElem vf (rowElem vf vrow i), w := decodeElem wf (rowElem wf wrow i), nanScale := nan, shift := 0 } : Term))
    chunkOf k (wf.minExp + vf.minExp) ((ws.getD 127 : Int) - 127 + ((vs.getD 127 : Int) - 127)) terms

def chunksInto (f : Floor) (b i : Nat) (cs : List Chunk) (add : Bool) (k : AccCount) : Floor × AccCount :=
  cs.foldl (fun p c =>
    let (f, k, first) := p
    let old := if first && !add then AccElem.empty else laneAcc f b i
    let new := promote old c
    (setLane f b i new, accDelta old new k, false)) (f, k, true) |> fun (f, k, _) => (f, k)

/-- Chunks of a row that `n` bytes of it hold whole, their elements and, where they are scaled, their scale bytes. -/
def wholeChunks (w : Nat) (wf : Fmt) (n : Nat) : List Nat :=
  (List.range (mvRL w)).filter (fun c => (c + 1) * wf.rowBytes ≤ n && (!mvWSc w || mvRL w * wf.rowBytes + c < n))

/-- Chunks of one row that stand before the failing word, against the vector at work SRAM byte `va`. -/
def rowChunks (work : Mem) (w : Nat) (wf vf : Fmt) (row : List Byte) (va : Nat) : List Chunk :=
  let rl := mvRL w
  (wholeChunks w wf row.length).map (fun c =>
    floorChunk wf vf (if mvWSc w then (row[rl * wf.rowBytes + c]?).map (·.toNat) else none)
      (if mvVSc w then some (byteAt work (va + rl * vf.rowBytes + c)).toNat else none)
      (leNat ((row.drop (c * wf.rowBytes)).take wf.rowBytes)) (readLe work (va + c * vf.rowBytes) vf.rowBytes))

/-- Products that `n` bytes of a column's run form. -/
def mvProducts (w : Nat) (wf : Fmt) (n : Nat) : Nat :=
  let rb := mvRowBytes w wf
  32 * (if mvVRow w then 1 else mvNV w) * (n / rb * mvRL w + (wholeChunks w wf (n % rb)).length)

/-- Rows of a column meet their vectors in order. -/
def mvRows (f : Floor) (w : Nat) (wf vf : Fmt) (b : Nat) (bs : List Byte) (k : AccCount) : Floor × AccCount :=
  let rb := mvRowBytes w wf
  let nv := mvNV w
  (List.range ((bs.length + rb - 1) / rb)).foldl (fun p n =>
    let row := (bs.drop (n * rb)).take rb
    let vs := if mvVRow w then [n % nv] else List.range nv
    vs.foldl (fun (f, k) v =>
      let a := mvAcc w + (if mvVRow w then n else n * nv + v)
      chunksInto f b a (rowChunks f.work w wf vf row (32 * mvVX w + v * mvVecBytes w vf)) (mvAdd w) k) p) (f, k)

def floorCounts (d : Dev) (t : Nat) (k : AccCount) : Dev :=
  count (count d (flrPg t) FLR.INEXACT_ACC k.inexact) (flrPg t) FLR.SPECIAL_ACC k.special

/-- Products formed, with the weights' width in bits. -/
def countProducts (d : Dev) (t wbits n : Nat) : Dev :=
  let d := count d (flrPg t) (if wbits == 8 then FLR.MAC_8 else FLR.MAC_4) n
  act d (unitFloor t) (if wbits == 8 then 11 else 12) n

def doMv (t w : Nat) (cols : List Nat) (d : Dev) : Dev × List Stop :=
  match mvFmts w with
  | none => (d, [])
  | some (wf, vf) =>
    eachCol (fun b _ d =>
      match readWords t (runWords (floor d t) w b (fD w)) d [] with
      | (d, bs, ok) =>
        let (f, k) := mvRows (floor d t) w wf vf b bs ⟨0, 0⟩
        (countProducts (floorCounts (setFloor d t f) t k) t wf.bits (mvProducts w wf bs.length),
          if ok then none else stopAt (bs.length / 32))) cols 0 d []

/-! ## The other data commands -/

/-- REDUCE (R196): each source merges into column DCOL as a record does. -/
def doReduce (t w : Nat) (cols : List Nat) (d : Dev) : Dev :=
  let dc := rdCol w
  let (f, k) := (cols.filter (· != dc)).foldl (fun p b => (List.range (rdCount w)).foldl (fun (f, k) i =>
    let old := laneAcc f dc (rdAcc w + i)
    let new := mergeRecord old (laneAcc f b (rdAcc w + i))
    (setLane f dc (rdAcc w + i) new, accDelta old new k)) p) (floor d t, (⟨0, 0⟩ : AccCount))
  floorCounts (setFloor d t f) t k

/-- The binary32 scale of accumulator `i` (R194). -/
def stScale (f : Floor) (w i : Nat) : BitVec 32 :=
  if stMode w == 0 then fOne
  else BitVec.ofNat 32 (readLe f.work (32 * stScl w + (if stMode w == 2 then 4 * i else 0)) 4)

def stValue (f : Floor) (w b i : Nat) : List Byte :=
  let e := laneAcc f b (stAcc w + i)
  let v := if stMode w == 0 then drainF32 e else fMul (drainF32 e) (stScale f w i)
  match stFmt w with
  | 0 => leBytes 4 v.toNat
  | 1 => leBytes 4 (drainI32 e).1.toNat
  | 2 => leBytes 12 (accRecord e)
  | 3 => leBytes 1 (cvtToElem .int8 v)
  | _ => leBytes 1 (cvtToElem .e4m3 v)

/-- Bytes ST_ACC writes in a column. -/
def stData (f : Floor) (w b : Nat) : List Byte :=
  if stFmt w == 2 then (List.range (stCount w)).flatMap (stValue f w b)
  else
    (pieces 32 (List.range (stCount w))).flatMap (fun g =>
      g.flatMap (stValue f w b) ++
        leBytes 4 (((List.range g.length).zip g).foldl (fun n (j, i) => if (laneAcc f b (stAcc w + i)).x then n + 2 ^ j else n) 0))

def doStAcc (t w : Nat) (cols : List Nat) (d : Dev) : Dev × List Stop :=
  eachCol (fun b _ d => writeWords t (runWords (floor d t) w b (fD w)) (stData (floor d t) w b) 0 d) cols 0 d []

/-- One 32-bit element of EW_ADD and EW_MUL (R197). -/
def ewElem (mul : Bool) (efmt : Nat) (a b : BitVec 32) : BitVec 32 :=
  if efmt == 0 then (if mul then fMul a b else fAdd a b)
  else
    let v := if mul then a.toInt * b.toInt else a.toInt + b.toInt
    BitVec.ofInt 32 (max (-2147483648) (min 2147483647 v))

def ewBytes (mul : Bool) (efmt : Nat) (a b : List Byte) : List Byte :=
  (List.range 8).flatMap (fun i =>
    leBytes 4 (ewElem mul efmt (BitVec.ofNat 32 (leNat ((a.drop (4 * i)).take 4)))
      (BitVec.ofNat 32 (leNat ((b.drop (4 * i)).take 4)))).toNat)

/-- Words of D and S in step, `n` of which are done: D read, S read, D written, until a word is uncorrectable. -/
def ewWords (t : Nat) (mul : Bool) (efmt : Nat) : List ((Nat × Nat) × (Nat × Nat)) → Nat → Dev → Dev × Option (List Nat)
  | [], _, d => (d, none)
  | ((k, i), (k', i')) :: r, n, d =>
    match readWords t [(k, i)] d [] with
    | (d, _, false) => (d, some [n + 1, n])
    | (d, a, true) =>
      match readWords t [(k', i')] d [] with
      | (d, _, false) => (d, some [n + 1, n + 1])
      | (d, b, true) => ewWords t mul efmt r (n + 1) (storeWord d t k i (ewBytes mul efmt a b))

def doEw (t w : Nat) (cols : List Nat) (d : Dev) : Dev × List Stop :=
  eachCol (fun b _ d =>
    ewWords t (fOp w == 5) (fEFmt w) ((runWords (floor d t) w b (fD w)).zip (runWords (floor d t) w b (fS w))) 0 d) cols 0 d []

def doFill (t w : Nat) (cols : List Nat) (d : Dev) : Dev × List Stop :=
  eachCol (fun b _ d =>
    let pat := readBytes (floor d t).work (32 * lowVX w) 32
    ((runWords (floor d t) w b (fD w)).foldl (fun d (k, i) => storeWord d t k i pat) d, none)) cols 0 d []

/-- Words copied in ascending order, `n` of which are done. -/
def copyRun (t : Nat) : List ((Nat × Nat) × (Nat × Nat)) → Nat → Dev → Dev × Option (List Nat)
  | [], _, d => (d, none)
  | ((k, i), (k', i')) :: r, n, d =>
    match readWords t [(k', i')] d [] with
    | (d, _, false) => (d, some [n, n + 1])
    | (d, a, true) => copyRun t r (n + 1) (storeWord d t k i a)

def doCopy (t w : Nat) (cols : List Nat) (d : Dev) : Dev × List Stop :=
  eachCol (fun b _ d =>
    copyRun t ((runWords (floor d t) w b (fD w)).zip (runWords (floor d t) w b (fS w))) 0 d) cols 0 d []

/-- Indices of GATHER up to the first at or above the row count, and whether one was (R199). -/
def gatherList (f : Floor) (w : Nat) : List Nat × Bool :=
  let rows := gRows w
  let lim := runB w (fS w) / (256 * gRU w)
  let xs := (List.range rows).map (fun r => readLe f.work (32 * gIX w + 4 * r) 4)
  let good := xs.takeWhile (· < lim)
  (good, good.length < rows)

def doGather (t w : Nat) (cols : List Nat) (d : Dev) : Dev × List Stop :=
  let n := 8 * gRU w
  let (good, _) := gatherList (floor d t) w
  eachCol (fun b _ d =>
    let dw := runWords (floor d t) w b (fD w)
    let sw := runWords (floor d t) w b (fS w)
    copyRun t (((List.range good.length).zip good).flatMap (fun (r, x) =>
      ((dw.drop (r * n)).take n).zip ((sw.drop (x * n)).take n))) 0 d) cols 0 d []

/-- Bytes written to work SRAM; an uncorrectable word of it that is written whole is good again (R415). -/
def setWork (d : Dev) (t a : Nat) (bs : List Byte) : Dev :=
  let d := setFloor d t { floor d t with work := writeBytes (floor d t).work a bs }
  { d with sramBad := d.sramBad.filter (fun x =>
      !(x.1 == 4 && x.2.1 == t && workWord0 ≤ x.2.2 && a ≤ 8 * (x.2.2 - workWord0) && 8 * (x.2.2 - workWord0) + 8 ≤ a + bs.length)) }

def doVload (t w : Nat) (cols : List Nat) (d : Dev) : Dev × List Stop :=
  eachCol (fun b q d =>
    match readWords t (runWords (floor d t) w b (fD w)) d [] with
    | (d, bs, ok) =>
      (setWork d t (32 * lowVX w + q * runB w (fD w)) bs, if ok then none else stopAt (bs.length / 32))) cols 0 d []

def doVstore (t w : Nat) (cols : List Nat) (d : Dev) : Dev × List Stop :=
  eachCol (fun b q d =>
    let n := runB w (fD w)
    writeWords t (runWords (floor d t) w b (fD w))
      (readBytes (floor d t).work (32 * lowVX w + (if fSplit w then q * n else 0)) n) 0 d) cols 0 d []

/-- The pages a floor CLEAR clears, in order (R198). -/
def clearList (f : Floor) (w : Nat) (cols : List Nat) : List Nat :=
  cols.flatMap (fun b => (slotPages f w b (bits w 95 90)).filterMap id)

/-- Clears from position `i` of the list; one that must wait for a sweep holds the sequence there (R169). -/
def doClears (t : Nat) : List Nat → Nat → Dev → Dev × Option Nat
  | [], _, d => (d, none)
  | k :: r, i, d =>
    match clearPage d t k with
    | (d, .wait) => (d, some i)
    | (d, _) => doClears t r (i + 1) d

/-! ## Rows opened (R204) -/

/-- Rows of `n` columns open in one M-cycle: the row gap of the tier begins, the next opening is due a block later. -/
def openOnce (t n : Nat) (d : Dev) : Dev :=
  let f := floor d t
  let d := setFloor d t { f with
    capNow := f.capNow + n,
    time := { f.time with gapLeft := 200 * rowGap (tierNow d t), due := f.time.due + 200 * f.time.per } }
  act (act (count d (flrPg t) FLR.ACTIVATIONS n) (unitFloor t) 15 n) (unitFloor t) 16 n

/-- The list with its first opening taken. -/
def lessOne : List (Nat × Nat) → List (Nat × Nat)
  | [] => []
  | (n, k) :: r => if n ≤ 1 then r else (n - 1, k) :: r

/-- Is there room under the activation cap for `n` more rows? -/
def capRoom (d : Dev) (t n : Nat) : Bool := capSum (floor d t) + n ≤ capOf (tierNow d t)

/-- The first opening to come takes place. -/
def openNext (t : Nat) (d : Dev) : Dev :=
  let f := floor d t
  match f.time.opens with
  | [] => d
  | (_, k) :: _ => openOnce t k (setFloor d t { f with time := { f.time with opens := lessOne f.time.opens } })

/-- Every opening to come takes place, as far as the cap leaves room in the window; the others wait for later sub-windows. -/
def openRest (t : Nat) : Nat → Dev → Dev
  | 0, d => d
  | n + 1, d =>
    match (floor d t).time.opens with
    | [] => d
    | (_, k) :: _ => if capRoom d t k then openRest t n (openNext t d) else d

/-- Openings of a command whose data has moved, from what each column reached; the first takes place with the start. -/
def floorRows (t w : Nat) (cols : List Nat) (bad : List Stop) (d : Dev) : Dev :=
  let xs := if fOp w == 9 then (gatherList (floor d t) w).1 else []
  let ns := cols.map (fun b => blocksOf w xs (bad.lookup b))
  let opens := openingsOf ns
  let total := opens.foldl (fun s x => s + x.1) 0
  let f := floor d t
  let d := setFloor d t { f with time := { f.time with
    opens := opens, per := if total == 0 then 0 else floorOcc (Config.aclk (quad d (regionDie t)).run) w / total, due := 0 } }
  openNext t d

/-! ## The sequencer (R187, R188, R190) -/

/-- A command's data, and the columns that stop at an uncorrectable word. -/
def floorData (t w : Nat) (cols : List Nat) (d : Dev) : Dev × List Stop :=
  match fOp w with
  | 1 => doMv t w cols d
  | 2 => (doReduce t w cols d, [])
  | 3 => doStAcc t w cols d
  | 4 | 5 => doEw t w cols d
  | 6 => doFill t w cols d
  | 7 => doCopy t w cols d
  | 9 => doGather t w cols d
  | 10 => doVload t w cols d
  | 11 => doVstore t w cols d
  | 12 =>
    let d := count d (flrPg t) FLR.HOLES 1
    (cols.foldl (fun d b => if (column d t b).debt ≥ -1 then refreshOp d t b TWR.REFRESH_HOLE else d) d, [])
  | _ => (d, [])

/-- 256-byte words on the bank buses of a command's columns (R384). -/
def busWords (w : Nat) : Nat :=
  match fOp w with
  | 3 => units256 (stBytes w)
  | 4 | 5 => 3 * units256 (runB w (fD w))
  | 8 => 0
  | _ => (fRuns w).foldl (fun s x => s + units256 (runB w x.1)) 0

/-- 32-byte accesses of a command to work SRAM (R384): a vector of MV_ROW is read for each row it meets. -/
def workWords (m : BitVec 136) (w : Nat) : Nat :=
  if fOp w == 1 then
    match mvFmts w with
    | some (a, b) => mvRowCount w a * (if mvVRow w then 1 else mvNV w) * (mvVecBytes w b / 32)
    | none => 0
  else (floorUses m w).foldl (fun s u => if u.acc then s else s + (u.len + 31) / 32) 0

/-- A command takes effect: its data, the rows it opens, and the faults found while running. -/
def floorEffect (t w : Nat) (cols : List Nat) (d : Dev) : Dev :=
  if fOp w == 8 then
    match doClears t (clearList (floor d t) w cols) 0 d with
    | (d, none) => d
    | (d, some i) =>
      count (setFloor d t { floor d t with clearWait := some i, wait := 7, st := .wait }) (twrPg t) TWR.CLEAR_WAITS 1
  else
    let overrun := fOp w == 9 && (gatherList (floor d t) w).2
    let (d, bad) := floorData t w cols d
    let d := floorRows t w cols bad d
    match bad with
    | (b, _) :: _ => floorFault d t 8 b stUncorr
    | [] => if overrun then floorFault d t 7 255 stMalformed else d

/-- Release every token the sequencer holds (R188). -/
def floorRelease (t : Nat) (d : Dev) : Dev :=
  let leads := ((floor d t).held.filterMap (fun (_, o) => o.map (·.port))).eraseDups
  let d := setFloor d t { floor d t with held := [] }
  leads.foldl (fun d l => releaseAtPort d t l) d

/-- The sequencer may take the command at its head: running, every earlier command past its last bank-bus access, not stopping for heel. -/
def floorReady (f : Floor) : Bool := (f.st == .run || f.st == .wait) && !f.running && !f.heelReq

/-- The first column whose access the conflict detector refuses. -/
def heldFault (d : Dev) (t : Nat) (cols : List Nat) : Option (Nat × Nat) :=
  cols.findSome? (fun b => (refusal d t b floorUser (mget none (floor d t).held b) false).map (fun c => (b, c)))

/-- What the command at the head waits for, as WAIT shows it, before it may start: 2 an earlier command it depends on, 3 the spacing, 5 the
row gap; 0 nothing (R190, R204, R207). HOLE, TURN and END wait for every earlier command. -/
def floorHolds (f : Floor) (m : BitVec 136) (w : Nat) : Nat :=
  let x := f.time
  let bus := fRuns w != []
  if fOp w ≥ 12 && x.tails != [] then 2
  else if x.tails.any (fun e => floorDepends e.2.1 m e.1.toNat w) then 2
  else if bus && x.spaceLeft != 0 then 3
  else if bus && (x.gapLeft != 0 || x.opens != []) then 5
  else 0

/-- Reference cycles of a pause for refresh: 350 ns (R170, R171). -/
def pauseTicks : Nat := 35

/-- A refresh stretch at a step boundary: every column of a command that owes 4 operations or more performs one, and all of them pause
(R171, R205). One at 8 is forced. -/
def stretchCols (t : Nat) (cols : List Nat) (d : Dev) : Dev :=
  let due := cols.filter (fun b => (column d t b).debt ≥ 4)
  if due.isEmpty then d
  else
    let d := due.foldl (fun d b =>
      let forced := (column d t b).debt ≥ 8
      let d := refreshOp d t b TWR.STRETCHES
      if forced then count d (twrPg t) TWR.STRETCH_FORCED 1 else d) d
    let f := floor d t
    setFloor d t { f with st := .wait, wait := 6, time := { f.time with pause := pauseTicks } }

/-- What every data command counts as it starts, and its times (R190, R203, R204, R384). -/
def floorBegin (t w : Nat) (m : BitVec 136) (cols : List Nat) (d : Dev) : Dev :=
  let d := count d (flrPg t) FLR.CMDS 1
  let f := floor d t
  let occ := floorOcc (Config.aclk (quad d (regionDie t)).run) w
  let space := if fRuns w == [] then f.time.spaceLeft else 200 * ((tierFactor (tierNow d t) * occ + 99) / 100)
  let d := setFloor d t { f with running := true, st := .run, wait := 0,
                                 time := { f.time with age := 0, spaceLeft := space, steps := 0 } }
  let d := act (act d (unitFloor t) 13 (cols.length * busWords w)) (unitFloor t) 14 (workWords m w)
  stretchCols t cols d

/-- Start the command at the head of the sequence when it is of the kind the row names (R190, R201). -/
def floorStart (op : Nat) (t : Nat) (d : Dev) : Dev :=
  let f := floor d t
  if !floorReady f || (tower d t).hold then d
  else if f.cmd ≥ f.loaded then
    floorFault d t 9 255 stMalformed
  else
    let w := fWord d t
    if fOp w != op then d
    else
      let m := fMask d t w
      let cols := selCols m
      let st := floorStatic m w
      let hold := floorHolds f m w
      if st != 0 then floorFault d t st 255 stMalformed
      else if hold != 0 then setFloor d t { f with st := .wait, wait := hold }
      else if op ≥ 13 && floorSramBad d t f.cmd m w then floorFault d t 8 255 stUncorr
      else if op == 14 then
        let d := count (floorRelease t d) (flrPg t) FLR.CMDS 1
        let d := count d (flrPg t) FLR.SEQ_DONE 1
        let d := setFloor d t { floor d t with st := .heel, wait := 0, item := none }
        match f.item with
        | some i => event d (.done i (unitFloor t))
        | none => d
      else if op == 13 then
        let d := count d (flrPg t) FLR.CMDS 1
        let d := floorRelease t d
        setFloor d t { floor d t with running := true, turnSent := true, st := .wait, wait := 1 }
      else
        match heldFault d t cols with
        | some (b, c) =>
          let st := if f.item.isSome then some stSchedule else none
          floorFault (refuse d t b c floorUser f.cmd st) t 6 b stSchedule
        | none =>
          match pageFault d t w cols with
          | some (b, code, s, chk) =>
            let d := match chk with
              | some (k, c, o) => barkAccess d t k c (devAddr t k o) s
              | none => d
            floorFault d t code b s
          | none =>
            if floorSramBad d t f.cmd m w then floorFault (count d (flrPg t) FLR.CMDS 1) t 8 255 stUncorr
            else if fRuns w != [] && !capRoom d t cols.length then setFloor d t { f with st := .wait, wait := 4 }
            else floorEffect t w cols (floorBegin t w m cols d)

/-- A reserved or all-zero word stops the sequence at its start with code 1, whichever row runs it. -/
def floorReserved (t : Nat) (d : Dev) : Dev :=
  let f := floor d t
  if floorReady f && f.cmd < f.loaded && (fLowBit (fOp (fWord d t))).isNone then floorFault d t 1 255 stMalformed else d

/-- A sequencer asked to heel is in heel once every started command is complete (R207); one whose item has ended is not to be resumed. -/
def floorHeelIn (t : Nat) (d : Dev) : Dev :=
  let f := floor d t
  if f.heelReq && !f.running && f.time.tails.isEmpty && (f.st == .run || f.st == .wait) then
    setFloor d t { f with st := .heel, heelBy := f.item.isSome, heelReq := false, wait := 0 }
  else d

/-- The next command comes to the head; `time` is what the earlier ones leave. One that is reserved, or past the last one
loaded, stops the sequence there. -/
def floorNext (t : Nat) (time : FloorTime) (d : Dev) : Dev :=
  let f := floor d t
  let d := setFloor d t { f with running := false, turnSent := false, clearWait := none, cmd := f.cmd + 1, st := .run,
                                 wait := 0, time := time }
  let d := floorHeelIn t d
  if floorReady (floor d t) && (floor d t).cmd ≥ (floor d t).loaded then floorFault d t 9 255 stMalformed
  else floorReserved t d

/-- A started command makes its last bank-bus access and ends its tail, with those before it, in all the time that takes; one whose rows
the activation cap still holds back does not. A TURN ends once every column of its mask has its next token; a waiting CLEAR goes on. With no command at
the head started, the oldest whose tail runs ends it (R190, R204). -/
def floorDone (t : Nat) (d : Dev) : Dev :=
  let f := floor d t
  if f.st == .fault then d
  else if !f.running then
    if f.time.tails.isEmpty then d
    else floorHeelIn t (setFloor d t { f with time := { f.time with tails := f.time.tails.drop 1, gapLeft := 0, spaceLeft := 0 } })
  else
    let w := fWord d t
    if f.turnSent then
      if (selCols (fMask d t w)).all (fun b => (mget none f.held b).isSome) then
        floorNext t FloorTime.init (count d (flrPg t) FLR.TURNS 1)
      else d
    else
      match f.clearWait with
      | none =>
        let d := openRest t (f.time.opens.foldl (fun s x => s + x.1) 0) d
        if (floor d t).time.opens.isEmpty then floorNext t FloorTime.init d
        else setFloor d t { floor d t with st := .wait, wait := 4 }
      | some i =>
        let l := clearList f w (selCols (fMask d t w))
        match doClears t (l.drop i) i d with
        | (d, none) => floorNext t FloorTime.init d
        | (d, some j) =>
          let d := setFloor d t { floor d t with clearWait := some j }
          if j == i then d else count d (twrPg t) TWR.CLEAR_WAITS 1

/-- Is the column one that a running floor command selects (R171)? -/
def floorSelects (d : Dev) (t b : Nat) : Bool :=
  let f := floor d t
  (f.st == .run || f.st == .wait) && f.running && !f.turnSent && (fMask d t (fWord d t)).getLsbD b

/-- A stretch in a running command, at the first of its 512-cycle boundaries that none has been taken at (R205). -/
def floorBoundary (t : Nat) (d : Dev) : Dev :=
  let f := floor d t
  let n := f.time.age / (200 * 512)
  if n ≤ f.time.steps then d
  else stretchCols t (selCols (fMask d t (fWord d t))) (setFloor d t { f with time := { f.time with steps := n } })

/-- A running command shows what its next M-cycle waits for, 0 for nothing; a TURN and a waiting CLEAR keep their own. A command that
waits to start shows what it still waits for. -/
def floorShows (t c : Nat) (d : Dev) : Dev :=
  let f := floor d t
  let c := if f.running then c else floorHolds f (fMask d t (fWord d t)) (fWord d t)
  if (f.st == .run || f.st == .wait) && (if f.running then !f.turnSent && f.clearWait.isNone else 2 ≤ f.wait && f.wait != 4) then
    setFloor d t { f with st := if c == 0 then .run else .wait, wait := c }
  else d

/-- Has the command at the head made its last bank-bus access? REDUCE makes none. -/
def lastAccess (a : Nat) (d : Dev) (t : Nat) : Bool :=
  let f := floor d t
  f.running && (f.st == .run || f.st == .wait) && !f.turnSent && f.clearWait.isNone && f.time.opens.isEmpty &&
    (fOp (fWord d t) == 2 || 200 * floorOcc a (fWord d t) ≤ f.time.age)

/-- The command at the head leaves it with its last bank-bus access, and its tail runs on (R190). -/
def floorLeaves (a t : Nat) (d : Dev) : Dev :=
  let f := floor d t
  let w := fWord d t
  let left := 200 * (floorTail w + if fOp w == 2 then floorOcc a w else 0)
  floorNext t { f.time with tails := f.time.tails ++ (if left == 0 then [] else [((BitVec.ofNat 128 w), fMask d t w, left)]) } d

/-- Tails run down by `a`; one that has ended leaves. -/
def tailsRun (a : Nat) (x : FloorTime) : FloorTime :=
  { x with tails := x.tails.filterMap (fun e => if e.2.2 ≤ a then none else some (e.1, e.2.1, e.2.2 - a)) }

/-- One reference cycle of a floor with an A clock of `a0` MHz, of which `a` hundredths of an A-cycle pass on the gated clock (R385: a removed
pulse pauses every selected column): the row gap, the spacing and the tails run down; a pause runs down before all
else; then the opening that is due takes place, unless the row gap (WAIT 5) or the activation cap (WAIT 4) holds every column back,
and the command goes on (R190, R204, R205; log entries 3 and 106). -/
def floorTick (a0 a t : Nat) (d : Dev) : Dev :=
  let f := floor d t
  let x := tailsRun a { f.time with gapLeft := f.time.gapLeft - a, spaceLeft := f.time.spaceLeft - a }
  let d := setFloor d t { f with time := { x with pause := x.pause - 1 } }
  if x.pause > 1 then d
  else
    match x.opens with
    | (_, k) :: _ =>
      if x.age < x.due then floorShows t 0 (setFloor d t { floor d t with time := { (floor d t).time with age := x.age + a } })
      else if x.gapLeft != 0 then floorShows t 5 d
      else if !capRoom d t k then floorShows t 4 d
      else
        let d := openNext t d
        floorShows t 0 (setFloor d t { floor d t with time := { (floor d t).time with age := x.age + a } })
    | [] =>
      let d := setFloor d t { floor d t with time := { (floor d t).time with age := if f.running then x.age + a else x.age } }
      let d := floorShows t 0 d
      floorHeelIn t (if lastAccess a0 d t then floorLeaves a0 t d else d)

/-- A floor sequencer begins a sequence (R187, R240). -/
def startFloor (d : Dev) (t entry item : Nat) : Dev :=
  let f := floor d t
  let d := count d (flrPg t) FLR.SEQ_STARTED 1
  let d := setFloor d t { f with st := .run, wait := 0, cmd := entry, entry := entry, heelReq := false, heelBy := false,
                                 running := false, turnSent := false, clearWait := none, time := FloorTime.init, item := some item }
  if entry ≥ f.loaded then floorFault d t 9 255 stMalformed else floorReserved t d

def floorHeel (t : Nat) (d : Dev) : Dev :=
  let f := floor d t
  match f.st with
  | .fault => notNow d (flrPg t)
  | .heel => d
  | _ => floorHeelIn t (setFloor d t { f with heelReq := true })

def floorResume (t : Nat) (d : Dev) : Dev :=
  let f := floor d t
  if f.st == .heel && f.heelBy then
    floorReserved t (setFloor d t { f with st := .run, heelBy := false, wait := 0 })
  else notNow d (flrPg t)

/-- A 125 ns sub-window ends (R204). -/
def subwindow (t : Nat) (d : Dev) : Dev :=
  let f := floor d t
  setFloor d t { f with caps := (f.capNow :: f.caps).take 15, capNow := 0 }

/-- The tier at an evaluation of governing temperature `g`, in 1/16 °C (R203). -/
def tierStep (cur : Nat) (g : Int) : Nat :=
  let enter := if g > 1520 then 3 else if g > 1440 then 2 else if g > 1360 then 1 else 0
  let leave : Int := if cur == 1 then 1328 else if cur == 2 then 1408 else 1488
  if enter > cur then enter else if cur > 0 && g < leave then cur - 1 else cur

end Sys2Proof.Machine
end

