-- ==== Sys2Proof/Machine/Access.lean ====
section
/-!
DEFINITION. Accesses that reach a shared port from outside a modelled step: of a core or of the floor sequencer, alone or two in one
cycle (R137, R138).
-/
namespace Sys2Proof.Machine

/-- The unit that presents an access stops: a core in fault state with CODE 0, or the floor sequence with code 6 (R138, R188). -/
def stopUser (d : Dev) (r p user step : Nat) : Dev :=
  if user < 128 then coreFault d (128 * r + user) step 0 stSchedule
  else floorFault d r 6 (if p < 136 then p else 255) stSchedule

/-- Does the item that a refused access serves exist? Its bark then carries the status (R138). -/
def accessItem (d : Dev) (r user : Nat) : Bool :=
  if user < 128 then (core d (128 * r + user)).item.isSome else (floor d r).item.isSome

/-- An access presented at a port by a unit outside its modelled steps: checked, counted, refused or passed. On a vertical channel a unit
that belongs to no running vertical step is refused; the rule names no condition for it, so the condition recorded is a free value. -/
def accessOne (d : Dev) (r p : Nat) (user step : Nat) (tok : Option Token) (clash : Bool) : Dev :=
  let n := 128 * r + user
  let stray := p ≥ 236 && (user ≥ 128 || vertPort d n != p || !((core d n).q.any (fun q =>
    q.eng == .move && q.started && !q.dataDone && !onCrossbar (wOp q.word.toNat))))
  let cond := match refusal d r p user tok clash with
    | some c => some c
    | none => if stray then some (Config.freeCond d.freeN).toNat else none
  let d := if stray then { d with freeN := d.freeN + 1 } else d
  match cond with
  | none => passUnit d r p
  | some c => stopUser (refuse d r p c user step (if accessItem d r user then some stSchedule else none)) r p user step

/-- A unit at a port: its user, the step or command it belongs to, its token, and its direction. -/
structure PortUnit where
  user : Nat
  step : Nat
  tok : Option Token
  write : Bool
deriving DecidableEq, Repr

/-- One access, or two in one cycle: those in one direction are both refused under condition 6, the one with the lower user first, a core before
the floor sequencer. Both meet the port as it stood before either was refused. -/
def portAccesses (r p : Nat) (a : PortUnit) (b : Option PortUnit) (d : Dev) : Dev :=
  match b with
  | none => accessOne d r p a.user a.step a.tok false
  | some b =>
    let (x, y) := if a.user ≤ b.user then (a, b) else (b, a)
    let clash := a.write == b.write
    let halted := (port d r p).halted
    let d := accessOne d r p x.user x.step x.tok clash
    let was := (port d r p).halted
    let d := accessOne (setPort d r p { port d r p with halted := halted }) r p y.user y.step y.tok clash
    setPort d r p { port d r p with halted := was || (port d r p).halted }

end Sys2Proof.Machine
end

