-- ==== Sys2Proof/Machine/Coding.lean ====
section
/-!
DEFINITION. What a Narta port puts on its lanes: the bytes of a flit and its link CRC (R267), the blocks, scrambler, codewords and alignment
blocks that carry flits (R265), and the training records (R271).
-/
namespace Sys2Proof.Machine

/-! ## Flits (R267) -/

/-- The bytes that a flit's CRC covers. -/
def flitBytes (kind : Nat) (f : Flit) : List Byte :=
  leBytes 8 (kind * 2 ^ 60 + f.seq.toNat * 2 ^ 48 + f.ack.toNat * 2 ^ 36 + f.nak.toNat * 2 ^ 35 + f.first.toNat * 2 ^ 31 +
    f.pcr.toNat * 2 ^ 16 + f.ncr.toNat * 2 ^ 8 + f.ccr.toNat) ++ (f.slots ++ zeros 240).take 240

/-- A flit with its link CRC. -/
def sealFlit (kind : Nat) (f : Flit) : Flit := { f with crc := BitVec.ofNat 64 (crc64 (flitBytes kind f)) }

/-! ## Blocks and scrambler (R265) -/

/-- The eight blocks of a flit: bit 0 marks the first, bits 256:1 carry 32 bytes. -/
def flitBlocks (bs : List Byte) : List Nat :=
  ((List.range 8).zip (pieces 32 bs)).map (fun x => 2 * leNat x.2 + (x.1 == 0).toNat)

/-- `n` bits through the scrambler 1 + x^39 + x^58, lowest first: the bits sent, and the last 58 of them, the newest in bit 0. -/
def scrambleBits : Nat → Nat → BitVec 58 → Nat × BitVec 58
  | 0, _, s => (0, s)
  | n + 1, w, s =>
    let b := xor (w.testBit 0) (xor (s.getLsbD 38) (s.getLsbD 57))
    let r := scrambleBits n (w / 2) (s.shiftConcat b)
    (2 * r.1 + b.toNat, r.2)

/-- The receiver's inverse: every bit with the 39th and 58th before it. -/
def unscrambleBits : Nat → Nat → BitVec 58 → Nat × BitVec 58
  | 0, _, s => (0, s)
  | n + 1, w, s =>
    let b := xor (w.testBit 0) (xor (s.getLsbD 38) (s.getLsbD 57))
    let r := unscrambleBits n (w / 2) (s.shiftConcat (w.testBit 0))
    (2 * r.1 + b.toNat, r.2)

/-- A block with bits 256:1 scrambled. -/
def scrambleBlock (b : Nat) (s : BitVec 58) : Nat × BitVec 58 :=
  let r := scrambleBits 256 (b / 2) s
  (2 * r.1 + b % 2, r.2)

/-! ## The code of clause 119 (R265; field, generator and symbol order are that clause's, log entry 113) -/

/-- Product in GF(2^10) with field polynomial x^10 + x^3 + 1. -/
def gf10Go : Nat → Nat → Nat → Nat → Nat
  | 0, _, _, acc => acc
  | n + 1, a, b, acc => gf10Go n (if a ≥ 512 then Nat.xor (2 * a) 0x409 else 2 * a) (b / 2) (if b % 2 == 1 then Nat.xor acc a else acc)
def gf10Mul (a b : Nat) : Nat := gf10Go 10 a b 0

/-- Coefficients of the product of (x + α^j), j below `n`, from x^(n−1) down to 1. -/
def rsGen : Nat → List Nat
  | 0 => []
  | n + 1 =>
    let a := (List.range n).foldl (fun a _ => gf10Mul a 2) 1
    let g := 1 :: rsGen n
    List.zipWith (fun x y => Nat.xor x (gf10Mul a y)) (g.drop 1 ++ [0]) g

/-- One message symbol through the divider of 30 check symbols. -/
def rsDivide (gen : List Nat) (r : List Nat) (m : Nat) : List Nat :=
  let f := Nat.xor (r.headD 0) m
  List.zipWith (fun x y => Nat.xor x (gf10Mul f y)) (r.drop 1 ++ [0]) gen

/-- The codeword of 514 message symbols. -/
def rsWord (msg : List Nat) : List (BitVec 10) :=
  (msg ++ msg.foldl (rsDivide (rsGen 30)) (List.replicate 30 0)).map (BitVec.ofNat 10)

/-- The message symbols of 20 blocks: 5,140 bits in 10-bit symbols. -/
def blockSymbols (bs : List (BitVec 257)) : List Nat :=
  let w := bs.foldr (fun b n => b.toNat + 2 ^ 257 * n) 0
  (List.range 514).map (fun i => w / 2 ^ (10 * i) % 1024)

/-- Logical lane of symbol `i` of a codeword at a width of `l` lanes. -/
def symbolLane (l i : Nat) : Nat := i % l

/-- The symbols of a codeword that lane `k` carries. -/
def laneSymbols (l k : Nat) (cw : List (BitVec 10)) : List (BitVec 10) :=
  ((List.range cw.length).zip cw).filterMap (fun x => if symbolLane l x.1 == k then some x.2 else none)

/-- The alignment block: every symbol is its lane's number. -/
def alignBlock (l : Nat) : List (BitVec 10) := (List.range 544).map (fun i => BitVec.ofNat 10 (symbolLane l i))

/-- Codewords from one alignment block to the next. -/
def alignEvery : Nat := 4095

/-- Twenty blocks leave as a codeword, and after 4,095 codewords an alignment block follows. -/
def sendWord (l : Nat) (c : TxCode) : TxCode :=
  if c.blocks.length < 20 then c
  else
    let cw := rsWord (blockSymbols (c.blocks.take 20))
    let c := { c with blocks := c.blocks.drop 20, count := c.count + 1, sent := c.sent ++ [cw] }
    if c.count ≥ alignEvery then { c with count := 0, sent := c.sent ++ [alignBlock l] } else c

/-- The 256 bytes of a flit enter the code of a port at a width of `l` lanes. -/
def codeFlit (l : Nat) (c : TxCode) (bs : List Byte) : TxCode :=
  sendWord l ((flitBlocks bs).foldl (fun c b =>
    let r := scrambleBlock b c.scr
    { c with scr := r.2, blocks := c.blocks ++ [BitVec.ofNat 257 r.1] }) c)

/-! ## Training records (R271) -/

/-- The word before every record. -/
def syncWord : Nat := 0x4E415254

/-- The credits the device advertises: 256 posted, 256 non-posted, unlimited completions (R283). -/
def ownCredits : Nat := 256

/-- The training records that this end sends on lane `k` of its current lanes in its present phase. The agreed records follow one another: ADV
until its own and the far end's are known, then CONF. In Detect a lane sends PRBS31 and no record. -/
def recordsOut (n : Narta) (h k : Nat) : List Word64 :=
  let rec_ (kind v : Nat) : Word64 := BitVec.ofNat 64 (kind * 2 ^ 60 + k * 2 ^ 56 + v)
  let agree (kind : Nat) (m : BitVec 16) : Word64 := rec_ kind (m.toNat * 2 ^ 40 + n.full.toNat * 2 ^ 39 + n.tid % 256 * 2 ^ 31)
  match n.phase with
  | .detect => []
  | .lane => [rec_ 1 0]
  | .equalise => [rec_ 2 ((Config.eqWant h k).toNat % 11 * 2 ^ 52 + mget 0 n.presets k % 16 * 2 ^ 48)]
  | .agree => ((n.sentAdv.map (agree 3)).toList ++ (n.conf.map (agree 4)).toList)
  | .start => [rec_ 5 (ownCredits * 2 ^ 47 + ownCredits * 2 ^ 38)]

end Sys2Proof.Machine
end

