-- ==== Sys2Proof/Machine/Link.lean ====
section
/-!
DEFINITION. What the device sends on the Narta link (chapter 10): transactions, credits and the replay buffer, messages, the
choice of port, device writes to host or tower memory, and the barks that leave as messages and as event ring entries
(R306).
-/
namespace Sys2Proof.Machine

/-! ## Transactions (R276) -/

def tMwr : Nat := 1
def tMrd : Nat := 2
def tCrd : Nat := 3
def tCwr : Nat := 4
def tCpl : Nat := 5
def tMsg : Nat := 6

def tlpType (x : Tlp) : Nat := bits x.w0.toNat 7 0
def tlpTag (x : Tlp) : Nat := bits x.w0.toNat 19 8
def tlpOrig (x : Tlp) : Nat := bits x.w0.toNat 20 20
def tlpLast (x : Tlp) : Bool := bit x.w0.toNat 21
def tlpStatus (x : Tlp) : Nat := bits x.w0.toNat 25 22
def tlpLen (x : Tlp) : Nat := bits x.w0.toNat 44 32
def tlpAddr (x : Tlp) : Nat := x.w1.toNat

def mkTlp (typ tag orig : Nat) (last : Bool) (status len w1 : Nat) (data : List Byte) : Tlp :=
  { w0 := BitVec.ofNat 64 (typ + tag * 2 ^ 8 + orig * 2 ^ 20 + last.toNat * 2 ^ 21 + status * 2 ^ 22 + len * 2 ^ 32),
    w1 := BitVec.ofNat 64 w1, data := data }

/-- Classes of R276: 0 posted, 1 non-posted, 2 completion. -/
def tlpClass (x : Tlp) : Nat :=
  let t := tlpType x
  if t == tMrd || t == tCrd || t == tCwr then 1 else if t == tCpl then 2 else 0

/-- Slots of 16 bytes that a transaction fills: its header and its padded data. -/
def tlpSlots (x : Tlp) : Nat := 1 + (x.data.length + 15) / 16

/-- The bytes of a transaction in the slots: header, data, and zeros up to 16 bytes. -/
def tlpBytes (x : Tlp) : List Byte :=
  leBytes 8 x.w0.toNat ++ leBytes 8 x.w1.toNat ++ x.data ++ zeros (16 * tlpSlots x - 16 - x.data.length)

/-! ## Ports -/

def narta (d : Dev) (h : Nat) : Narta := mget Narta.init d.narta h
def setNarta (d : Dev) (h : Nat) (n : Narta) : Dev := { d with narta := mput Narta.init d.narta h n }

def psDown : Nat := 0
def psTraining : Nat := 1
def psUp : Nat := 2
def psWidth : Nat := 3
def psFailed : Nat := 4
def psDisabled : Nat := 5

/-- Is a port up? A width retrain only makes its transactions wait (R274). -/
def portUp (d : Dev) (h : Nat) : Bool := (narta d h).st == psUp || (narta d h).st == psWidth

/-- Flits in the replay buffer, and its size (R268). -/
def inFlight (n : Narta) : Nat := n.flits.length
def flitWindow : Nat := 1024

/-- Does the port hold a credit for a class? -/
def hasCredit (n : Narta) (c : Nat) : Bool :=
  if c == 0 then n.heldP > 0 else if c == 1 then n.heldN > 0 else n.advC == 0 || n.heldC > 0

def spendCredit (n : Narta) (c : Nat) : Narta :=
  if c == 0 then { n with heldP := n.heldP - 1 }
  else if c == 1 then { n with heldN := n.heldN - 1 }
  else { n with heldC := n.heldC - 1 }

/-- Transactions that go out now: in order, but for what Table — Narta ordering lets pass a class that has no credit (R283, R284), as far as the
window has flits for their slots, of which `used` are filled. `bp`, `bn` and `bc` tell that an earlier transaction of the class still
waits. The others are left waiting. -/
def txGo : List Tlp → Bool → Bool → Bool → Nat → Narta → Narta × List Tlp
  | [], _, _, _, _, n => (n, [])
  | x :: r, bp, bn, bc, used, n =>
    let c := tlpClass x
    let free := inFlight n + (used + tlpSlots x + 14) / 15 ≤ flitWindow && hasCredit n c
    let pass := if c == 0 then !bp else if c == 1 then !bp && !bn else !bp && !bc
    if free && pass then
      let (n, out) := txGo r bp bn bc (used + tlpSlots x) (spendCredit n c)
      (n, x :: out)
    else
      txGo r (bp || c == 0) (bn || c == 1) (bc || c == 2) used { n with wait := n.wait ++ [x] }

/-- The first slot of each transaction of a list, the first at slot `s`. -/
def slotStarts : Nat → List Tlp → List Nat
  | _, [] => []
  | s, x :: r => s :: slotStarts (s + tlpSlots x) r

/-- Transactions fill the slots of consecutive TLP flits in order (R276). -/
def packFlits (n : Narta) (out : List Tlp) : Narta :=
  let starts := slotStarts 0 out
  let bytes := (out.map tlpBytes).flatten
  let total := bytes.length / 16
  let fs := (List.range ((total + 14) / 15)).map (fun j =>
    (⟨(n.txNext + j) % 4096, ((starts.find? (fun s => 15 * j ≤ s && s < 15 * j + 15)).map (· - 15 * j)).getD 15,
      (bytes.drop (240 * j) ++ zeros 240).take 240, 0⟩ : TxFlit))
  let ts := (out.zip starts).map (fun x =>
    (⟨x.1, (n.txNext + x.2 / 15) % 4096, (x.2 + tlpSlots x.1 - 1) / 15 - x.2 / 15 + 1⟩ : TxTlp))
  { n with flits := n.flits ++ fs, unacked := n.unacked ++ ts, txNext := (n.txNext + fs.length) % 4096 }

/-- A transaction waits for the port to send it. -/
def sendOn (d : Dev) (h : Nat) (x : Tlp) : Dev :=
  let n := narta d h
  setNarta d h { n with wait := n.wait ++ [x] }

/-- ACK value of this end: the flit after the last one of which every transaction is accepted (R268). -/
def accepted (n : Narta) : Nat := if n.part.isEmpty then n.expect else n.partSeq

/-- A flit leaves the port: the header carries ACK, NAK and as many of the credits owed as it can (R267, R283). -/
def sendFlit (kind seq first : Nat) (slots : List Byte) (n : Narta) : Narta :=
  let p := min 255 n.owedP
  let q := min 255 n.owedN
  let f := sealFlit kind ⟨BitVec.ofNat 12 seq, BitVec.ofNat 12 (accepted n), n.nak, BitVec.ofNat 4 first, BitVec.ofNat 8 p, BitVec.ofNat 8 q, 0,
    slots, 0, true⟩
  { n with owedP := n.owedP - p, owedN := n.owedN - q, ackSent := accepted n, sent := n.sent ++ [(kind, f)],
           code := codeFlit (16 / 2 ^ n.width) n.code (flitBytes kind f ++ leBytes 8 f.crc.toNat) }

/-- Has the port anything to tell the far end beside its transactions: a new ACK, a NAK, or credits? -/
def tells (n : Narta) : Bool := n.nak || n.ackSent != accepted n || n.owedP != 0 || n.owedN != 0

/-- What a port in service sends at the end of a command: the transactions that may go, in flits, the replay buffer again after a NAK, and an
IDLE flit where it has only its ACK, NAK or credits to send (log entry 114). -/
def txFill (n : Narta) : Narta × List Tlp :=
  if n.st != psUp then (n, [])
  else
    let old := n.flits
    let (n, out) := txGo n.wait false false false 0 { n with wait := [] }
    let n := packFlits n out
    let go := if n.resend then n.flits else n.flits.drop old.length
    let n := go.foldl (fun n f => sendFlit 1 f.seq f.first f.slots n) { n with resend := false }
    (if go.isEmpty && tells n then sendFlit 0 n.txNext 15 (zeros 240) n else n, out)

/-- A LAST completion that leaves frees the tag of its request (R282). -/
def freeTags (d : Dev) (out : List Tlp) : Dev :=
  out.foldl (fun d x =>
    if tlpClass x == 2 && tlpLast x then
      let n := narta d (tlpOrig x)
      setNarta d (tlpOrig x) { n with tags := mput none n.tags (tlpTag x) none }
    else d) d

/-- The flits of the last command have left. -/
def clearSent (d : Dev) : Dev :=
  [0, 1].foldl (fun d h =>
    let n := narta d h
    if n.sent.isEmpty && n.code.sent.isEmpty then d else setNarta d h { n with sent := [], code := { n.code with sent := [] } }) d

/-- Has a port nothing to send: it is not in service, or nothing waits, is to be sent again, or is to be told? -/
def txRests (n : Narta) : Bool := n.st != psUp || (n.wait.isEmpty && !n.resend && !tells n)

/-- Both ports send. -/
def txPump (d : Dev) : Dev :=
  [0, 1].foldl (fun d h =>
    if txRests (narta d h) then d
    else
      let (n, out) := txFill (narta d h)
      freeTags (setNarta d h n) out) d

/-! ## Which port (R288 to R290, R292) -/

/-- The system port stands beside the partitions as number 8. -/
def sysWho : Nat := 8

def homeOf (d : Dev) (who : Nat) : Nat :=
  if who < 8 then (if bit (getF d (hlkPg 0) HLK.HLK_CTL_HOME) who then 1 else 0)
  else getF d (hlkPg 0) HLK.HLK_CTL_SYS_PORT

def setHome (d : Dev) (who h : Nat) : Dev :=
  if who < 8 then
    let m := getF d (hlkPg 0) HLK.HLK_CTL_HOME
    let m := if bit m who then m - 2 ^ who else m
    setF d (hlkPg 0) HLK.HLK_CTL_HOME (m + h * 2 ^ who)
  else setF d (hlkPg 0) HLK.HLK_CTL_SYS_PORT h

/-- The port that carries what `who` originates now; none when no port is up. -/
def route (d : Dev) (who : Nat) : Option Nat :=
  let h := homeOf d who
  if portUp d h then some h else if portUp d (1 - h) then some (1 - h) else none

/-- The device sends a transaction of its own for `who`. -/
def sendFor (d : Dev) (who : Nat) (x : Tlp) : Dev :=
  if (mget none d.change who).isSome then { d with changeTlps := d.changeTlps ++ [(who, x)] }
  else
    match route d who with
    | some h => sendOn d h x
    | none => { d with heldTlps := d.heldTlps ++ [x] }

/-! ## Messages (R285) -/

def mkMsg (mcode part ring value : Nat) (payload : List Byte) : Tlp :=
  mkTlp tMsg 0 0 false 0 payload.length (mcode + part * 2 ^ 16 + ring * 2 ^ 19 + value * 2 ^ 25) payload

def mcSq : Nat := 1
def mcCq : Nat := 2
def mcHello : Nat := 0x10
def mcNotify : Nat := 0x11
def mcBark : Nat := 0x12
def mcEvent : Nat := 0x13
def mcDone : Nat := 0x14

/-- PORT_EVENT for port `x` on every port that is up (R287). -/
def portEvent (d : Dev) (x : Nat) : Dev :=
  let n := narta d x
  let v := x * 2 ^ 15 + n.st * 2 ^ 12 + accepted n
  [0, 1].foldl (fun d h => if portUp d h then sendOn d h (mkMsg mcEvent 0 0 v []) else d) d

/-! ## Completions of host requests (R278, R279, R290) -/

/-- The LAST completion of the host request with tag `tag` of port `h`. -/
def lastCpl (h tag : Nat) (x : Tlp) : Bool := tlpClass x == 2 && tlpLast x && tlpOrig x == h && tlpTag x == tag

/-- Does the LAST completion of a request in use wait to be sent? -/
def cplQueued (d : Dev) (h tag : Nat) : Bool :=
  [0, 1].any (fun p => (narta d p).wait.any (lastCpl h tag)) || d.heldTlps.any (lastCpl h tag)

/-- A CPL of the host request with tag `tag` of port `h`; the tag stays in use until the LAST one is sent (R282). -/
def sendCpl (d : Dev) (h tag off status : Nat) (last : Bool) (data : List Byte) : Dev :=
  let n := narta d h
  let via := (mget none n.tags tag).getD h
  let x := mkTlp tCpl tag h last status data.length off data
  if portUp d via then sendOn d via x
  else if portUp d (1 - via) then sendOn d (1 - via) x
  else { d with heldTlps := d.heldTlps ++ [x] }

/-! ## Device writes -/

/-- A host access joins the queue of its bank column (R174). -/
def queuePiece (d : Dev) (t b : Nat) (p : Piece) : Dev :=
  let c := column d t b
  setColumn d t b { c with queue := c.queue ++ [p] }

/-- The bank column whose queue takes accesses to a page. -/
def pageCol (d : Dev) (t k : Nat) : Nat :=
  if meState (entry d t k) == meAbsent then k % 136 else frameCol (meFrame (entry d t k))

/-- A device write of a structure: to host memory as an MWR for `who`, or to tower memory as a host access. A reserved address raises its bark for
the page that holds the structure's address: the partition's, or `src` (R305). -/
def devWrite (d : Dev) (host : Bool) (who src addr : Nat) (bs : List Byte) : Dev :=
  if host then sendFor d who (mkTlp tMwr 0 0 false 0 bs.length addr bs)
  else
    match addrKind d.kind (addr % 2 ^ 44) with
    | .tower t k o => queuePiece d t (pageCol d t k) ⟨k, o, bs.length, .write bs, .devWrite⟩
    | _ => barkReserved d (if who < 8 then partPg who else src) (addr % 2 ^ 44)

/-! ## Barks (R304 to R306) -/

def evtPg : Nat := EVT.page.pg 0

/-- The 32-byte record of a bark. -/
def barkBytes (b : Bark) (phase : Bool) : List Byte :=
  leBytes 2 b.typ ++ leBytes 2 b.src ++
  [BitVec.ofNat 8 (phase.toNat * 128 + b.part.isSome.toNat * 32 + b.die % 8 * 4 + b.sev % 4),
   BitVec.ofNat 8 ((b.part.getD 0) % 8 * 32 + b.status.isSome.toNat * 16 + (b.status.getD 0) % 16)] ++
  leBytes 6 b.stamp ++ leBytes 4 b.epoch ++ (b.detail ++ zeros 16).take 16

/-- A bark is counted, sent as a message, and kept in the life log from SEV 1 up. -/
def barkOut (d : Dev) (b : Bark) : Dev :=
  let d := count d evtPg EVT.BARKS_RAISED 1
  let d := if b.sev ≥ 1 then life d 3 0 (barkBytes b false) else d
  sendFor d sysWho (mkMsg mcBark 0 0 0 (barkBytes b false))

def evtOn (d : Dev) : Bool := getF d evtPg EVT.EVT_CFG_ENABLE == 1
def evtSize (d : Dev) : Nat := 2 ^ getF d evtPg EVT.EVT_CFG_LOG2
/-- Entries of the ring that the host has not consumed. -/
def evtUsed (d : Dev) : Nat := (d.evt.tail + evtSize d - getF d evtPg EVT.EVT_HEAD % evtSize d) % evtSize d
def evtPlace (d : Dev) : Bool := evtOn d && evtUsed d + 1 < evtSize d

/-- One bark is written at the ring's tail. -/
def evtWrite (d : Dev) (b : Bark) : Dev :=
  let a := getF d evtPg EVT.EVT_BASE + 32 * d.evt.tail
  let d := devWrite d (getF d evtPg EVT.EVT_CFG_LOC == 1) sysWho evtPg a (barkBytes b d.evt.phase)
  let d := count d evtPg EVT.BARKS_WRITTEN 1
  let t := d.evt.tail + 1
  if t ≥ evtSize d then { d with evt := { d.evt with tail := 0, phase := !d.evt.phase } }
  else { d with evt := { d.evt with tail := t } }

/-- A bark waits in the queue of 256; a full queue drops an INFO bark for it, or drops it. -/
def evtQueue (d : Dev) (b : Bark) : Dev :=
  let q := d.evt.queue
  if q.length < 256 then { d with evt := { d.evt with queue := q ++ [b] } }
  else
    let d := count d evtPg EVT.BARKS_DROPPED 1
    let d := { d with evt := { d.evt with dropped := d.evt.dropped + 1 } }
    if q.any (fun x => x.sev == 0) then { d with evt := { d.evt with queue := q.eraseP (fun x => x.sev == 0) ++ [b] } }
    else d

/-- Barks that have a place leave the queue; the first after a drop is an overflow bark. -/
def evtDrain : Nat → Dev → Dev
  | 0, d => d
  | f + 1, d =>
    match d.evt.queue with
    | [] => d
    | b :: r =>
      if !evtOn d then d
      else if b.sev < getF d evtPg EVT.EVT_CFG_MIN_SEV then
        evtDrain f (count { d with evt := { d.evt with queue := r } } evtPg EVT.BARKS_FILTERED 1)
      else if !evtPlace d then d
      else if d.evt.dropped > 0 then
        let o : Bark := { typ := 0x0401, src := evtPg, die := lead d, sev := 1, part := none, epoch := 0, status := none,
                          stamp := stampOf d (lead d), detail := leBytes 8 d.evt.dropped }
        let d := barkOut { d with evt := { d.evt with dropped := 0 } } o
        evtDrain f (evtWrite d o)
      else evtDrain f (evtWrite { d with evt := { d.evt with queue := r } } b)

def evtPump (d : Dev) : Dev := evtDrain (2 * d.evt.queue.length + 1) d

/-- A bark takes its way to the event ring: the ring, the queue, or the filter. -/
def barkRing (d : Dev) (b : Bark) : Dev :=
  if evtOn d && b.sev < getF d evtPg EVT.EVT_CFG_MIN_SEV then count d evtPg EVT.BARKS_FILTERED 1
  else evtPump (evtQueue (evtPump d) b)

/-- One raised bark takes its way: message, life log, then the event ring. -/
def barkGo (d : Dev) (b : Bark) : Dev := barkRing (barkOut d b) b

/-- Every bark raised so far leaves (R306). -/
def pumpBarks (d : Dev) : Dev :=
  evtPump ((d.evt.raised).foldl barkGo { d with evt := { d.evt with raised := [] } })

end Sys2Proof.Machine
end

