-- ==== Sys2Proof/Machine/Lanes.lean ====
section
/-!
DEFINITION. Lanes of the links (chapter 8): planes and lines of the waveguide routers, eye margins and the lanes that need bypass, training
words, and the PRBS31 of the loop-back modes.
-/
namespace Sys2Proof.Machine

/-! ## Planes and lines (R209) -/

/-- Region at which comb line `m` leaves a router that it enters at region `i`. -/
def routerOut (i m : Nat) : Nat := (i + m + 1) % 32

/-- Line that carries channel i→j; 31 returns to the sending region. -/
def lineOf (i j : Nat) : Nat := (j + 31 - i) % 32

/-- Plane of a physical lane of a channel: lane k rides plane k, and 8 is the spare's. -/
def planeOf (lane : Nat) : Nat := lane

/-! ## Eye margins (R224) -/

/-- Physical lanes of a group of a link: 35 of a bundle's group, the spare last; 9 of a channel, the spare 8. -/
def groupLanes (v g : Nat) : List Nat := if v < 64 then List.range 9 else (List.range 35).map (35 * g + ·)

/-- The lane with the lowest margin of those listed, if it is below the threshold; the lowest-numbered of equals (DEDUCED, log entry
107). -/
def lowLane (thr : Nat) (ms : List (BitVec 8)) (ls : List Nat) : Option Nat :=
  ls.foldl (fun best l =>
    let m := (ms.getD l 255).toNat
    if m < thr && (match best with | none => true | some b => m < (ms.getD b 255).toNat) then some l else best) none

/-- Lanes of a group that need bypass: those named as failed, and the one with the lowest margin below the threshold. -/
def needLanes (bad : Nat → Bool) (thr : Nat) (ms : List (BitVec 8)) (ls : List Nat) : List Nat :=
  let low := lowLane thr ms ls
  ls.filter (fun l => bad l || low == some l)

/-- What a group with these lanes in need of bypass asks for: the lane to bypass, if any; none where the group is unrepaired. -/
def groupNeed (spare : Nat) (need : List Nat) : Option (Option Nat) :=
  match need.filter (· != spare) with
  | [] => some none
  | [l] => if need.contains spare then none else some (some l)
  | _ => none

/-- Entry of bad-unit records for a physical lane that an end receives: of the bundle, or of the channel from the other region to
it. -/
def laneEntry (r v : Nat) (far : Bool) (lane : Nat) : Nat :=
  if v < 64 then
    let (a, b) := if r ≤ v % 32 then (r, v % 32) else (v % 32, r)
    if far then entPeer a b lane else entPeer b a lane
  else entLane r (v - 64) lane

/-- Region whose OPT page holds MARGIN_THR for an end. -/
def endRegion (r v : Nat) (far : Bool) : Nat := if v < 64 then (if far then max r (v % 32) else min r (v % 32)) else r

/-- Halves of a link that hold no unrepaired group at an end with the given margins. A peer channel is one group over both halves: its lowest
lane in need takes the spare, and the halves that hold another cannot be used (DEDUCED, log entry 107). -/
def usableHalves (d : Dev) (r v : Nat) (far : Bool) (ms : List (BitVec 8)) : BitVec 2 :=
  let bad := badEntries d
  let thr := getF d (optPg (endRegion r v far)) OPT.MARGIN_THR
  let need (g : Nat) := needLanes (fun l => bad.contains (laneEntry r v far l)) thr ms (groupLanes v g)
  let half (h : Nat) : Bool :=
    if v < 64 then
      let ls := need 0
      let left := if ls.contains 8 then ls.filter (· != 8) else ls.drop 1
      left.all (fun l => l / 4 != h)
    else (List.range 4).all (fun i => (groupNeed (35 * (4 * h + i) + 34) (need (4 * h + i))).isSome)
  (if half 0 then 1#2 else 0#2) ||| (if half 1 then 2#2 else 0#2)

/-- The BYPASS word an end sends for a group: the position in need of bypass, or 63 for none (R224, R228). -/
def bypassPos (d : Dev) (r v : Nat) (far : Bool) (g : Nat) (ms : List (BitVec 8)) : Nat :=
  let bad := badEntries d
  let thr := getF d (optPg (endRegion r v far)) OPT.MARGIN_THR
  let ls := needLanes (fun l => bad.contains (laneEntry r v far l)) thr ms (groupLanes v g)
  let spare := if v < 64 then 8 else 35 * g + 34
  match ls.filter (· != spare) with
  | l :: _ => if ls.contains spare then 63 else if v < 64 then l else l - 35 * g
  | [] => 63

/-- The positions an end's BYPASS words name, by group. -/
def namedLanes (d : Dev) (r v : Nat) (far : Bool) (ms : List (BitVec 8)) : Map (Option Nat) :=
  (if v < 64 then [0] else List.range 8).filterMap (fun g =>
    let p := bypassPos d r v far g ms
    if p == 63 then none else some (g, some p))

/-- Halves of a bundle that hold no group for which its ends name different positions (R224). -/
def agreedHalves (v : Nat) (a b : Map (Option Nat)) : BitVec 2 :=
  let clash (g : Nat) : Bool := match mget none a g, mget none b g with
    | some x, some y => x != y
    | _, _ => false
  let half (h : Nat) : Bool := v < 64 || (List.range 4).all (fun i => !clash (4 * h + i))
  (if half 0 then 1#2 else 0#2) ||| (if half 1 then 2#2 else 0#2)

/-- The lowest margin over both ends of a link and the lane that has it, by logical position where it has one. -/
def lowestMargin (near far : List (BitVec 8)) : Nat × Nat :=
  let ls := (List.range near.length).zip near ++ (List.range far.length).zip far
  ls.foldl (fun b x => if x.2.toNat < b.2 then (x.1, x.2.toNat) else b) (0, 255)

/-! ## Training words (R228) -/

def bypassBits (g : BitVec 3) (pos : BitVec 6) : BitVec 32 := 1#4 ++ g ++ pos ++ 0#19

/-- An ADV (2) or CONF (3) word. -/
def maskBits (tkind : BitVec 4) (halves : BitVec 2) (joint : Bool) (tid : BitVec 8) : BitVec 32 :=
  tkind ++ halves ++ BitVec.ofBool joint ++ 0#1 ++ tid ++ 0#16

def tKind (w : BitVec 32) : Nat := bits w.toNat 31 28
def tGroup (w : BitVec 32) : Nat := bits w.toNat 27 25
def tPos (w : BitVec 32) : Nat := bits w.toNat 24 19
def tHalves (w : BitVec 32) : BitVec 2 := w.extractLsb' 26 2
def tJoint (w : BitVec 32) : Bool := w.getLsbD 25
def tTid (w : BitVec 32) : Nat := bits w.toNat 23 16

/-! ## PRBS31 (R227, R233) -/

/-- One step of x^31 + x^28 + 1. -/
def prbsNext (s : BitVec 31) : BitVec 31 := (s <<< 1) ||| (if s.getLsbD 30 != s.getLsbD 27 then 1#31 else 0#31)

/-- The next byte, its first bit least significant, and the state after it. -/
def prbsByte (s : BitVec 31) : Byte × BitVec 31 :=
  (List.range 8).foldl (fun p i =>
    let s := prbsNext p.2
    (if s.getLsbD 0 then p.1 ||| BitVec.ofNat 8 (2 ^ i) else p.1, s)) (0, s)

def prbsBytes : Nat → BitVec 31 → List Byte × BitVec 31
  | 0, s => ([], s)
  | n + 1, s =>
    let (b, s) := prbsByte s
    let (r, s) := prbsBytes n s
    (b :: r, s)

/-- Bytes of two lists that differ, over the length of the first. -/
def mismatches (a b : List Byte) : Nat := (((List.range a.length).zip a).filter (fun x => b[x.1]? != some x.2)).length

end Sys2Proof.Machine
end

