-- ==== Sys2Proof/Machine/Optical.lean ====
section
/-!
DEFINITION. The optical base and the vertical bundles (chapter 8): frames and slots with their CRC, sequence and
replay, lane failure, training and width agreement, combs, loop-back and the OPT commands.
-/
namespace Sys2Proof.Machine

/-! ## A lost bundle makes its site a unit that fails after start (R231, R367) -/

def muzzleLostBundle (d : Dev) (r v : Nat) : Dev :=
  if v ≥ 64 && (link d r v).st == .lost then muzzleSite d (4 * r + (v - 64) / 34) ((v - 64) % 34) 7 else d

def dropLink (d : Dev) (r v ev lane : Nat) : Dev := muzzleLostBundle (loseLink d r v ev lane) r v

/-! ## Frames (R213 to R218) -/

def nBytes (n : Nat) (bs : List Byte) : List Byte := (bs ++ zeros n).take n

/-- CRC-32C over bytes 0 to 59 of a frame. -/
def frameCrc (kind : Nat) (f : OptFrame) : BitVec 32 :=
  let ctrl := kind * 2 ^ 29 + f.nb.toNat * 2 ^ 23 + f.seq.toNat * 2 ^ 13 + f.ack.toNat * 2 ^ 3 + (if f.nak then 4 else 0)
  BitVec.ofNat 32 (crc32c (nBytes 56 f.payload ++ leBytes 4 ctrl))

/-- SEQ of the frame after the last one whose payload the receiver has passed on: ACK moves past no other (R216). -/
def passedSeq (mod : Nat) (c : Chan) : Nat := (c.expect + mod - c.rx.length % mod) % mod

/-- An acknowledge at the sender: frames before `ack` leave the window, and what waits may enter it (R216). An ACK beyond `passed`,
what the other end has passed on, is none it sends. -/
def takeAck (win mod passed ack : Nat) (c : Chan) : Chan :=
  match c.unacked with
  | [] => c
  | x :: _ =>
    let k := (ack + mod - x.seq) % mod
    if k ≤ c.unacked.length && k ≤ (passed + mod - x.seq) % mod then chanFill win mod c.waiting.length { c with unacked := c.unacked.drop k } else c

/-- A NAK at the sender: the frame at `ack` and every later one is resent, once for each ACK value (R217). The Bool tells
that one frame had already been resent `lim` times. -/
def takeNak (lim ack : Nat) (nak : Bool) (c : Chan) : Chan × Bool × Bool :=
  if !nak then ({ c with lastNak := none }, false, false)
  else if c.lastNak == some ack || c.unacked.isEmpty then (c, false, false)
  else
    let overrun := c.unacked.any (fun x => x.resends ≥ lim)
    ({ c with lastNak := some ack, unacked := c.unacked.map (fun x => { x with resends := x.resends + 1 }) }, true, overrun)

/-- Receiver's verdict on a sequence number: equal 0, above 1, below 2. -/
def seqPlace (mod expect seq : Nat) : Nat :=
  let k := (seq + mod - expect) % mod
  if k == 0 then 0 else if k < mod / 2 then 1 else 2

/-- Cores of a region with a receive running on the channel from `i` go on. -/
def pumpReceivers (d : Dev) (i r : Nat) : Dev :=
  let ns := (List.range 128).map (128 * r + ·)
  (ns.filter (fun n => (core d n).q.any (fun q => q.eng == .move && !q.arrived && mPeer q.word.toNat == i))).foldl
    (fun d n => pump d n) d

/-- The reverse channel's sender at region `j` takes the frame's ACK and NAK. -/
def ackAndNak (d : Dev) (i j : Nat) (f : OptFrame) : Dev :=
  let c := chan d j i
  let (c, replay, overrun) := takeNak 16 f.ack.toNat f.nak (takeAck (sendWin d j) seqOpt (passedSeq seqOpt c) f.ack.toNat c)
  let d := setChan d j i c
  let d := if replay then count d (optPg j) OPT.REPLAYS 1 else d
  if overrun then loseLink d j i 3 0xFF else d

/-- The outbound channel of a region that runs LOOP_SELF (R233). -/
def selfLoop (d : Dev) (i : Nat) : Option Nat :=
  (List.range 32).find? (fun v =>
    let l := link d i v
    v != i && l.st == .loopBack && l.loopSelf && l.loopBy == some i)

/-- A frame of a running loop-back comes back to the end that sends: its payload is compared with the PRBS31 sent, and its CRC with that of
the payload sent (R233, log entry 108). -/
def loopFrame (r v kind : Nat) (f : OptFrame) (d : Dev) : Dev :=
  let l := link d r v
  let (sent, s) := prbsBytes 56 l.loopSeed
  let n := mismatches sent (nBytes 56 f.payload) +
    mismatches (leBytes 4 (frameCrc kind { f with payload := sent }).toNat) (leBytes 4 f.crc.toNat)
  count (setLink d r v { l with loopFrames := l.loopFrames + 1, loopSeed := s }) (optPg r) OPT.LOOP_ERRORS n

/-- A frame arrives on channel i→j (R215). Line 31 brings a region's own frames back to it, in LOOP_SELF alone (R209). -/
def frameArrives (i j kind : Nat) (f : OptFrame) (d : Dev) : Dev :=
  let l := link d i j
  if lineOf i j == 31 then
    match selfLoop d i with
    | some v => loopFrame i v kind f d
    | none => d
  else if l.st == .loopBack then
    if !l.loopSelf && l.loopBy == some j then loopFrame j (32 + i) kind f d else d
  else if l.st != .up then d
  else if frameCrc kind f != f.crc then
    let d := count d (optPg j) OPT.CRC_FAILS 1
    let d := setLink d i j { l with crcCnt := l.crcCnt + 1 }
    setChan d i j { chan d i j with nak := true }
  else
    let d := ackAndNak d i j f
    if (link d i j).st != .up then d
    else
      let c := chan d i j
      match seqPlace seqOpt c.expect f.seq.toNat with
      | 0 =>
        if kind == 0 then d
        else if c.rx.length ≥ winOpt then setChan d i j { c with nak := true }
        else
          let data := if kind == kData || kind == kLast then (nBytes 56 f.payload).take (f.nb.toNat + 1) else []
          let d := setChan d i j { c with expect := (c.expect + 1) % seqOpt, nak := false,
                                          rx := c.rx ++ [⟨f.seq.toNat, kind, data, 0⟩] }
          pumpReceivers (chanDrop d i j) i j
      | 1 => setChan d i j { c with nak := true }
      | _ => if kind == 0 then d else setChan d i j { c with nak := true }

/-! ## Bundle slots (R220 to R222) -/

def slotHeader (f : BundleSlot) : Nat :=
  f.dkind.toNat * 2 ^ 30 + f.nu.toNat * 2 ^ 28 + f.seq.toNat * 2 ^ 20 + f.ack.toNat * 2 ^ 12 +
    (if f.nak then 2 ^ 11 else 0) + f.mt0.toNat * 2 ^ 7 + f.mt1.toNat * 2 ^ 3

def slotCrc (f : BundleSlot) : BitVec 32 :=
  let data := if f.dkind == 1#2 then nBytes (64 * (f.nu.toNat + 1)) f.data else []
  BitVec.ofNat 32 (crc32c (data ++ leBytes 4 (slotHeader f) ++ leBytes 4 f.word0.toNat ++ leBytes 4 f.word1.toNat))

def winBundle : Nat := 32
def seqBundle : Nat := 256

/-! ## Which links exist, and their regions' plans -/

def linkOk (r v : Nat) : Bool := v < 200 && v != r && v != 32 + r
def linkPeer (_r v : Nat) : Option Nat := if v < 64 then some (v % 32) else none
def linkPlanned (d : Dev) (r v : Nat) : Bool :=
  regionPlanned d r || (match linkPeer r v with | some j => regionPlanned d j | none => false)

/-- Region and selector of an end of a link. -/
def endOf (r v : Nat) (far : Bool) : Nat × Nat :=
  match linkPeer r v with
  | none => (r, v)
  | some j => if far == linkNear r v then (j, if v < 32 then 32 + r else r) else (r, v)

/-! ## Training (R227 to R230) -/

def freshEnd (e : LinkEnd) (keep : Bool) : LinkEnd :=
  { e with adv := none, gotAdv := none, sentConf := none, gotConf := none, bypass := if keep then e.bypass else [] }

/-- A training of a link starts; a width retrain begins at Measure with the halves given. -/
def startTraining (d : Dev) (r v : Nat) (k : TrainKind) (nearU farU : BitVec 2) : Dev :=
  let l := link d r v
  let w := k == .width
  setLink d r v { l with
    st := if w then .widthRetrain else .training, kind := k, joint := false, phase := if w then .measure else .detect,
    tid := (l.tid + 1) % 256, restarts := 0,
    near := { freshEnd l.near w with usable := nearU },
    far := { freshEnd l.far w with usable := farU } }

/-- A joint training starts: both ends begin together at Detect, and the lanes declared failed are measured again (R230, R234). -/
def startJoint (d : Dev) (r v : Nat) (k : TrainKind) : Dev :=
  let d := startTraining d r v k 3#2 3#2
  let l := link d r v
  setLink d r v { l with joint := true, near := { l.near with failed := [] }, far := { l.far with failed := [] } }

/-- Median reading of a die's sensors, in 1/16 °C. -/
def dieMedian (d : Dev) (k : Nat) : Int :=
  let vs := (List.range 64).map (fun i => (mget Sensor.init d.sens (64 * k + i)).val)
  (vs.mergeSort (· ≤ ·)).getD 31 0

/-- Are saved settings valid (R328)? A die's median is the lower of
its two middle readings. -/
def savedValid (d : Dev) (key : Nat) (names : Nat → Bool) : Bool :=
  match d.saved.find? (fun (k, _) => k == key) with
  | none => false
  | some (_, s) =>
    let now := powered d (lead d)
    now ≤ s.powered + 2592000 &&
      (List.range 8).all (fun k =>
        let t := dieMedian d k
        let t0 := s.temps.getD k 0
        t - t0 ≤ 160 && t0 - t ≤ 160) &&
      s.major == getF d secPg SEC.SEC_STAT_FW_VER / 65536 &&
      !((kennelEntries d).drop s.kenl).any names

/-- Does a kennel entry name a lane of the link? -/
def laneOf (r v e : Nat) : Bool :=
  if v < 64 then
    let j := v % 32
    entKind e == 6 && ((bits e 13 9 == r && bits e 8 4 == j) || (bits e 13 9 == j && bits e 8 4 == r))
  else entKind e == 5 && bits e 21 17 == r && bits e 16 9 == v - 64

def saveKey (r v : Nat) : Nat := linkKey r v
/-- Save the settings of a link whose fresh training is complete (R329). -/
def saveSettings (d : Dev) (key : Nat) (l : Link) : Dev :=
  let s : SavedRec :=
    { powered := powered d (lead d), temps := (List.range 8).map (fun k => dieMedian d k),
      major := getF d secPg SEC.SEC_STAT_FW_VER / 65536, kenl := getF d kenlPg KENL.KENL_STAT_RECORDS,
      centre := l.centre, near := l.near.margins, far := l.far.margins }
  { d with saved := mins (mdel d.saved key) key s }

/-- Is a lane whose margin stood at the threshold or above it at save below it now (R327)? -/
def worseEye (thr : Nat) (was now : List (BitVec 8)) : Bool := (was.zip now).any (fun x => x.1.toNat ≥ thr && x.2.toNat < thr)

/-- Both ends lock in Detect; Centre finds the setting of each lane, or restores it in a saved training (R29, R227); Measure finds the margins
given, of every lane each end receives, and with them the halves each end can use; each end names to the other the lanes to bypass (R224). A saved training that finds a lane below
MARGIN_THR that was not at save trains fresh at once (R327). -/
def detectLock (r v : Nat) (near far : List (BitVec 8)) (centre : List (BitVec 16)) (d : Dev) : Dev :=
  let l := link d r v
  if !linkOk r v || l.st != .training || l.phase != .detect then d
  else
    let was := (d.saved.find? (fun x => x.1 == saveKey r v)).map (·.2)
    let thr (e : Bool) : Nat := getF d (optPg (endRegion r v e)) OPT.MARGIN_THR
    let worse := match was with
      | some s => worseEye (thr false) s.near near || worseEye (thr true) s.far far
      | none => false
    if l.kind == .saved && worse then setLink d r v { l with kind := .fresh }
    else
      let low := lowestMargin near far
      let toFar := namedLanes d r v false near
      let toNear := namedLanes d r v true far
      let ok := agreedHalves v toFar toNear
      setLink d r v { l with
        phase := .measure, weakest := low.1, margin := low.2,
        centre := match l.kind, was with
          | .saved, some s => s.centre
          | _, _ => centre,
        near := { l.near with margins := near, usable := usableHalves d r v false near &&& ok, bypass := toNear },
        far := { l.far with margins := far, usable := usableHalves d r v true far &&& ok, bypass := toFar } }

/-- A BYPASS word arrives at an end, naming the position the other end gives for a group (R224). A group of a bundle for which
the ends name different positions is unrepaired, and its half cannot be used; the ends of a pair name lanes of different
channels, each of the one it receives. -/
def bypassWord (r v : Nat) (far : Bool) (g pos : Nat) (d : Dev) : Dev :=
  let l := link d r v
  if !linkOk r v || (l.st != .training && l.st != .widthRetrain) || l.phase != .measure then d
  else
    let named : Option Nat := if pos == 63 then none else some pos
    let l := if far then { l with far := { l.far with bypass := mput none l.far.bypass g named } }
      else { l with near := { l.near with bypass := mput none l.near.bypass g named } }
    match mget none l.near.bypass g, mget none l.far.bypass g with
    | some a, some b =>
      if a == b || v < 64 then setLink d r v l
      else
        let bad : BitVec 2 := if g < 4 then 1#2 else 2#2
        setLink d r v { l with near := { l.near with usable := l.near.usable &&& ~~~bad },
                               far := { l.far with usable := l.far.usable &&& ~~~bad } }
    | _, _ => setLink d r v l

def advOf (joint : Bool) (e : LinkEnd) : BitVec 2 := if joint then e.usable else e.usable &&& e.agreed

/-- Measure ends and each end has sent its ADV. -/
def toAgree (l : Link) : Link :=
  if l.phase == .measure then
    { l with phase := .agree,
             near := { l.near with adv := some (advOf l.joint l.near) },
             far := { l.far with adv := some (advOf l.joint l.far) } }
  else l

def getEnd (l : Link) (far : Bool) : LinkEnd := if far then l.far else l.near
def putEnd (l : Link) (far : Bool) (e : LinkEnd) : Link := if far then { l with far := e } else { l with near := e }

/-- An ADV word arrives at an end: it sends CONF with the adopted mask (R229). -/
def advWord (r v : Nat) (far : Bool) (halves : BitVec 2) (joint : Bool) (tid : Nat) (d : Dev) : Dev :=
  let l0 := link d r v
  if !linkOk r v || (l0.st != .training && l0.st != .widthRetrain) || l0.phase == .detect || tid != l0.tid ||
      joint != l0.joint then d
  else
    let l := toAgree l0
    let e := getEnd l far
    match e.adv, e.sentConf with
    | some own, none =>
      let m := own &&& halves
      let l := putEnd l far { e with gotAdv := some halves, sentConf := some m }
      let d := setLink d r v l
      if own != m then
        let (er, ev) := endOf r v far
        let d := count d (optPg er) OPT.WIDTH_MISMATCH 1
        bark d 0x2601 (optPg er) (regionDie er) 1 (partOf d er) none
          [2, BitVec.ofNat 8 ev, 0xFF, own.setWidth 8, m.setWidth 8]
      else d
    | _, _ => setLink d r v l

/-- The Start phase: sequence numbers 0, windows full, replay buffers empty (R227). -/
def startLink (d : Dev) (r v : Nat) : Dev :=
  let wipe (c : Chan) : Chan := { Chan.init with sendK := c.sendK, skip := c.skip }
  match linkPeer r v with
  | some j => setChan (setChan d r j (wipe (chan d r j))) j r (wipe (chan d j r))
  | none => setBundle (setBundle d r (v - 64) true Chan.init) r (v - 64) false Chan.init

/-- A change of a link raises the map epoch of the partitions of its ends (R371). -/
def epochLink (d : Dev) (r v : Nat) : Dev :=
  let d := epochRegion d r
  if v < 64 && partOf d (v % 32) != partOf d r then epochRegion d (v % 32) else d

def widthCode (m : BitVec 2) : Nat := if m == 3#2 then 0 else if m == 1#2 then 1 else if m == 2#2 then 2 else 3

/-- A CONF word arrives at an end (R229). -/
def confWord (r v : Nat) (far : Bool) (halves : BitVec 2) (joint : Bool) (tid : Nat) (d : Dev) : Dev :=
  let l := link d r v
  if !linkOk r v || (l.st != .training && l.st != .widthRetrain) || l.phase != .agree || tid != l.tid ||
      joint != l.joint then d
  else
    let e := getEnd l far
    match e.sentConf with
    | none => d
    | some m =>
      if m != halves then
        if l.restarts + 1 ≥ 4 then dropLink d r v 3 0xFF
        else
          let wipe (e : LinkEnd) : LinkEnd := { e with gotAdv := none, sentConf := none, gotConf := none }
          setLink d r v { l with restarts := l.restarts + 1, near := wipe l.near, far := wipe l.far }
      else
        let l := putEnd l far { e with agreed := m, gotConf := some halves }
        if m == 0#2 then dropLink (setLink d r v l) r v 3 0xFF
        else if (getEnd l (!far)).gotConf.isSome then
          let up := { l with st := .up, phase := .up, width := widthCode m, near := freshEnd l.near true, far := freshEnd l.far true }
          let d := setLink d r v up
          let d := if l.width == widthCode m then d else epochLink d r v
          let d := if l.kind == .width then d else startLink d r v
          if l.kind == .fresh then saveSettings d (saveKey r v) up else d
        else setLink d r v l

/-- A training word arrives at an end (R228). -/
def trainArrives (r v : Nat) (far : Bool) (w : BitVec 32) (d : Dev) : Dev :=
  match tKind w with
  | 1 => bypassWord r v far (tGroup w) (tPos w) d
  | 2 => advWord r v far (tHalves w) (tJoint w) (tTid w) d
  | 3 => confWord r v far (tHalves w) (tJoint w) (tTid w) d
  | _ => d

/-- A training that does not complete in its time loses the link; a saved one trains fresh first (R231, R327). -/
def trainTimeout (r v : Nat) (d : Dev) : Dev :=
  let l := link d r v
  if !linkOk r v || (l.st != .training && l.st != .widthRetrain) then d
  else if l.kind == .saved then (if l.joint then startJoint d r v .fresh else startTraining d r v .fresh 3#2 3#2)
  else dropLink d r v 3 0xFF

/-! ## Lane failure (R225, R226) -/

/-- The end of a link that holds the lanes a region selects with `v`: for a channel, the end it leaves. -/
def laneFar (r v : Nat) : Bool := if v < 32 then !linkNear r v else if v < 64 then linkNear r v else false

/-- The bypass adopted for a group: the position named by either end of a bundle, or the lane named for a channel (R224). -/
def bypassOf (l : Link) (r v g : Nat) : Option Nat :=
  if v < 64 then mget none (getEnd l (laneFar r v)).bypass 0
  else match mget none l.near.bypass g with
    | some p => some p
    | none => mget none l.far.bypass g

/-- Physical lane of a logical position of a bundle (R223). -/
def physLane (l : Link) (r v pos : Nat) : Nat :=
  let g := pos / 34
  let i := pos % 34
  35 * g + i + (match bypassOf l r v g with | some p => if p ≤ i then 1 else 0 | none => 0)

/-- The lane at a logical position of a link is declared failed, is added to the kennel with a cause, and the link acts as
R226 states. -/
def laneFails (r v weakest cause : Nat) (d : Dev) : Dev :=
  let l := link d r v
  let d := count d (optPg r) OPT.LANES_FAILED 1
  let d := bark d 0x2601 (optPg r) (regionDie r) 1 (partOf d r) none
    [1, BitVec.ofNat 8 v, BitVec.ofNat 8 weakest, 0xFF, 0xFF]
  let spare := if v < 64 then 0 else weakest / 34
  let pos := if v < 64 then weakest % 8 else weakest % 34
  let lane := if bypassOf l r v 0 == some pos then 8 else pos
  let ent := if v < 32 then entPeer r v lane else if v < 64 then entPeer (v - 32) r lane
    else entLane r (v - 64) (physLane l r v weakest)
  let d := kennelAdd d ent cause
  let half := if v < 64 then pos / 4 else spare / 4
  let bad : BitVec 2 := if half == 0 then 1#2 else 2#2
  let free := (bypassOf l r v spare).isNone
  let otherBad := (l.near.failed ++ l.far.failed).any (fun (p, _) => (if v < 64 then p % 8 / 4 else p / 34 / 4) != half)
  let set (e : LinkEnd) : LinkEnd :=
    { e with failed := mput false e.failed (if v < 64 then pos else weakest) true,
             bypass := if free then mput none e.bypass spare (some pos) else e.bypass }
  let l' := if v < 64 then putEnd l (laneFar r v) (set (getEnd l (laneFar r v))) else { l with near := set l.near, far := set l.far }
  let d := setLink d r v l'
  let retrain := fun (nu fu : BitVec 2) => startTraining (count d (optPg r) OPT.WIDTH_RETRAINS 1) r v .width nu fu
  if free then retrain l.near.usable l.far.usable
  else if !otherBad && (l.near.usable &&& ~~~bad) != 0#2 then retrain (l.near.usable &&& ~~~bad) (l.far.usable &&& ~~~bad)
  else dropLink d r v 3 (weakest % 256)

/-- A 1 ms window ends; the lane that had the lowest margin in it is given. The third window in succession over CRC_LIM declares the lane
with the lowest margin over the three failed (R225). -/
def windowEnd (r v weakest margin : Nat) (d : Dev) : Dev :=
  let l := link d r v
  if !linkOk r v then d
  else
    let lim := getF d (optPg r) OPT.CRC_LIM
    let overrun := if lim != 0 && l.crcCnt > lim then l.overrun + 1 else 0
    let low := if l.overrun == 0 || margin < l.margin then (weakest, margin) else (l.weakest, l.margin)
    let d := setLink d r v { l with crcCnt := 0, overrun := if overrun ≥ 3 then 0 else overrun, weakest := low.1, margin := low.2 }
    if overrun < 3 || l.st != .up then d else laneFails r v low.1 4 d

/-- The logical position that a physical lane of a bundle carries, if any (R223). -/
def lanePos (l : Link) (r v lane : Nat) : Option Nat :=
  let g := lane / 35
  let i := lane % 35
  match bypassOf l r v g with
  | some p => if i == p then none else some (34 * g + (if i < p then i else i - 1))
  | none => if i == 34 then none else some (34 * g + i)

/-- The logical lane that a lane of a peer channel carries: 8 is the spare (R209, R211). -/
def peerPos (l : Link) (r v lane : Nat) : Option Nat :=
  match bypassOf l r v 0 with
  | some p => if lane == 8 then some p else if lane == p then none else some lane
  | none => if lane == 8 then none else some lane

/-! ## Combs (R210, R378) -/

def combField (c : Nat) : Fld := if c == 0 then OPT.COMB_STAT_COMB0 else OPT.COMB_STAT_COMB1
def combBias (c : Nat) : Fld := if c == 0 then OPT.COMB_STAT_BIAS0 else OPT.COMB_STAT_BIAS1
def combState (d : Dev) (c : Nat) : Nat := getF d (optPg 0) (combField c)
def setAllOpt (d : Dev) (f : Fld) (v : Nat) : Dev := (List.range 32).foldl (fun d r => setF d (optPg r) f v) d

def combFails (c : Nat) (d : Dev) : Dev :=
  if combState d c == 3 then d
  else
    let o := 1 - c
    let bias := getF d (optPg 0) (combBias c)
    let d := setAllOpt d (combField c) 3
    let d := bark d 0x2601 (optPg 0) (lead d) 1 none none [4, 0xFF, BitVec.ofNat 8 c, 0xFF, 0xFF]
    let d := life d 8 0 ([BitVec.ofNat 8 (c + 1), 1, 0, 0] ++ leBytes 2 bias)
    if combState d o == 3 then
      (List.range 32).foldl (fun d i => (List.range 32).foldl (fun d j => if i < j then loseLink d i j 3 0xFF else d) d) d
    else
      let overrun := Config.combOverLimit d.freeN
      let d := { d with freeN := d.freeN + 1 }
      let ob := getF d (optPg 0) (combBias o)
      if overrun then
        let d := life d 8 0 ([BitVec.ofNat 8 (o + 1), 3, 0, 0] ++ leBytes 2 ob)
        bark d 0x2002 (RAIL.page.pg 41) (lead d) 2 none none [41]
      else life (setAllOpt (setAllOpt d (combField o) 2) (combBias o) (Config.combBase o true).toNat) 8 0 ([BitVec.ofNat 8 (o + 1), 2, 0, 0] ++ leBytes 2 ob)

/-! ## OPT commands (R227, R230, R233): the device after, and the write's status -/

def refuseNow (d : Dev) (pg : Nat) : Dev × Nat := (notNow d pg, stNotNow)
def optLink (d : Dev) (r : Nat) : Nat := getF d (optPg r) OPT.OPT_SEL_LINK

def optRetrain (r : Nat) (joint : Bool) (d : Dev) : Dev × Nat :=
  let v := optLink d r
  if linkPlanned d r v then refuseNow d (optPg r)
  else if !linkOk r v then (d, stOk)
  else if joint then (startJoint d r v .fresh, stOk)
  else if (link d r v).st == .lost then (d, stOk)
  else
    let k : TrainKind := if savedValid d (saveKey r v) (laneOf r v) then .saved else .fresh
    (startTraining d r v k 3#2 3#2, stOk)

/-- LOOP_SELF and LOOP_FAR on the selected link (R233). -/
def optLoop (r : Nat) (far : Bool) (d : Dev) : Dev × Nat :=
  let v := optLink d r
  if linkPlanned d r v || (!far && (v ≥ 32 || v == r)) then refuseNow d (optPg r)
  else if !linkOk r v then (d, stOk)
  else
    let l := link d r v
    let d := { d with freeN := d.freeN + 1 }
    (setLink d r v { l with st := .loopBack, before := if l.st == .loopBack then l.before else l.st, loopFrames := 0,
                            loopBy := some r, loopSelf := !far, loopSeed := Config.freePrbs d.freeN, loopKept := [] }, stOk)

def optLoopEnd (r : Nat) (d : Dev) : Dev × Nat :=
  let v := optLink d r
  let l := link d r v
  if linkPlanned d r v || l.st != .loopBack then refuseNow d (optPg r)
  else (setLink d r v { l with st := l.before, loopBy := none, loopSelf := false, loopKept := [] }, stOk)

/-! ## Slots of a bundle arrive (R220 to R222) -/

/-- Direction of the vertical path that the running step of a core sets: up into the compute die, or down (R100, R220). -/
def pathUp (d : Dev) (n : Nat) : Option Bool :=
  ((core d n).q.find? (fun q => q.eng == .move && q.started && !q.failed && !q.dataDone &&
    [1, 2, 7, 8, 9, 10, 11].contains (wOp q.word.toNat))).map (fun q => wOp q.word.toNat != 2 && wOp q.word.toNat != 7)

/-- Logical core over a bundle. -/
def bundleCore (d : Dev) (t b : Nat) : Option Nat :=
  let k := 4 * t + b / 34
  ((List.range 32).find? (fun c => siteOf d (32 * k + c) == some (b % 34))).map (32 * k + ·)

/-- A token message on a token lane of a bundle (R132): grant, release or acknowledge. -/
def tokenWord (t : Nat) (w : BitVec 32) (d : Dev) : Dev :=
  let n := w.toNat
  let p := bits n 29 21
  let u := bits n 20 14
  let turn := bits n 13 0
  if p ≥ 236 then d
  else match bits n 31 30 with
    | 0 => grantArrives t p u turn true d
    | 1 => releaseArrives t p u turn true d
    | 2 => ackArrives t p turn true d
    | _ => d

/-- A message word of an accepted slot (R221). A request or completion of the vertical path and a word of a whistle message have no
effect of their own, nor has a reserved type (log entry 109). -/
def slotWord (t b : Nat) (up : Bool) (mt : Nat) (w : BitVec 32) (d : Dev) : Dev :=
  match mt with
  | 1 => tokenWord t w d
  | 4 => trainArrives t (64 + b) up w d
  | _ => d

def slotWords (t b : Nat) (up : Bool) (f : BundleSlot) (d : Dev) : Dev :=
  slotWord t b up f.mt1.toNat f.word1 (slotWord t b up f.mt0.toNat f.word0 d)

/-- A slot that the sender has sent stands in its window of 32, after those before it that have not arrived (R222). -/
def sentUpTo (seq : Nat) (data : List Byte) (c : Chan) : Chan :=
  let k := (seq + seqBundle - c.txNext) % seqBundle
  if k < seqBundle / 2 && c.unacked.length + k < winBundle then
    { c with txNext := (seq + 1) % seqBundle,
             unacked := c.unacked ++ (List.range k).map (fun i => ⟨(c.txNext + i) % seqBundle, 0, [], 0⟩) ++ [⟨seq, 0, data, 0⟩] }
  else c

/-- A data frame that an end of a bundle in LOOP_FAR meets: the base die keeps 32 sent down; one that comes up is compared with the oldest
kept (R233). -/
def loopSlot (t v : Nat) (up : Bool) (data : List Byte) (l : Link) (d : Dev) : Dev :=
  if !up then (if l.loopKept.length < 32 then setLink d t v { l with loopKept := l.loopKept ++ [data] } else d)
  else
    match l.loopKept with
    | [] => d
    | k :: r =>
      count (setLink d t v { l with loopFrames := l.loopFrames + 1, loopKept := r }) (optPg t) OPT.LOOP_ERRORS (mismatches k data)

/-- A control slot with its data frame arrives at the end of a bundle. While the link trains, its training words alone act. -/
def slotArrives (t b : Nat) (up : Bool) (f : BundleSlot) (d : Dev) : Dev :=
  let v := 64 + b
  let l := link d t v
  let data := if f.dkind == 1#2 then nBytes (64 * (f.nu.toNat + 1)) f.data else []
  if l.st == .training || l.st == .widthRetrain then
    if slotCrc f != f.crc then d
    else
      let one (mt : BitVec 4) (w : BitVec 32) (d : Dev) : Dev := if mt == 4#4 then trainArrives t v up w d else d
      one f.mt1 f.word1 (one f.mt0 f.word0 d)
  else if l.st == .loopBack then (if f.dkind == 1#2 then loopSlot t v up data l d else d)
  else if l.st != .up then d
  else if slotCrc f != f.crc then
    let d := count d (optPg t) OPT.CRC_FAILS 1
    let d := setLink d t v { l with crcCnt := l.crcCnt + 1 }
    setBundle d t b up { bundle d t b up with nak := true }
  else
    let back := bundle d t b (!up)
    let back := takeAck winBundle seqBundle back.expect f.ack.toNat back
    let back := if f.nak && back.unacked.isEmpty then sentUpTo f.ack.toNat [] back else back
    let (back, replay, overrun) := takeNak 8 f.ack.toNat f.nak back
    let d := setBundle d t b (!up) back
    let d := if replay then count d (optPg t) OPT.REPLAYS 1 else d
    if overrun then dropLink d t v 3 0xFF
    else
      let sequenced := f.dkind == 1#2 || f.mt0 != 0#4 || f.mt1 != 0#4
      let c := bundle d t b up
      let c := if sequenced then sentUpTo f.seq.toNat data c else c
      match seqPlace seqBundle c.expect f.seq.toNat with
      | 0 =>
        if !sequenced then d
        else if !c.unacked.any (fun x => x.seq == f.seq.toNat) then d
        else
          let path := (bundleCore d t b).bind (pathUp d)
          let c := { c with expect := (c.expect + 1) % seqBundle, nak := false,
                            rx := if f.dkind == 1#2 && path == some up then [⟨f.seq.toNat, 1, data, 0⟩] else c.rx }
          slotWords t b up f (setBundle d t b up c)
      | 1 => setBundle d t b up { c with nak := true }
      | _ => setBundle d t b up (if sequenced then { c with nak := true } else c)

end Sys2Proof.Machine
end

