-- ==== Sys2Proof/Machine/Whistle.lean ====
section
/-!
DEFINITION. The slot tables of the whistle rings: the flat-share rule, the table checker, and the commands CHECK, TAKE
and the change of tables at a frame boundary (R145 to R150). A ring is named by its page (a region 0 to 31, or 32 for the
package) and its number on that page (0 to 3 pack rings, 4 region ring, 7 trunk).
-/
namespace Sys2Proof.Machine

/-- Ring selected by WHS_SEL. -/
def ringSel (d : Dev) (w : Nat) : Nat := getF d (whsPg w) WHS.WHS_SEL_RING

/-- A leaf as the flat-share rule sees it: its ring address and station, its weight, and the station at which it enters
the ring in question. -/
structure ShareLeaf where
  addr : Nat
  station : Nat
  weight : Nat
  enters : Nat
deriving DecidableEq, Repr

def weightByte (d : Dev) (w k t : Nat) : Nat := (mget (0 : BitVec 8) (ring d w k).weight t).toNat

/-- Leaves of a ring itself, entering at their own stations. DESIGN CHOICE (log entry 97): the trunk, whose address bits 13:9 name no
region, ranks after every region's rings in the tie-break of R146. -/
def ownLeaves (d : Dev) (w k : Nat) : List ShareLeaf :=
  let sts := if k < 4 then List.range 34 else if k == 4 then [4, 5] else (List.range 20).map (· + 32)
  sts.map (fun t => ⟨8 * w + k, t, weightByte d w k t / 16, t⟩)

/-- Leaves of pack ring `p` of region `r` whose reach is at least `n`. -/
def packLeaves (d : Dev) (r p n at_ : Nat) : List ShareLeaf :=
  ((List.range 34).filter (fun t => weightByte d r p t / 4 % 4 ≥ n)).map
    (fun t => ⟨8 * r + p, t, weightByte d r p t / 16, at_⟩)

/-- The downward leaf of a pack ring or region ring, which enters at its joint (R145). -/
def downLeaf (d : Dev) (w k : Nat) : List ShareLeaf :=
  if k < 4 then [⟨8 * w + k, 34, weightByte d w k 34 / 16, 34⟩]
  else if k == 4 then [⟨8 * w + k, 6, weightByte d w k 6 / 16, 6⟩]
  else []

/-- The set S of a ring (R146). -/
def shareSet (d : Dev) (w k : Nat) : List ShareLeaf :=
  let below :=
    if k < 4 then []
    else if k == 4 then (List.range 4).flatMap (fun p => packLeaves d w p 1 p)
    else (List.range 32).flatMap (fun r =>
      (List.range 4).flatMap (fun p => packLeaves d r p 2 r) ++ (ownLeaves d r 4).map (fun l => { l with enters := r }))
  ownLeaves d w k ++ below ++ downLeaf d w k

/-- Does leaf `a` take a further slot before leaf `b` (R146)? -/
def furtherFirst (tot : Nat) (a b : ShareLeaf) : Bool :=
  let fa := 256 * a.weight % tot
  let fb := 256 * b.weight % tot
  fa > fb || (fa == fb && (a.station < b.station || (a.station == b.station && a.addr < b.addr)))

/-- The slots of each leaf of S (R146). -/
def shares (s : List ShareLeaf) : List (ShareLeaf × Nat) :=
  let tot := (s.map (·.weight)).foldl (· + ·) 0
  if tot == 0 then s.map (·, 0)
  else
    let base := s.map (fun l => (l, 256 * l.weight / tot))
    let left := 256 - (base.map (·.2)).foldl (· + ·) 0
    base.map (fun x =>
      let before := (s.filter (fun l => furtherFirst tot l x.1)).length
      if before < left && x.1.weight > 0 then (x.1, x.2 + 1) else x)

/-- Slots a station owns. -/
def owned (sh : List (ShareLeaf × Nat)) (t : Nat) : Nat :=
  ((sh.filter (fun x => x.1.enters == t)).map (·.2)).foldl (· + ·) 0

def tableCrc (tb : List Nat) : Nat := crc32c (tb.map (BitVec.ofNat 8))

def pendTable (d : Dev) (w k : Nat) : List Nat := (List.range 256).map (fun i => (mget (0 : BitVec 8) (ring d w k).pend i).toNat)

/-- Slots of a table that a station owns. -/
def slotsOf (tb : List Nat) (t : Nat) : List Nat := (List.range tb.length).filter (fun i => tb.getD i 256 == t)

/-- No cyclic gap between consecutive owned slots exceeds the limit (R147). -/
def gapOk (lim : Nat) (sl : List Nat) : Bool :=
  match sl with
  | [] => true
  | a :: _ =>
    let nxt := sl.drop 1 ++ [a + 256]
    (sl.zip nxt).all (fun x => x.2 - x.1 ≤ lim)

/-- First slot at fault in a station's gaps: the slot after which the gap is too long. -/
def gapAt (lim : Nat) (sl : List Nat) : Nat :=
  match sl with
  | [] => 0
  | a :: _ => (((sl.zip (sl.drop 1 ++ [a + 256])).find? (fun x => !decide (x.2 - x.1 ≤ lim))).map (·.1)).getD 0

/-- The table checker: RESULT and AT for a table of a ring (R147, R150). -/
def checkTable (d : Dev) (w k : Nat) (tb : List Nat) (crc : Nat) : Nat × Nat :=
  let n := ringSize k
  match (List.range 256).find? (fun i => !decide (tb.getD i 256 < n)) with
  | some i => (2, i)
  | none =>
    let sh := shares (shareSet d w k)
    match (List.range n).find? (fun t => (slotsOf tb t).length != owned sh t) with
    | some t => (3, t)
    | none =>
      let downs := (downLeaf d w k).map (·.station)
      match sh.find? (fun x => x.2 == 0 && (x.1.weight ≥ 1 || (downs.contains x.1.station && x.1.addr == 8 * w + k))) with
      | some x => (4, x.1.enters)
      | none =>
        let lim := fun t => 2 * ((256 + (slotsOf tb t).length - 1) / (slotsOf tb t).length)
        match (List.range n).find? (fun t => !gapOk (lim t) (slotsOf tb t)) with
        | some t => (5, gapAt (lim t) (slotsOf tb t))
        | none => if tableCrc tb == crc then (1, 0) else (6, 0)

/-- An evenly spread table: each slot goes to the station whose next slot is due first among those whose next slot may be
placed already. -/
def spreadTable (need : List (Nat × Nat)) : Nat → List (Nat × Nat) → List Nat
  | 0, _ => []
  | f + 1, done =>
    let i := 256 - (f + 1)
    let ready := (need.zip done).filter (fun x => x.1.2 > 0 && x.2.2 < x.1.2 && x.2.2 * 256 ≤ (i + 1) * x.1.2 - 1)
    let best := ready.foldl (fun b x =>
      let due := (x.2.2 + 1) * 256 * 1024 / x.1.2
      match b with
      | none => some (x.1.1, due)
      | some (t, u) => if due < u then some (x.1.1, due) else some (t, u)) none
    let t := (best.map (·.1)).getD 0
    t :: spreadTable need f (done.map (fun y => if y.1 == t then (y.1, y.2 + 1) else y))

/-- The table firmware computes for a ring: a placement of its own choosing that passes the checker (R146, R148). -/
def firmwareTable (d : Dev) (w k : Nat) : List Nat :=
  let free := (Config.freeSlotTable w k d.freeN).map (·.toNat)
  if (checkTable d w k free (tableCrc free)).1 == 1 then free
  else
    let sh := shares (shareSet d w k)
    let sts := List.range (ringSize k)
    spreadTable (sts.map (fun t => (t, owned sh t))) 256 (sts.map (fun t => (t, 0)))

/-- Rings of the package: 160 of the regions and the trunk. -/
def allRings : List (Nat × Nat) := (List.range 32).flatMap (fun r => (List.range 5).map (fun k => (r, k))) ++ [(32, 7)]

/-- Weight of a station. -/
def setWeight (d : Dev) (w k t v reach : Nat) : Dev :=
  let x := ring d w k
  setRing d w k { x with weight := mput (0 : BitVec 8) x.weight t (BitVec.ofNat 8 (v % 16 * 16 + reach % 4 * 4)) }

/-- A failed check raises bark 0x2A01 and counts (R148, R150); `status` is that of the plan load that fails with it (R305). -/
def checkFailed (d : Dev) (w k r a : Nat) (status : Option Nat) : Dev :=
  let d := count d (whsPg w) WHS.CHECK_FAILS 1
  let die := if w == 32 then lead d else w / 4
  bark d 0x2A01 (whsPg w) die 2 (if w == 32 then none else partOf d w) status
    (leBytes 8 (k + r * 256 + a * 65536))

/-- A table that firmware has written, checked and taken becomes a ring's active table (R148). -/
def adoptTable (d : Dev) (w k : Nat) (tb : List Nat) : Dev :=
  let x := ring d w k
  let cells := (List.range tb.length).zip (tb.map (BitVec.ofNat 8))
  setRing d w k { x with active := tb.map (BitVec.ofNat 8), take := false, taken := [], pendCrc := BitVec.ofNat 32 (tableCrc tb),
                         pend := cells.filter (fun c => c.2 != 0), result := 1, at_ := 0 }

/-- Firmware computes, checks and takes the table of every named ring; a table that fails its check raises a bark, which reports the plan load
that `status` fails, and the answer is then false (R148). -/
def takeTables (status : Option Nat) (d : Dev) : List (Nat × Nat) → Dev × Bool
  | [] => (d, true)
  | (w, k) :: r =>
    let tb := firmwareTable d w k
    let (res, pos) := checkTable d w k tb (tableCrc tb)
    if res == 1 then takeTables status (adoptTable d w k tb) r else ((takeTables status (checkFailed d w k res pos status) r).1, false)

/-- CHECK (R147): RESULT and AT of the selected ring's pending table. -/
def whsCheck (w : Nat) (d : Dev) : Dev × Nat :=
  let k := ringSel d w
  let (r, a) := checkTable d w k (pendTable d w k) (ring d w k).pendCrc.toNat
  let d := setRing d w k { ring d w k with result := r, at_ := a }
  if r == 1 then (d, stOk) else (checkFailed d w k r a none, stOk)

/-- TAKE (R148): the checked pending table is taken at the next frame boundary. The table taken is the one that passed: a write to the
pending table, its CRC or the weights voids the check (log entry 13). -/
def whsTake (w : Nat) (d : Dev) : Dev × Nat :=
  let k := ringSel d w
  let x := ring d w k
  if x.result == 1 then (setRing d w k { x with take := true, taken := (pendTable d w k).map (BitVec.ofNat 8) }, stOk)
  else (notNow d (whsPg w), stNotNow)

/-- A ring's frame boundary: the frame's slots are counted (R142, R150), and after a TAKE the ring changes to the taken table (R148). -/
def slotTableSwitch (w k : Nat) (d : Dev) : Dev :=
  let x := ringFrame (ring d w k)
  if !ringLegal w k then d
  else if x.take then setRing d w k { x with active := x.taken, take := false, taken := [] }
  else setRing d w k x

/-- WHS_STAT of the selected ring (R150). MIN_SLOTS has 8 bits: what it shows for 256 slots is a free value (log entry 99), and the reserved
bits above it read 0 (R10). -/
def whsStat (d : Dev) (w : Nat) : Nat :=
  let k := ringSel d w
  let x := ring d w k
  let crc := if x.active.isEmpty then 0 else crc32c x.active
  let heavy := (List.range (ringSize k)).filter (fun t => weightByte d w k t ≥ 16)
  let cnts := heavy.map (fun t => (x.active.filter (fun b => b.toNat == t)).length)
  let least := match cnts with | [] => 0 | c :: cs => cs.foldl min c
  crc * 2 ^ 32 + (if least < 256 then least else Config.freeMinSlots.toNat) * 2 ^ 16 + ringSize k

end Sys2Proof.Machine
end

