-- ==== Sys2Proof/Machine/Host.lean ====
section
/-!
DEFINITION. Host accesses to tower memory and what else a bank column does between turns: host pieces in FETCH turns
(R174), the commands of the TWR page (R181), sweeps (R169), refresh (R171) and the end of a FETCH turn (R127).
-/
namespace Sys2Proof.Machine

/-- Die that a Narta port stands on (R264). -/
def portDie (h : Nat) : Nat := if h == 0 then 0 else 7

/-- Does the column serve host accesses now: its port stands at a FETCH turn, or it has no plan loaded (R127, R174)? -/
def fetchNow (d : Dev) (t b : Nat) : Bool :=
  let x := port d t b
  !(tower d t).hold &&
    (colIdle d t b ||
      (x.place == .atPort && match portEntry b x with | some e => oeKind e == oeFetch | none => false))

/-! ## What a piece's outcome answers -/

/-- Every piece of a host request leaves the column's queue. -/
def dropRequest (d : Dev) (t b h tag : Nat) : Dev :=
  let c := column d t b
  setColumn d t b { c with queue := c.queue.filter (fun p =>
    match p.purpose with
    | .hostRead h' tag' _ _ _ => !(h' == h && tag' == tag)
    | _ => true) }

/-- A job's outstanding read ends: bytes, or the status of its failure. -/
def jobData (d : Dev) (id : Nat) (r : Except Nat (List Byte)) : Dev :=
  match mget none d.jobs id with
  | none => d
  | some j =>
    let j := match r with
      | .ok bs => { j with buf := j.buf ++ bs, addr := j.addr + bs.length, left := j.left - bs.length, busy := false }
      | .error s => { j with busy := false, fail := some s }
    { d with jobs := mput none d.jobs id (some j) }

/-- Bark 0x1703 for a host request that fails with a status, or is discarded as malformed (R277, R280, R282, R285; log entry 116). -/
def badRequest (d : Dev) (h tag seq addr status : Nat) : Dev :=
  bark d 0x1703 (hlkPg h) (portDie h) 1 none (some status)
    ([BitVec.ofNat 8 h] ++ leBytes 2 tag ++ leBytes 2 seq ++ zeros 3 ++ leBytes 8 addr)

/-- HOST_LAT_MAX takes the time a host read has spent in the base die, in reference cycles (R182). -/
def showLatency (d : Dev) (t came : Nat) : Dev :=
  let n := mget 0 d.ticks (regionDie t) - came
  if getF d (twrPg t) TWR.HOST_LAT_MAX < n then setF d (twrPg t) TWR.HOST_LAT_MAX n else d

def answerRead (d : Dev) (t b : Nat) (p : Purpose) (r : Except Nat (List Byte)) : Dev :=
  match p, r with
  | .hostRead h tag off last came, .ok bs => sendCpl (showLatency d t came) h tag off stOk last bs
  | .hostRead h tag off _ _, .error s => sendCpl (dropRequest d t b h tag) h tag off s true []
  | .job id, r => jobData d id r
  | _, _ => d

def answerWrite (d : Dev) (t : Nat) (pc : Piece) (r : Option Nat) : Dev :=
  match pc.purpose, r with
  | .hostWrite h _ seq, some s => badRequest d h 0 seq (devAddr t pc.page pc.off) s
  | _, _ => d

/-- A TWR command ends: its outcome in TWR_CMD_STAT. -/
def twrEnds (d : Dev) (t status : Nat) : Dev :=
  let d := setF d (twrPg t) TWR.TWR_CMD_STAT_BUSY 0
  let d := setF d (twrPg t) TWR.TWR_CMD_STAT_STATUS status
  if status == stNotNow then notNow d (twrPg t) else d

/-- A command of the TWR page served in its bank column; none while a clear waits for a sweep (R169). SWEEP is without effect while
any sweep of the tower runs (R181); SWEEP of a RETIRED page, for which the spec gives no outcome, completes with UNCORR as
an access to it does (DESIGN CHOICE, log entry 104). -/
def serveCommand (d : Dev) (t k : Nat) (kind : PieceKind) : Option Dev :=
  let e := entry d t k
  match kind with
  | .setAttr perm part =>
    if meState e == meAbsent then some (twrEnds d t stNotNow)
    else some (twrEnds (setEntry d t k (meSet (meSet e 58 55 perm.toNat) 61 59 part.toNat)) t stOk)
  | .sweep =>
    if meState e == meAbsent then some (twrEnds d t stNotNow)
    else if meState e == meRetired then some (twrEnds d t stUncorr)
    else if (tower d t).sweep.isSome then some (twrEnds d t stOk)
    else some (twrEnds (startSweep d t k) t stOk)
  | .clear | .clearWaits =>
    match clearPage d t k with
    | (d, .done) => some (twrEnds d t stOk)
    | (d, .notNow) => some (twrEnds d t stNotNow)
    | (_, .wait) => none
  | _ => some d

/-- A page of a release's list has been cleared or passed over (R257). -/
def kvDone (d : Dev) (i skipped : Nat) : Dev :=
  match mget none d.items i with
  | some it => { d with items := mput none d.items i (some { it with left := it.left - 1, skipped := it.skipped + skipped }) }
  | none => d

/-- A page of a release's list: one that is ABSENT or another partition's is passed over; none while its clear waits for a sweep (R257). -/
def serveKv (d : Dev) (t k i : Nat) : Option Dev :=
  match mget none d.items i with
  | none => some d
  | some it =>
    if it.ended then some d
    else if meState (entry d t k) == meAbsent || mePart (entry d t k) != it.part then some (kvDone d i 1)
    else
      match clearPage d t k with
      | (_, .wait) => none
      | (d, _) => some (kvDone d i 0)

/-- A clear, SET_ATTR or SWEEP at the head of a queue, for a command or for a release. -/
def servePage (d : Dev) (t : Nat) (p : Piece) : Option Dev :=
  match p.purpose with
  | .kvClear i => serveKv d t p.page i
  | _ => serveCommand d t p.page p.kind

/-- Is a read one of the walkers'? -/
def walkJob (d : Dev) (id : Nat) : Bool :=
  match mget none d.jobs id with
  | some j => (match j.kind with | .table _ | .walk _ | .kv _ => true | _ => false)
  | none => false

/-- Whose access a piece is: the walkers' pass every check but the host's permission (R253). -/
def pieceWho (d : Dev) (p : Purpose) : Who :=
  match p with
  | .walker => .device
  | .job id => if walkJob d id then .device else .host
  | _ => .host

/-- The head of a bank column's queue is served, or stays there. -/
def serveHead (d : Dev) (t b : Nat) : Dev :=
  let c := column d t b
  match c.queue with
  | [] => d
  | p :: rest =>
    let out := setColumn d t b { c with queue := rest }
    let a := devAddr t p.page p.off
    match p.kind with
    | .read =>
      match readTower out (pieceWho d p.purpose) a p.len with
      | (d, .ok bs) => answerRead (count d (twrPg t) TWR.HOST_READS 1) t b p.purpose (.ok bs)
      | (d, .error s) => answerRead d t b p.purpose (.error s)
    | .write bs =>
      match writeTower out (pieceWho d p.purpose) a bs with
      | (d, none) => answerWrite (count d (twrPg t) TWR.HOST_WRITES 1) t p none
      | (d, some s) => answerWrite d t p (some s)
    | kind =>
      match servePage out t p with
      | some d => d
      | none =>
        if kind == .clearWaits then d
        else
          let d := setColumn d t b { c with queue := { p with kind := .clearWaits } :: rest }
          count (startSweep d t p.page) (twrPg t) TWR.CLEAR_WAITS 1

/-- HOST_PIECE (R174). -/
def hostPiece (t b : Nat) (d : Dev) : Dev := if fetchNow d t b then serveHead d t b else d

/-! ## The TWR page (R181) -/

/-- The ledger pages of a tower (R253). -/
def ledgerPage (p : Part) (k : Nat) : Bool := k + 2 == Config.pages p || k + 1 == Config.pages p

/-- A command of the TWR page that ends as it is written: its outcome stands in STATUS, and a command that runs goes on. -/
def twrEndsNow (d : Dev) (t status : Nat) : Dev × Nat :=
  let d := setF d (twrPg t) TWR.TWR_CMD_STAT_STATUS status
  (if status == stNotNow then notNow d (twrPg t) else d, status)

/-- A non-zero OP written to TWR_CMD: 1 CLEAR, 2 SET_ATTR, 3 SWEEP. -/
def twrCommand (t op k perm part : Nat) (d : Dev) : Dev × Nat :=
  let absent := meState (entry d t k) == meAbsent
  if k ≥ Config.pages d.kind then twrEndsNow d t stMalformed
  else if getF d (twrPg t) TWR.TWR_CMD_STAT_BUSY == 1 || absent ||
      (op == 2 && ((mget none (tower d t).place k).isSome || ledgerPage d.kind k)) then
    twrEndsNow d t stNotNow
  else
    let kind := if op == 1 then PieceKind.clear
      else if op == 2 then .setAttr (BitVec.ofNat 4 perm) (BitVec.ofNat 3 part) else .sweep
    let b := pageCol d t k
    let d := setF d (twrPg t) TWR.TWR_CMD_STAT_BUSY 1
    let first := (column d t b).queue.isEmpty
    let d := queuePiece d t b ⟨k, 0, 0, kind, .twrCmd⟩
    (if first then hostPiece t b d else d, stOk)

/-- MIGRATE written to TWR_XCMD (R178, R181). -/
def twrMigrate (t k : Nat) (d : Dev) : Dev × Nat :=
  let e := entry d t k
  if k ≥ Config.pages d.kind then twrEndsNow d t stMalformed
  else if getF d (twrPg t) TWR.TWR_CMD_STAT_BUSY == 1 || meState e == meAbsent || meState e == meRetired ||
      planLoaded d (mePart e) then twrEndsNow d t stNotNow
  else
    match frameFor d t k with
    | none => twrEndsNow d t stNotNow
    | some g =>
      match migratePage d t k g false with
      | (d, true) => twrEndsNow d t stOk
      | (d, false) => twrEndsNow d t stUncorr

/-- LAT_RESTART (R182). -/
def latRestart (t : Nat) (d : Dev) : Dev := setF d (twrPg t) TWR.HOST_LAT_MAX 0

/-! ## Sweeps, refresh and the end of a FETCH turn -/

/-- May a sweep or the scrubber work in a column now (R169, R418)? -/
def backgroundNow (d : Dev) (t b : Nat) : Bool :=
  fetchNow d t b &&
    match (column d t b).queue with
    | [] => true
    | p :: _ => p.kind == .clearWaits

/-- A clear that waited at the head of a column's queue goes on when the sweep has ended (R169). -/
def afterSweep (d : Dev) (t b : Nat) : Dev :=
  match (column d t b).queue with
  | p :: _ => if p.kind == .clearWaits then hostPiece t b d else d
  | [] => d

/-- A floor clear holds its turn while it waits for the sweep, which then runs in that turn. -/
def floorWaits (d : Dev) (t : Nat) : Bool := (floor d t).clearWait.isSome

/-- SWEEP_BLOCK (R168, R169). -/
def sweepBlock (t : Nat) (d : Dev) : Dev :=
  match (tower d t).sweep with
  | none => d
  | some sw =>
    let b := frameCol (meFrame (entry d t sw.page))
    if backgroundNow d t b || floorWaits d t then afterSweep (sweepOne d t) t b else d

/-- The tower's refresh band (R170). -/
def bandNow (d : Dev) (t : Nat) : Nat := getF d (twrPg t) TWR.TWR_STAT_BAND

/-- Leave a FETCH turn: the port goes on along its list. -/
def leaveFetch (d : Dev) (t b : Nat) : Dev := serve (leaveEntry d t b) t b serveFuel

/-- Operations of a column in idle time, until its debt is below 1 (R171, rule 5). -/
def idleOps (t b : Nat) : Nat → Dev → Dev
  | 0, d => d
  | n + 1, d => if (column d t b).debt ≥ 1 then idleOps t b n (refreshOp d t b TWR.REFRESH_IDLE) else d

/-- A column with no host access waiting and debt of 1 or more refreshes: once in a FETCH turn, which ends with the operation,
and until its debt is below 1 in idle time, where it behaves as though no plan were loaded (R171, R173). -/
def idleRefresh (d : Dev) (t b : Nat) : Dev :=
  if fetchNow d t b && (column d t b).queue.isEmpty then
    if colIdle d t b then idleOps t b 8 d
    else if (column d t b).debt ≥ 1 then leaveFetch (refreshOp d t b TWR.REFRESH_IDLE) t b
    else d
  else d

/-- A refresh tick: the debt of every column rises by 1, at most to 8 (R171); the layers of a tower
in reset are in self-refresh (R351). -/
def refreshTick (t : Nat) (d : Dev) : Dev :=
  if (tower d t).hold then d
  else (List.range 136).foldl (fun d b =>
    let c := column d t b
    idleRefresh (setColumn d t b { c with debt := min 8 (c.debt + 1) }) t b) d

/-- A forced operation of a column in debt 8; a running floor command that selects the column pauses in every one of its columns
(R171). -/
def refreshForced (t b : Nat) (d : Dev) : Dev :=
  if !(tower d t).hold && (column d t b).debt ≥ 8 then
    let d := count (refreshOp d t b TWR.STRETCHES) (twrPg t) TWR.STRETCH_FORCED 1
    if floorSelects d t b then
      let f := floor d t
      setFloor d t { f with st := .wait, wait := 6, time := { f.time with pause := pauseTicks } }
    else d
  else d

/-- A stretch at a boundary: in a running floor command, at the end of 512 M-cycles, it takes in every column of the command; else it is the
column's own. A column at 8 does not wait for the boundary (R171, R205). -/
def refreshStretch (t b : Nat) (d : Dev) : Dev :=
  if (tower d t).hold || (column d t b).debt < 4 then d
  else if (column d t b).debt ≥ 8 then refreshForced t b d
  else if floorSelects d t b then floorBoundary t d
  else refreshOp d t b TWR.STRETCHES

/-- May a clear that waits hold the column's FETCH turn (R169)? -/
def turnHeld (d : Dev) (t b : Nat) : Bool :=
  match (column d t b).queue with
  | p :: _ => p.kind == .clearWaits
  | [] => false

/-- A FETCH turn ends (R127), except one that a waiting clear holds (R169); a column with no plan loaded passes from one FETCH turn to
the next. -/
def fetchTurnEnd (t b : Nat) (d : Dev) : Dev :=
  let x := port d t b
  let sc := (tower d t).scrub
  let d := if !(tower d t).hold && sc.running && sc.behind && fetchNow d t b && frameCol (meFrame (entry d t sc.page)) == b then
    count d (SCRB.page.pg t) SCRB.AHEAD_TURNS 1 else d
  if (tower d t).hold || turnHeld d t b then d
  else if x.ended && x.list.isSome then
    idleRefresh (count (setPort d t b { x with turn := (x.turn + 1) % 65536 }) (twrPg t) TWR.FETCH_TURNS 1) t b
  else if colIdle d t b then leaveFetch (idleRefresh d t b) t b
  else if fetchNow d t b then
    let d := if (column d t b).queue.isEmpty && (column d t b).debt ≥ 1 then refreshOp d t b TWR.REFRESH_IDLE else d
    leaveFetch d t b
  else d

end Sys2Proof.Machine
end

