-- ==== Sys2Proof/Machine/Narta.lean ====
section
/-!
DEFINITION. The Narta ports (chapter 10): flits and replay, failure and failover, changes of home, training, and the host's
transactions from their acceptance to their completion, but for the access of a control register itself.
-/
namespace Sys2Proof.Machine

/-! ## Jobs' reads (R281) -/

/-- The lowest free device tag of a port (R282). -/
def freeTag (n : Narta) : Option Nat := (List.range 4096).find? (fun t => (mget none n.reads t).isNone)

/-- An MRD goes out on a port under a new tag. -/
def sendRead (d : Dev) (h addr len : Nat) (p : ReadFor) : Option Dev :=
  match freeTag (narta d h) with
  | none => none
  | some t =>
    let n := narta d h
    let d := setNarta d h { n with reads := mput none n.reads t (some ⟨addr, len, [], p⟩) }
    some (sendOn d h (mkTlp tMrd t 0 false 0 len addr []))

/-- A job with bytes left and no read outstanding issues its next one: at most 4,096 bytes within a 4 KiB span of host
memory, or 256 bytes within a span of tower memory. -/
def jobIssue (d : Dev) (id : Nat) : Dev :=
  match mget none d.jobs id with
  | none => d
  | some j =>
    if j.busy || j.left == 0 || j.fail.isSome then d
    else if j.host then
      if (mget none d.change j.who).isSome then d
      else
        match route d j.who with
        | none => d
        | some h =>
          match sendRead d h j.addr (min j.left (4096 - j.addr % 4096)) (.job id) with
          | none => d
          | some d => { d with jobs := mput none d.jobs id (some { j with busy := true }) }
    else
      let a := j.addr % 2 ^ 44
      match addrKind d.kind a with
      | .tower t k o =>
        let d := { d with jobs := mput none d.jobs id (some { j with busy := true }) }
        queuePiece d t (pageCol d t k) ⟨k, o, min j.left (256 - o % 256), .read, .job id⟩
      | _ =>
        let src := if j.who < 8 then partPg j.who else BOOT.page.pg 0
        barkReserved { d with jobs := mput none d.jobs id (some { j with fail := some stMalformed }) } src a

def newJob (d : Dev) (kind : JobKind) (host : Bool) (who addr len : Nat) : Dev :=
  let id := d.nextJob
  jobIssue { d with nextJob := id + 1, jobs := mput none d.jobs id (some ⟨kind, host, who, addr, len, [], false, none⟩) } id

/-- Is the flush of a change of home outstanding on the old port? -/
def flushOut (d : Dev) (who : Nat) : Bool :=
  (narta d (homeOf d who)).reads.any (fun r => match r.2 with | some q => q.purpose == .flush who | none => false)

/-- The flush that a change of home waits for goes out on the old port, once a tag is free (R282, R289). -/
def flushIssue (d : Dev) (who : Nat) : Dev :=
  if (mget none d.change who).isNone || flushOut d who then d else (sendRead d (homeOf d who) 0 0 (.flush who)).getD d

/-- Jobs and flushes that wait for a port or a tag try again. -/
def jobsIssue (d : Dev) : Dev :=
  (d.jobs.map (·.1)).foldl jobIssue ((d.change.map (·.1)).foldl flushIssue d)

/-! ## Port state, failure and failover (R275, R289, R290, R292) -/

/-- What waited for a change of home or system port goes out (R289). -/
def endChange (d : Dev) (who : Nat) : Dev :=
  match mget none d.change who with
  | none => d
  | some h =>
    let mine := (d.changeTlps.filter (fun x => x.1 == who)).map (·.2)
    let d := { d with change := mput none d.change who none,
                      changeTlps := d.changeTlps.filter (fun x => x.1 != who) }
    let d := setHome d who h
    jobsIssue (mine.foldl (fun d x => sendFor d who x) d)

/-- Host requests of port `x` that end through a failover (R290 step 5): not begun, begun, or with a last CPL that is not
acknowledged. -/
def failoverTags (n : Narta) (x : Nat) : Nat :=
  ((n.unacked.map (·.tlp) ++ n.wait).filter (fun t => tlpClass t == 2 && tlpLast t && tlpOrig t == x)).length +
    (n.tags.filter (fun p => p.2 == some x && !n.wait.any (lastCpl x p.1))).length

/-- Has the port accepted the last completion of a device read? Accepted completions are carried out whatever then happens to
the port (R268). -/
def readEnds (n : Narta) (tag : Nat) : Bool :=
  n.rx.any (fun r => tlpClass r.tlp == 2 && tlpTag r.tlp == tag && tlpLast r.tlp)

/-- Jobs whose read is outstanding on the port. -/
def jobReads (n : Narta) : List (Nat × Nat × Nat) :=
  n.reads.filterMap (fun r => match r.2 with
    | some q => (match q.purpose with | .job i => if readEnds n r.1 then none else some (i, q.addr, q.len) | _ => none)
    | none => none)

/-- A job whose read could not be issued again waits for a tag or for a port. -/
def jobWaits (d : Dev) (id : Nat) : Dev :=
  match mget none d.jobs id with
  | some j => { d with jobs := mput none d.jobs id (some { j with busy := false }) }
  | none => d

/-- The BARK messages of the barks raised so far, on port `y` (R290 step 2). -/
def barksOn (d : Dev) : Dev × List Bark :=
  let bs := d.evt.raised
  let change := d.change
  let d := bs.foldl barkOut { d with evt := { d.evt with raised := [] }, change := mput none change sysWho none }
  ({ d with change := change }, bs)

/-- What port `x` leaves to port `y`, which is up (R290): `n` is port x as it stopped. -/
def failover (d : Dev) (n : Narta) (x y : Nat) : Dev :=
  let posted := (n.unacked.map (·.tlp)).filter (fun t => tlpClass t == 0)
  let late := n.wait.filter (fun t => tlpClass t == 0)
  let cpls := (n.unacked.map (·.tlp) ++ n.wait).filter (fun t => tlpClass t == 2)
  let undone := (n.rx.filter (fun r => tlpClass r.tlp == 1)).map (fun r => tlpTag r.tlp) ++ n.flushes.map (·.1)
  let jobs := jobReads n
  let changing := d.change.map (·.1)
  let d := (List.range 9).foldl (fun d w => if homeOf d w == x then setHome d w y else d) d
  let (d, barks) := barksOn d
  let d := posted.foldl (fun d t => sendOn d y t) d
  let d := late.foldl (fun d t => sendOn d y t) d
  let d := jobs.foldl (fun d q => (sendRead d y q.2.1 q.2.2 (.job q.1)).getD (jobWaits d q.1)) d
  let m := narta d x
  let d := setNarta d x { m with rx := m.rx.filter (fun r => tlpClass r.tlp != 1), flushes := [],
                                 tags := m.tags.map (fun p => (p.1, p.2.map (fun _ => y))) }
  let d := cpls.foldl (fun d t => sendOn d y t) d
  let d := undone.foldl (fun d t => sendCpl d x t 0 stLink true []) d
  let d := changing.foldl (fun d w =>
    if (mget none d.change w).isSome then
      endChange { d with change := mput none d.change w (some (if mget none d.change w == some x then y else (mget none d.change w).getD y)) } w
    else d) d
  let d := barks.foldl barkRing d
  { d with failover := d.failover ++ [⟨x, failoverTags n x, posted.length + jobs.length⟩] }

/-- Port `x` stops; with the other port up its homes, its traffic and its accepted requests move there (R290), and with none up
the device holds what it would send and accepted requests run to their ends (R292). `st` is its new state, `fails` that it
fails (R275): a port that FULL_TRAIN or the far end takes out of service to train fresh hands over its traffic in the same
way. -/
def stopPort (d : Dev) (x st : Nat) (fails : Bool) : Dev :=
  let n := narta d x
  let acc := accepted n
  let ended := n.rx.filter (fun r => tlpClass r.tlp != 2 || readEnds n (tlpTag r.tlp))
  let d := if fails then count d (hlkPg x) HLK.PORT_FAILS 1 else d
  let d := setNarta d x { n with st := st, width := 3, wait := [], unacked := [], flits := [], resend := false, lastNak := none,
                                 part := [], hold := [], expect := acc, ackSent := acc, nak := false, reads := n.reads.filter (fun r => readEnds n r.1), stopping := false,
                                 rx := ended }
  let d := portEvent d x
  let d := if fails then bark d 0x1701 (hlkPg x) (portDie x) 2 none none ([BitVec.ofNat 8 x, 0] ++ leBytes 2 acc) else d
  if portUp d (1 - x) then failover d n x (1 - x)
  else
    let d := (jobReads n).foldl (fun d q => jobWaits d q.1) d
    let sent := (n.unacked.map (·.tlp)).filter (fun t => tlpClass t == 0)
    let rest := n.wait.filter (fun t => tlpClass t == 0) ++
      (n.unacked.map (·.tlp) ++ n.wait).filter (fun t => tlpClass t == 2)
    let d := { d with heldTlps := d.heldTlps ++ sent ++ rest }
    (d.change.map (·.1)).foldl (fun d w => endChange d w) d

def failPort (d : Dev) (x st : Nat) : Dev := stopPort d x st true

/-- FAILOVER_DONE is sent when every host request of the failed port has ended (R290 step 6). -/
def failoverEnds (d : Dev) (f : Failover) : Dev :=
  let y := 1 - f.port
  if (narta d f.port).tags.any (fun p => p.2 == some y && !cplQueued d f.port p.1) then d
  else
    let d := { d with failover := d.failover.erase f }
    let x := mkMsg mcDone 0 0 (f.port * 2 ^ 15) (leBytes 4 f.tags ++ leBytes 4 f.reissued ++ zeros 24)
    if portUp d y then sendOn d y x else if portUp d f.port then sendOn d f.port x else { d with heldTlps := d.heldTlps ++ [x] }

def failoverPump (d : Dev) : Dev := d.failover.foldl failoverEnds d

/-- HELLO (R287): the port, the part code and the first 24 bytes of the identity digest. -/
def hello (d : Dev) (h : Nat) : Tlp :=
  let digest := ((List.range 3).map (fun i => leBytes 8 (idWord i))).flatten
  mkMsg mcHello 0 0 h (leBytes 2 (Config.partCode d.kind) ++ zeros 6 ++ digest)

/-- A port comes up (R287, R292): HELLO, PORT_EVENT, then what the device holds. -/
def portComesUp (d : Dev) (h : Nat) : Dev :=
  let alone := !portUp d (1 - h)
  let d := setNarta d h { narta d h with st := psUp }
  let d := sendOn d h (hello d h)
  let d := portEvent d h
  if alone then
    let d := (List.range 9).foldl (fun d w => if homeOf d w == h then d else setHome d w h) d
    let held := d.heldTlps
    let d := { d with heldTlps := [] }
    jobsIssue (held.foldl (fun d t => sendOn d h t) d)
  else d

/-- A port changes state otherwise: PORT_EVENT. -/
def portState (d : Dev) (h st : Nat) : Dev :=
  if (narta d h).st == st then d else portEvent (setNarta d h { narta d h with st := st }) h

/-! ## Flits and replay (R267, R268) -/

/-- Acknowledged flits leave the replay buffer, and with them the transactions of which every flit lies before ACK. -/
def ackFlits (n : Narta) (ack : Nat) : Narta :=
  match n.flits with
  | [] => n
  | x :: _ =>
    let k := (ack + 4096 - x.seq) % 4096
    if k ≤ inFlight n then
      let left := n.flits.drop k
      { n with flits := left, unacked := n.unacked.filter (fun y => left.any (fun f => f.seq == (y.seq + y.flits - 1) % 4096)),
               lastNak := if k > 0 then none else n.lastNak }
    else n

/-- A NAK at the sender: the flits from ACK are resent, once for each ACK value (R217, R268). The second result tells that a
replay starts, the third that a flit had already been resent 8 times. -/
def nakFlits (n : Narta) (ack : Nat) (nak : Bool) : Narta × Bool × Bool :=
  if !nak then ({ n with lastNak := none }, false, false)
  else if n.lastNak == some ack || n.flits.isEmpty then (n, false, false)
  else
    let overrun := n.flits.any (fun x => x.resends ≥ 8)
    ({ n with lastNak := some ack, resend := true, flits := n.flits.map (fun x => { x with resends := x.resends + 1 }) }, true, overrun)

/-- Bytes of a transaction that begins with this header: an MRD or CRD carries none (R276). -/
def wireLen (w0 : Nat) : Nat :=
  let t := w0 % 256
  let n := bits w0 44 32
  16 + (if t == tMrd || t == tCrd then 0 else (n + 15) / 16 * 16)

/-- Does a header carry a reserved bit, or a LEN its type does not allow (R276, R277)? -/
def badHeader (x : Tlp) : Bool :=
  let t := tlpType x
  let w := x.w0.toNat
  let tagged := t == tMrd || t == tCrd || t == tCwr || t == tCpl
  let l := tlpLen x
  bits w 31 26 != 0 || bits w 63 45 != 0 || (!tagged && bits w 19 8 != 0) || (t != tCpl && bits w 25 20 != 0) ||
    (if t == tMwr then l == 0 || l > 256
     else if t == tMrd then l > 4096
     else if t == tCrd || t == tCwr then l != 8
     else if t == tCpl then l > 256 || bits x.w1.toNat 63 12 != 0
     else l != 0 || bits x.w1.toNat 15 8 != 0 || bits x.w1.toNat 63 41 != 0)

/-- A place of the host's transaction that arrived as `idx` is free: its credit is owed, unless credits have been advertised anew since (R283).
Completion credits are unlimited. -/
def freePlace (x : Tlp) (idx : Nat) (n : Narta) : Narta :=
  if idx < n.creditFrom then n
  else if tlpClass x == 0 then { n with owedP := n.owedP + 1 }
  else if tlpClass x == 1 then { n with owedN := n.owedN + 1 }
  else n

/-- A transaction of the host is accepted: placed in the port's queues, or discarded with a bark (R277, R282, R285). -/
def acceptTlp (d : Dev) (h : Nat) (x : Tlp) (seq : Nat) : Dev :=
  let n := narta d h
  let t := tlpType x
  let refuse (d : Dev) :=
    let d := setNarta d h (freePlace x n.arrivals (narta d h))
    badRequest (count d (hlkPg h) HLK.BAD_REQ 1) h (tlpTag x) seq (if t == tMsg then 0 else tlpAddr x) stMalformed
  let place (d : Dev) : Dev :=
    let n := narta d h
    setNarta d h { n with rx := n.rx ++ [⟨x, seq, n.arrivals⟩], arrivals := n.arrivals + 1 }
  if t == 0 || t > 6 then refuse d
  else if t == tMsg then
    let mc := x.w1.toNat % 256
    if badHeader x || (mc != mcSq && mc != mcCq) then refuse d else place d
  else if tlpClass x == 1 then
    if (mget none n.tags (tlpTag x)).isSome then refuse d
    else
      let d := setNarta d h { n with tags := mput none n.tags (tlpTag x) (some h) }
      place d
  else if t == tCpl && badHeader x then refuse d
  else place d

/-- Take transactions from a flit's bytes: first the rest of one that is not whole, then those that begin, until a slot whose
TYPE byte is 0. They join those held, each with the SEQ of its first flit. -/
def takeTlps (seq : Nat) : Nat → List Byte → Narta → Narta
  | 0, _, n => n
  | f + 1, bs, n =>
    if bs.isEmpty then n
    else if n.part.isEmpty && bs.headD 0 == 0 then n
    else
      let start := n.part.isEmpty
      let all := n.part ++ bs
      let need := wireLen (leNat (all.take 8))
      let first := if start then seq else n.partSeq
      if all.length < need then { n with part := all, partSeq := first }
      else
        let w0 := leNat (all.take 8)
        let len := if w0 % 256 == tMrd || w0 % 256 == tCrd then 0 else bits w0 44 32
        let x : Tlp := ⟨BitVec.ofNat 64 w0, BitVec.ofNat 64 (leNat ((all.drop 8).take 8)), (all.drop 16).take len⟩
        takeTlps seq f (all.drop need) { n with part := [], partSeq := 0, hold := n.hold ++ [(first, x)] }

/-- The transactions of every flit before ACK are accepted; those of the flit in which one is not yet whole began are held, for a failure now
would leave them without effect (R268, R291). -/
def acceptTlps (h : Nat) (d : Dev) : Dev :=
  let n := narta d h
  let stays (x : Nat × Tlp) : Bool := !n.part.isEmpty && x.1 == n.partSeq
  (n.hold.filter (fun x => !stays x)).foldl (fun d x => acceptTlp d h x.2 x.1) (setNarta d h { n with hold := n.hold.filter stays })

/-- Header fields of every good flit: ACK, NAK and credit returns. False where replay gives up and the port fails. -/
def flitBack (d : Dev) (h : Nat) (f : Flit) : Dev × Bool :=
  let n := ackFlits (narta d h) f.ack.toNat
  let (n, replay, overrun) := nakFlits n f.ack.toNat f.nak
  let n := { n with heldP := n.heldP + f.pcr.toNat, heldN := n.heldN + f.ncr.toNat, heldC := n.heldC + f.ccr.toNat }
  let d := setNarta d h n
  let d := if replay && !overrun then count d (hlkPg h) HLK.REPLAYS 1 else d
  if overrun then (failPort d h psFailed, false) else (d, true)

def setNak (d : Dev) (h : Nat) : Dev := setNarta d h { narta d h with nak := true }

/-- A flit arrives (R268): `kind` is its FKIND. -/
def flitArrives (kind h : Nat) (f : Flit) (d : Dev) : Dev :=
  if (narta d h).st != psUp then d
  else if !f.cwOk || crc64 (flitBytes kind f) != f.crc.toNat then setNak (count d (hlkPg h) HLK.FLITS_DISCARDED 1) h
  else
    match flitBack d h f with
    | (d, false) => d
    | (d, true) =>
      let n := narta d h
      match seqPlace 4096 n.expect f.seq.toNat with
      | 0 =>
        if kind == 0 then d
        else
          let from_ := if n.part.isEmpty then (if f.first.toNat == 15 then 240 else 16 * f.first.toNat) else 0
          let n := { n with expect := (n.expect + 1) % 4096, nak := false }
          acceptTlps h (setNarta d h (takeTlps f.seq.toNat 16 (((f.slots ++ zeros 240).take 240).drop from_) n))
      | 1 => setNak d h
      | _ => d

/-! ## Carrying out the host's transactions (R278 to R286) -/

/-- The first accepted transaction of a kind that may act now: no posted one stands before it, and nothing else that it must
not pass (R278, R284). -/
def firstOf (n : Narta) (sel : Tlp → Bool) : Option RxTlp :=
  match n.rx.find? (fun r => sel r.tlp) with
  | none => none
  | some r =>
    let before := n.rx.filter (fun y => y.idx < r.idx)
    let c := tlpClass r.tlp
    let t := tlpType r.tlp
    let blocked := before.any (fun y =>
      tlpClass y.tlp == 0 ||
        ((t == tMrd || t == tMwr) && tlpType y.tlp == tMrd) ||
        (c == 1 && t != tMrd && (tlpType y.tlp == tCrd || tlpType y.tlp == tCwr)) ||
        (c == 2 && tlpClass y.tlp == 2 && tlpTag y.tlp == tlpTag r.tlp))
    if blocked then none else some r

/-- The transaction leaves the queue; its place is free and its credit returns (R283). -/
def takeRx (d : Dev) (h : Nat) (r : RxTlp) : Dev :=
  let n := narta d h
  setNarta d h (freePlace r.tlp r.idx { n with rx := n.rx.filter (fun y => y.idx != r.idx) })

/-- Is every posted request of the port that arrived before `idx` performed (R278, R284)? -/
def performed (d : Dev) (h idx : Nat) : Bool :=
  !(narta d h).rx.any (fun y => tlpClass y.tlp == 0 && y.idx < idx) &&
  !d.towers.any (fun tw => tw.2.cols.any (fun c => c.2.queue.any (fun p =>
    match p.purpose with
    | .hostWrite h' i _ => h' == h && i < idx
    | _ => false)))

/-- Flushes whose earlier posted requests are all performed complete (R278). -/
def flushPump (d : Dev) : Dev :=
  [0, 1].foldl (fun d h =>
    (narta d h).flushes.foldl (fun d f =>
      if performed d h f.2 then
        let n := narta d h
        sendCpl (setNarta d h { n with flushes := n.flushes.filter (· != f) }) h f.1 0 stOk true []
      else d) d) d

/-- Does a memory request keep R277? -/
def memOk (x : Tlp) : Bool :=
  let a := tlpAddr x
  let n := tlpLen x
  !badHeader x && a < 2 ^ 41 &&
    (if tlpType x == tMwr then a % 256 + n ≤ 256 else a % 4096 + n ≤ 4096)

/-- MWR (R278, R280): the write joins the queue of its bank column. -/
def mwr (h : Nat) (d : Dev) : Dev :=
  match firstOf (narta d h) (fun x => tlpType x == tMwr) with
  | none => d
  | some r =>
    let d := takeRx d h r
    let x := r.tlp
    if !memOk x then badRequest (count d (hlkPg h) HLK.BAD_REQ 1) h 0 r.seq (tlpAddr x) stMalformed
    else
      match addrKind d.kind (tlpAddr x) with
      | .tower t k o =>
        if (tower d t).hold then
          badRequest (barkAccess d t k 0 (tlpAddr x) stNotNow) h 0 r.seq (tlpAddr x) stNotNow
        else
          queuePiece d t (pageCol d t k) ⟨k, o, x.data.length, .write x.data, .hostWrite h r.idx r.seq⟩
      | _ => badRequest (barkReserved d (hlkPg h) (tlpAddr x)) h 0 r.seq (tlpAddr x) stMalformed

/-- The 256-byte pieces of a read: offset in the request and bytes. -/
def readPieces (a : Nat) : Nat → Nat → Nat → List (Nat × Nat)
  | 0, _, _ => []
  | f + 1, off, n =>
    if n == 0 then []
    else
      let m := min n (256 - (a + off) % 256)
      (off, m) :: readPieces a f (off + m) (n - m)

/-- MRD (R278). -/
def mrd (h : Nat) (d : Dev) : Dev :=
  match firstOf (narta d h) (fun x => tlpType x == tMrd) with
  | none => d
  | some r =>
    let d := takeRx d h r
    let x := r.tlp
    let tag := tlpTag x
    let n := tlpLen x
    if !memOk x then sendCpl (count d (hlkPg h) HLK.BAD_REQ 1) h tag 0 stMalformed true []
    else if n == 0 then setNarta d h { narta d h with flushes := (narta d h).flushes ++ [(tag, r.idx)] }
    else
      match addrKind d.kind (tlpAddr x) with
      | .tower t k o =>
        if (tower d t).hold then sendCpl d h tag 0 stNotNow true []
        else
          (readPieces (tlpAddr x) 17 0 n).foldl (fun d p =>
            queuePiece d t (pageCol d t k) ⟨k, o + p.1, p.2, .read, .hostRead h tag p.1 (p.1 + p.2 == n) (mget 0 d.ticks (regionDie t))⟩) d
      | _ => sendCpl (barkReserved d (hlkPg h) (tlpAddr x)) h tag 0 stMalformed true []

/-- CPL (R281): the data of a device read, or the end of a flush (R289). -/
def cpl (h : Nat) (d : Dev) : Dev :=
  match firstOf (narta d h) (fun x => tlpType x == tCpl) with
  | none => d
  | some r =>
    let d := takeRx d h r
    let x := r.tlp
    let n := narta d h
    match mget none n.reads (tlpTag x) with
    | none => count d (hlkPg h) HLK.LATE_CPL 1
    | some q =>
      let got := q.data ++ x.data
      let free (d : Dev) := let n := narta d h; setNarta d h { n with reads := mput none n.reads (tlpTag x) none }
      if !tlpLast x && tlpStatus x == stOk then
        setNarta d h { n with reads := mput none n.reads (tlpTag x) (some { q with data := got }) }
      else
        let d := free d
        match q.purpose with
        | .flush w => endChange d w
        | .job i =>
          if tlpStatus x != stOk then jobData d i (.error (tlpStatus x))
          else if got.length == q.len then jobData d i (.ok got)
          else jobData d i (.error stMalformed)

/-- CPL_TIMEOUT (R281). -/
def cplTimeout (h tag : Nat) (d : Dev) : Dev :=
  let n := narta d h
  match mget none n.reads tag with
  | none => d
  | some q =>
    let d := setNarta d h { n with reads := mput none n.reads tag none }
    let d := count d (hlkPg h) HLK.CPL_TIMEOUTS 1
    let st := match q.purpose with | .job _ => some stLink | .flush _ => none
    let d := bark d 0x1704 (hlkPg h) (portDie h) 2 none st ([BitVec.ofNat 8 h] ++ zeros 7 ++ leBytes 8 q.addr)
    match q.purpose with
    | .job i => jobData d i (.error stLink)
    | .flush w => endChange d w

/-! ## Changing a home or the system port (R289) -/

/-- `who` moves from its port to port `h` after a flush on the old one. -/
def moveHome (d : Dev) (who h : Nat) : Dev :=
  if homeOf d who == h || (mget none d.change who).isSome then d
  else flushIssue { d with change := mput none d.change who (some h) } who

/-- HLK_CTL written (R289, R309). -/
def hlkCtl (home sysPort : Nat) (pg : Nat) (d : Dev) : Dev × Nat :=
  let want (w : Nat) : Nat := if w < 8 then (if bit home w then 1 else 0) else sysPort
  if (List.range 9).any (fun w => !portUp d (want w) || (mget none d.change w).any (· != want w)) then (notNow d pg, stNotNow)
  else ((List.range 9).foldl (fun d w => moveHome d w (want w)) d, stOk)

end Sys2Proof.Machine
end

