-- ==== Sys2Proof/Machine/Ledger.lean ====
section
/-!
DEFINITION. Completion queues (R248, R249), the stream ledger and its mirrors (R253 to R262), and the opening and ending of
energy accounts (R446, R452).
-/
namespace Sys2Proof.Machine

/-! ## Rings and completions -/

def rqKey (p q : Nat) : Nat := 64 * p + q
def rq (d : Dev) (p q : Nat) : RingQ := mget RingQ.init d.rqs (rqKey p q)
def setRq (d : Dev) (p q : Nat) (r : RingQ) : Dev := { d with rqs := mput RingQ.init d.rqs (rqKey p q) r }

def rqField (r : RingQ) (f : Fld) : Nat := fieldOf r.cfg f
def rqOn (r : RingQ) : Bool := rqField r PART.RING_CFG_ENABLE == 1
def sqSize (r : RingQ) : Nat := 2 ^ rqField r PART.RING_CFG_SQ_LOG2
def cqSize (r : RingQ) : Nat := 2 ^ rqField r PART.RING_CFG_CQ_LOG2
/-- RING_OUTSTANDING: every item issued is completed, failed or outstanding (R252). -/
def outstanding (r : RingQ) : Nat := r.issued - r.completed - r.failed

/-- The 32 bytes of a completion with its PHASE and epoch (R248). -/
def cplBytes (c : Cpl) (phase : Bool) (epoch : Nat) : List Byte :=
  let w0 := c.seq % 2 ^ 32 * 2 ^ 32 + c.ring % 64 * 2 ^ 24 + phase.toNat * 2 ^ 21 + c.stream.toNat * 2 ^ 20 +
    c.status % 16 * 2 ^ 16 + c.sqIdx % 65536
  let w1 := c.old % 16 * 2 ^ 56 + c.new % 16 * 2 ^ 52 + c.record % 2 ^ 20 * 2 ^ 32 + epoch % 2 ^ 32
  let w2 := c.d1 % 2 ^ 32 * 2 ^ 32 + c.d0 % 2 ^ 32
  let body := leBytes 8 w0 ++ leBytes 8 w1 ++ leBytes 8 w2 ++ zeros 4
  body ++ leBytes 4 (crc32c body)

/-- Unconsumed completions of a CQ. -/
def cqUsed (r : RingQ) : Nat := (r.cqTail + cqSize r - r.cqHead % cqSize r) % cqSize r

/-- May a completion be written: there is a place, and a port for a CQ in host memory (R249, R292)? -/
def cqPlace (d : Dev) (p : Nat) (r : RingQ) : Bool :=
  cqUsed r + 1 < cqSize r && (rqField r PART.RING_CFG_CQ_LOC == 0 || (route d p).isSome)

/-- The item that a completion ends leaves the ring (R252). -/
def endItem (r : RingQ) (c : Cpl) : RingQ :=
  if c.stream then { r with streamCpl := r.streamCpl + 1 }
  else
    let r := { r with order := r.order.filter (fun i => some i != c.item) }
    if c.status == stOk then { r with completed := r.completed + 1 } else { r with failed := r.failed + 1 }

/-- The first held completion is written, and its message sent (R248, R249). -/
def writeCpl (d : Dev) (p q : Nat) (c : Cpl) (rest : List Cpl) : Dev :=
  let r := rq d p q
  let bs := cplBytes c r.phase (getF d (partPg p) PART.MAP_EPOCH_EPOCH)
  let d := devWrite d (rqField r PART.RING_CFG_CQ_LOC == 1) p (partPg p) (r.cqBase.toNat + 32 * r.cqTail) bs
  let t := r.cqTail + 1
  let r := endItem { r with held := rest } c
  let r := if t ≥ cqSize r then { r with cqTail := 0, phase := !r.phase } else { r with cqTail := t }
  let d := setRq d p q r
  let d := match c.item with
    | some i =>
      match mget none d.items i with
      | some it => if it.units.isEmpty then { d with items := mput none d.items i none } else d
      | none => d
    | none => d
  let n := rqField r PART.RING_CFG_NOTIFY
  if n == 2 || (n == 1 && c.notify && !c.stream) then sendFor d p (mkMsg mcNotify p q r.cqTail []) else d

/-! ## Records in tower memory (R253) -/

def ledgPg : Nat := LEDG.page.pg 0
def metrPg : Nat := METR.page.pg 0

/-- Tower, page and byte of a record. -/
def recTower (n : Nat) : Nat := n / 32768
def recPage (p : Part) (n : Nat) : Nat := Config.pages p - 2 + n % 32768 / 16384
def recByte (n : Nat) : Nat := 128 * (n % 16384)

/-- Writes of the walkers that wait in the bank columns of a tower at addresses from `a` to `a + n`. -/
def walkWaiting (d : Dev) (a n : Nat) : List Piece :=
  let t := bits a 40 36
  (tower d t).cols.flatMap (fun c => c.2.queue.filter (fun p =>
    p.purpose == .walker && a ≤ devAddr t p.page p.off && devAddr t p.page p.off < a + n))

def recAddr (d : Dev) (n : Nat) : Nat := devAddr (recTower n) (recPage d.kind n) (recByte n)

/-- Does a record's write still wait for its column's FETCH turn? -/
def recQueued (d : Dev) (n : Nat) : Bool := !(walkWaiting d (recAddr d n) 128).isEmpty

/-- Does another ring of the partition hold a mirror of the record? -/
def mirrorHeld (d : Dev) (p q n : Nat) : Bool :=
  d.rqs.any (fun x => x.1 / 64 == p && x.1 % 64 != q && x.2.held.any (fun c => c.stream && c.record == n))

/-- Must a completion wait for a record's write, or for a mirror that comes before it (R255, R284)? -/
def cplWaits (d : Dev) (p q : Nat) (c : Cpl) : Bool := c.behind.any (fun n => recQueued d n || (!c.stream && mirrorHeld d p q n))

def cplGo (p q : Nat) : Nat → Dev → Dev
  | 0, d => d
  | f + 1, d =>
    let r := rq d p q
    match r.held with
    | [] => d
    | c :: rest => if rqOn r && cqPlace d p r && !cplWaits d p q c then cplGo p q f (writeCpl d p q c rest) else d

/-- Held completions are written in order while there is place (R249); one that stands behind a record's write waits for it (R284). -/
def cplPump (d : Dev) (p q : Nat) : Dev := cplGo p q ((rq d p q).held.length) d

/-- A completion joins its CQ. -/
def pushCpl (d : Dev) (p q : Nat) (c : Cpl) : Dev :=
  let r := rq d p q
  cplPump (setRq d p q { r with held := r.held ++ [c] }) p q

/-! ## Records (R253, R254) -/

def hkOf (d : Dev) (n : Nat) : HkRec := mget HkRec.free d.hk n
def setHk (d : Dev) (n : Nat) (h : HkRec) : Dev := { d with hk := mput HkRec.free d.hk n h }

/-- What the walker reads of its record: its own last write where that still waits, else what the page holds (log entry 110). -/
def recRead (d : Dev) (n : Nat) : Dev × Option (List Nat) :=
  match (walkWaiting d (recAddr d n) 128).getLast? with
  | some ⟨_, _, _, .write bs, _⟩ => (d, some ((pieces 8 bs).map leNat))
  | _ =>
    match readTower d .device (recAddr d n) 128 with
    | (d, .ok bs) => (d, some ((pieces 8 bs).map leNat))
    | (d, .error _) => (d, none)

/-- A walker's write is a host access: it joins the queue of its bank column, and is served at once where it stands alone in a FETCH turn (R174,
R253). -/
def walkWrite (d : Dev) (a : Nat) (bs : List Byte) : Dev :=
  let t := bits a 40 36
  let k := bits a 35 21
  let b := pageCol d t k
  let alone := (column d t b).queue.isEmpty
  let d := queuePiece d t b ⟨k, bits a 20 0, bs.length, .write bs, .walker⟩
  if alone && fetchNow d t b then serveHead d t b else d

def lput (ws : List Nat) (i v : Nat) : List Nat := ws.set i v
def wput (w hi lo v : Nat) : Nat := w - bits w hi lo * 2 ^ lo + v % 2 ^ (hi + 1 - lo) * 2 ^ lo
/-- Replace bits of one word of a record. -/
def rput (ws : List Nat) (i hi lo v : Nat) : List Nat := lput ws i (wput (ws.getD i 0) hi lo v)
def rget (ws : List Nat) (i hi lo : Nat) : Nat := bits (ws.getD i 0) hi lo

/-- The walker writes a whole record with its CRC; its MAP_EPOCH is the epoch of its partition now, but in a record that becomes FREE (R254). -/
def recWrite (d : Dev) (n : Nat) (ws : List Nat) : Dev :=
  let free := ws.all (· == 0)
  let ws := if free then ws else rput ws 0 63 32 (getF d (partPg (rget ws 0 19 17)) PART.MAP_EPOCH_EPOCH)
  let body := ((ws.take 15).map (leBytes 8)).flatten ++ zeros 4
  count (walkWrite d (recAddr d n) (body ++ leBytes 4 (if free then 0 else crc32c body))) ledgPg LEDG.WALK_UPDATES 1

def ssFree : Nat := 0
def ssOpen : Nat := 1
def ssActive : Nat := 2
def ssEnded : Nat := 3
def ssFailed : Nat := 4
def liveState (s : Nat) : Bool := s == ssOpen || s == ssActive

/-! ## Accounts (R446, R452) -/

def lostKey (t h : Nat) : Nat := 2 ^ 20 + 2 * t + h
def idleKey : Nat := 2 ^ 21
def acctOf (d : Dev) (k : Nat) : Option Acct := mget none d.accts k
def setAcct (d : Dev) (k : Nat) (a : Option Acct) : Dev := { d with accts := mput none d.accts k a }

/-- The next RECEIPT_SEQ; 0 is skipped on a wrap (R452). -/
def nextReceipt (d : Dev) : Dev × Nat :=
  let s := (getF d metrPg METR.METR_SEQ_RECEIPT_SEQ + 1) % 2 ^ 32
  let s := if s == 0 then 1 else s
  (setF d metrPg METR.METR_SEQ_RECEIPT_SEQ s, s)

/-! ## Transitions and their mirrors (R255, R260) -/

/-- What causes a transition: a descriptor of partition `part` on ring `ring`, or something else. `direct` tells that the
descriptor itself is the cause, so that its ITEM completion can be the mirror. -/
structure Cause where
  desc : Option (Nat × Nat)
  seq : Nat
  sqIdx : Nat
  direct : Bool
deriving DecidableEq, Repr

/-- A cause that is no descriptor: SEQ and SQ_IDX are free. -/
def noCause (d : Dev) : Dev × Cause :=
  let v := (Config.freeSeq d.freeN).toNat
  ({ d with freeN := d.freeN + 1 }, ⟨none, v / 65536, v % 65536, false⟩)

/-- The counters of the partition's streams (R262). -/
def countStream (d : Dev) (p old new : Nat) : Dev :=
  let pg := partPg p
  let d := if old == ssFree && new == ssOpen then count d pg PART.STREAMS_OPENED 1 else d
  let d := if new == ssEnded then count d pg PART.STREAMS_ENDED 1 else d
  let d := if new == ssFailed then count d pg PART.STREAMS_FAILED 1 else d
  let d := if new == ssFree then count d pg PART.STREAMS_RELEASED 1 else d
  let live := getF d pg PART.STREAMS_LIVE + (liveState new && !liveState old).toNat - (liveState old && !liveState new).toNat
  setF d pg PART.STREAMS_LIVE live

/-- The stamp kept for a record: that of the die above its tower. -/
def recStamp (d : Dev) (n : Nat) : Nat := stampOf d (regionDie (recTower n))

/-- A record changes state: its words are written, its counters and account follow, and its mirror is written, left to the
descriptor's own ITEM completion, or set PENDING (R255, R260). `ws` are the record's words with every other change made,
`d0` and `d1` what the mirror carries where they are not the record's own. -/
def transition (d : Dev) (n : Nat) (ws : List Nat) (new status : Nat) (why : Cause) (d1 : Option Nat) : Dev :=
  let h := hkOf d n
  let old := h.state
  let p := rget ws 0 19 17
  let q := rget ws 0 25 20
  let terminal := new == ssEnded || new == ssFailed
  let (d, rs) := if terminal then nextReceipt d else (d, rget ws 6 31 0)
  let gen := rget ws 3 63 32
  let own := why.direct && why.desc == some (p, q)
  let on := rqOn (rq d p q)
  let pend := h.pending || (!own && !on)
  let ep := getF d (partPg p) PART.MAP_EPOCH_EPOCH
  let out :=
    if new == ssFree then List.replicate 16 0
    else
      let ws := rput ws 0 3 0 new
      let ws := rput ws 0 7 4 (if new == ssFailed then status else 0)
      let ws := rput ws 0 16 16 pend.toNat
      let ws := if terminal then rput (rput ws 6 31 0 rs) 9 47 0 (recStamp d n) else ws
      ws
  let busy := new != ssFree && rget ws 0 15 15 == 1
  let d := setHk d n { state := new, part := p, ring := q, busy := busy, pending := pend,
                       mirrored := if pend then h.mirrored else new, status := status,
                       receipt := if new == ssFree then 0 else rs }
  let d := if new == ssFree && !pend then setHk d n HkRec.free else d
  let d := recWrite d n out
  let d := countStream d p old new
  let d := if terminal then
      match acctOf d n with
      | some a => setAcct d n (some { a with seq := rs, status := if new == ssFailed then status else 0, epoch := ep })
      | none => d
    else d
  if own || pend then d
  else
    pushCpl d p q { seq := why.seq, ring := (why.desc.map (·.2)).getD q, stream := true, status := status, sqIdx := why.sqIdx,
                    old := old, new := new, record := n, d0 := gen, d1 := d1.getD rs, notify := false, item := none,
                    behind := [n] }

/-- A live record fails (R255, R257); a record whose page cannot be read fails when its page is lost. -/
def failRecord (d : Dev) (n status : Nat) (why : Cause) : Dev :=
  match recRead d n with
  | (d, some ws) => transition d n (rput ws 0 15 15 0) ssFailed status why none
  | (d, none) => d

/-- Live records of a partition, ascending; records of a tower ascend with their towers. -/
def liveRecords (d : Dev) (p : Nat) : List Nat :=
  (d.hk.filter (fun x => liveState x.2.state && x.2.part == p)).map (·.1)

def failRecords (d : Dev) (p status : Nat) : Dev :=
  (liveRecords d p).foldl (fun d n => let (d, c) := noCause d; failRecord d n status c) d

/-- Mirrors pending for a ring that is being enabled, in ascending record order (R260). -/
def pendingMirrors (d : Dev) (p q : Nat) : Dev :=
  let ns := (d.hk.filter (fun x => x.2.pending && x.2.part == p && x.2.ring == q)).map (·.1)
  ns.foldl (fun d n =>
    let h := hkOf d n
    let (d, c) := noCause d
    let (d, ws) := if h.state == ssFree then (d, none) else recRead d n
    let gen := match ws with | some ws => rget ws 3 63 32 | none => 0
    let d := match ws with | some ws => recWrite d n (rput ws 0 16 16 0) | none => d
    let d := setHk d n (if h.state == ssFree then HkRec.free else { h with pending := false, mirrored := h.state })
    let st := if h.mirrored == h.state then stUncorr else h.status
    let d := count d ledgPg LEDG.PENDING_WRITTEN 1
    pushCpl d p q { seq := c.seq, ring := q, stream := true, status := st, sqIdx := c.sqIdx, old := h.mirrored,
                    new := h.state, record := n, d0 := gen, d1 := h.receipt, notify := false, item := none, behind := [] }) d

/-- One record whose mirrors a ring still held as it was disabled: they can no longer be written, so the record takes PENDING, and MIRRORED is
the state before the first of them (R260, log entry 110). A record opened again since on another ring keeps its own mirrors. -/
def holdMirror (p q : Nat) (cs : List Cpl) (d : Dev) (n : Nat) : Dev :=
  let mine := cs.filter (fun c => c.stream && c.record == n)
  match mine.head?, mine.getLast? with
  | some a, some z =>
    let h := hkOf d n
    if h.state != ssFree && h.ring != q then d
    else
      let d := setHk d n { h with part := p, ring := q, pending := true, mirrored := a.old, status := z.status, receipt := z.d1 }
      if h.state == ssFree then d
      else
        match recRead d n with
        | (d, some ws) => recWrite d n (rput ws 0 16 16 1)
        | (d, none) => d
  | _, _ => d

/-- The mirrors that a ring holds become pending as it is disabled (R252, R260). -/
def holdMirrors (p q : Nat) (d : Dev) : Dev :=
  let r := rq d p q
  let d := setRq d p q { r with held := [] }
  ((r.held.filter (·.stream)).map (·.record)).eraseDups.foldl (holdMirror p q r.held) d

/-! ## A lost ledger page (R261, R454) -/

/-- Records of half `h` of a tower's ledger that are not FREE. -/
def pageRecords (d : Dev) (t h : Nat) : List Nat :=
  (d.hk.filter (fun x => x.2.state != ssFree && x.1 / 16384 == 2 * t + h)).map (·.1)

/-- One record of a lost page: a live one fails with UNCORR, and each becomes FREE, mirrored with UNCORR. -/
def loseRecord (rs n : Nat) (d : Dev) : Dev :=
  let h := hkOf d n
  let p := h.part
  let step (d : Dev) (old new : Nat) (h : HkRec) : Dev × HkRec :=
    let d := countStream d p old new
    let on := rqOn (rq d p h.ring)
    let h := { h with state := new, busy := false, status := stUncorr, receipt := rs }
    if h.pending || !on then (d, { h with pending := true })
    else
      let (d, c) := noCause d
      (pushCpl d p h.ring { seq := c.seq, ring := h.ring, stream := true, status := stUncorr, sqIdx := c.sqIdx, old := old,
                            new := new, record := n, d0 := 0, d1 := rs, notify := false, item := none, behind := [] },
       { h with mirrored := new })
  let (d, h) := if liveState h.state then step d h.state ssFailed h else (d, h)
  let (d, h) := step d h.state ssFree h
  setHk d n (if h.pending then h else HkRec.free)

/-- A ledger page that has been retired: its records are lost, one account covers them, and firmware clears the page. -/
def ledgerLost (d : Dev) (t h : Nat) : Dev :=
  let k := Config.pages d.kind - 2 + h
  if meState (entry d t k) != meRetired then d
  else
    let ns := pageRecords d t h
    let open_ := ns.filter (fun n => (acctOf d n).isSome)
    let sum := (open_.map (fun n => ((acctOf d n).getD Acct.init))).foldl
      (fun (s : Nat × Rat × Rat) a => (s.1 + a.energy, s.2.1 + a.direct, s.2.2 + a.shared)) (0, 0, 0)
    let was := (acctOf d (lostKey t h)).getD Acct.init
    let (d, rs) := if open_.isEmpty then (d, 0) else if was.seq != 0 then (d, was.seq) else nextReceipt d
    let p := ((ns.head?).map (fun n => (hkOf d n).part)).getD 0
    let d := open_.foldl (fun d n => setAcct d n none) d
    let d := if open_.isEmpty then d
      else setAcct d (lostKey t h) (some ⟨p, rs, stUncorr, was.lost + open_.length, getF d (partPg p) PART.MAP_EPOCH_EPOCH,
        was.energy + sum.1, was.direct + sum.2.1, was.shared + sum.2.2⟩)
    let d := count d ledgPg LEDG.RECORDS_LOST ((ns.filter (fun n => liveState (hkOf d n).state)).length)
    let d := ns.foldl (fun d n => loseRecord rs n d) d
    (clearPage d t k).1

def ledgersLost (d : Dev) : Dev :=
  (d.towers.map (·.1)).foldl (fun d t => ledgerLost (ledgerLost d t 0) t 1) d

end Sys2Proof.Machine
end

