-- ==== Sys2Proof/Machine/Items.lean ====
section
/-!
DEFINITION. Descriptors and their items (R243 to R247, R251, R252), batch steps and the walkers (R256 to R259), and the
booking of direct energy to accounts (R447).
-/
namespace Sys2Proof.Machine

def item (d : Dev) (i : Nat) : Option Item := mget none d.items i
def setItem (d : Dev) (i : Nat) (it : Option Item) : Dev := { d with items := mput none d.items i it }

/-! ## Direct energy (R447) -/

/-- RAIL instance of a rail kind on a die (R376). -/
def railOf (kind die : Nat) : Nat := 8 * kind + die

/-- Weight of a stream in a batch step: PROMPT + GEN + 1. -/
def batchWeight (b : BatchRec) : Nat := b.prompt + b.gen + 1

/-- An amount is added to an account's direct energy of the period; an account that is closed gives it to the idle one. -/
def addDirect (d : Dev) (acct rail : Nat) (v : Rat) (m : Map Rat) : Map Rat :=
  let k := if (acctOf d acct).isSome then acct else idleKey
  mupd (0 : Rat) m (64 * k + rail) (fun x => x + v)

/-- The direct energy of a unit since its last snapshot, shared out over the streams of its batch step, or the idle
account. -/
def bookUnit (d : Dev) (u : Nat) (it : Option Item) (k : Nat) (m : Map Rat) : Map Rat :=
  let v : Nat := mget 0 d.direct (8 * u + k)
  let r := railOf k (unitDie u)
  let bs := match it with | some it => it.batch | none => []
  let w : Nat := (bs.map batchWeight).foldl (fun a b => a + b) 0
  if v == 0 then m
  else if w == 0 then addDirect d idleKey r (v : Rat) m
  else bs.foldl (fun m b => addDirect d b.record r (((v * batchWeight b : Nat) : Rat) / (w : Rat)) m) m

/-- The direct energy of a unit since its last snapshot goes to the streams of its batch step, or to the idle account. -/
def snapUnit (d : Dev) (u : Nat) (it : Option Item) : Dev :=
  { d with period := (List.range 5).foldl (fun m k => bookUnit d u it k m) d.period,
           direct := (List.range 5).foldl (fun m k => mput 0 m (8 * u + k) 0) d.direct }

/-! ## Descriptors (R245) -/

/-- Operand bits that a descriptor operation uses in word `i`, 1 to 6. -/
def opBits (op i : Nat) : Nat :=
  if op == 1 then (if i == 1 then 2 ^ 16 - 1 else if i ≤ 5 then 2 ^ 48 - 1 else 0)
  else if op == 2 then
    (if i == 1 then 2 ^ 32 - 1 else if i == 2 then 2 ^ 44 - 16 else if i ≤ 5 then 2 ^ 48 - 1 else 0)
  else if op == 3 then
    (if i == 1 then 2 ^ 26 - 1 else if i == 2 then 0xFFFF * 2 ^ 48 + (2 ^ 44 - 4) else if i == 3 then 2 ^ 32 - 1
     else if i == 4 then 2 ^ 64 - 1 else 0)
  else if op == 4 then (if i == 1 then 2 ^ 20 - 1 else 0)
  else if op == 5 then (if i == 1 then 2 ^ 21 - 1 else 0)
  else 0

/-- The item of a descriptor of 64 bytes at SQ position `pos`; `bad` is MALFORMED where a check fails (R245). -/
def readDesc (p q pos : Nat) (bs : List Byte) : Item :=
  let ws := (pieces 8 bs).map leNat
  let w (i : Nat) : Nat := ws.getD i 0
  let op := bits (w 0) 7 0
  let crcOk := crc32c (bs.take 60) == bits (w 7) 63 32
  let fieldsOk := bits (w 0) 31 10 == 0 && bits (w 7) 31 0 == 0 && 1 ≤ op && op ≤ 6 &&
    (List.range 6).all (fun i => Nat.lor (w (i + 1)) (opBits op (i + 1)) == opBits op (i + 1))
  { part := p, ring := q, sqIdx := pos, seq := bits (w 0) 63 32, notify := bit (w 0) 9, fence := bit (w 0) 8, op := op,
    words := (ws.drop 1).take 6, bad := if crcOk && fieldsOk then none else some stMalformed, started := false,
    ended := false, units := [], batch := [], batchAddr := 0, stage := .idle, table := [], left := 0, skipped := 0 }

def itw (it : Item) (i : Nat) : Nat := it.words.getD (i - 1) 0

/-- The next descriptor of a ring is read (R244). -/
def readNext (d : Dev) (p q : Nat) : Dev :=
  let r := rq d p q
  if rqOn r && !r.reading && r.head != r.tail then
    newJob (setRq d p q { r with reading := true }) (.desc p q) (rqField r PART.RING_CFG_SQ_LOC == 1) p
      (r.sqBase.toNat + 64 * r.head) 64
  else d

/-- An item ends with a status: its completion joins the ring's CQ, behind the writes of the records it changed. -/
def finish (d : Dev) (i status old new record d0 d1 : Nat) (behind : List Nat) : Dev :=
  match item d i with
  | none => d
  | some it =>
    if it.ended then d
    else
      let d := if status == stNotNow then notNow d (partPg it.part) else d
      let d := setItem d i (some { it with ended := true, started := true })
      pushCpl d it.part it.ring { seq := it.seq, ring := it.ring, stream := false, status := status, sqIdx := it.sqIdx,
                                  old := old, new := new, record := record, d0 := d0, d1 := d1, notify := it.notify,
                                  item := some i, behind := behind }

def finishPlain (d : Dev) (i status : Nat) : Dev := finish d i status 0 0 0 0 0 []

/-- Place of a failure status in the order of R356. -/
def statusRank (s : Nat) : Nat :=
  ([stThermal, stUncorr, stLink, stFenced, stSchedule, stMalformed, stNotNow, stReset, stAborted].findIdx? (· == s)).getD 9

/-- A descriptor has been read, or its read has failed: its place is free and its item is issued (R244, R252). One that an ABORT or a reset fails
as it is read takes the reason that R356 places first. -/
def descRead (d : Dev) (p q : Nat) (res : Except Nat (List Byte)) : Dev :=
  let r := rq d p q
  let pos := r.head
  let (d, it) := match res with
    | .ok bs => (d, readDesc p q pos bs)
    | .error s =>
      let (d, c) := noCause d
      (d, { readDesc p q pos [] with seq := c.seq, bad := some s })
  let abort := r.abortN > 0
  let i := d.nextItem
  let d := { d with nextItem := i + 1, items := mput none d.items i (some it) }
  let d := setRq d p q { r with reading := false, head := (r.head + 1) % sqSize r, issued := r.issued + 1,
                                abortN := r.abortN - 1, order := r.order ++ [i] }
  let as := match it.bad with
    | some s => if statusRank s < statusRank r.abortAs then s else r.abortAs
    | none => r.abortAs
  let d := if abort then finishPlain d i as else d
  readNext d p q

/-! ## Ring order (R246) -/

/-- The descriptor at the head of a ring: the first that has not started. -/
def headItem (d : Dev) (p q : Nat) : Option (Nat × Item) :=
  (rq d p q).order.findSome? (fun i =>
    match item d i with
    | some it => if it.started || it.ended then none else some (i, it)
    | none => none)

/-- Does a FENCE still wait for an earlier descriptor's completion? -/
def fenceWaits (d : Dev) (p q i : Nat) (it : Item) : Bool := it.fence && (rq d p q).order.head? != some i

/-- The entry of a RUN or BATCH_STEP. -/
def entryOf (d : Dev) (it : Item) : Option (List UnitRec) :=
  (mget Plan.none d.plans it.part).entries[itw it 1 % 65536]?

def unitNo (u : UnitRec) : Nat := if u.floor then unitFloor u.unit else u.unit

/-- Word 0 of every entry of a batch table as the walkers have read it. -/
def tableWords (it : Item) : List Nat := (pieces 16 it.table).map (fun x => leNat (x.take 8))

/-- What a descriptor at the head of a ring needs: the units of its entry and the records of its table, or the record it names (as 10,000 +
record). -/
def needs (d : Dev) (it : Item) : List Nat :=
  if it.op == 1 || it.op == 2 then
    ((entryOf d it).getD []).map unitNo ++ (if it.op == 2 then (tableWords it).map (fun w => 10000 + w % 2 ^ 20) else [])
  else if 3 ≤ it.op && it.op ≤ 5 then [10000 + itw it 1 % 2 ^ 20]
  else []

/-- Does a lower ring's head wait for the same unit or record? It starts first (R246). -/
def lowerFirst (d : Dev) (p q : Nat) (it : Item) : Bool :=
  (List.range q).any (fun q' =>
    match headItem d p q' with
    | some (i, it') =>
      it'.bad.isNone && !fenceWaits d p q' i it' && (!(it'.op == 1 || it'.op == 2) || partState d p == psLoaded) &&
        (needs d it').any (fun u => (needs d it).contains u)
    | none => false)

/-- Units of a BATCH_STEP whose entry starts as soon as its table is zeroed. -/
def unitTaken (d : Dev) (u : UnitRec) : Bool :=
  d.items.any (fun x => match x.2 with | some it => it.stage == .zeroing && it.units.contains (unitNo u) | none => false)

/-- Is a unit free of an earlier program? -/
def unitFree (d : Dev) (u : UnitRec) : Bool :=
  (if u.floor then (floor d u.unit).item.isNone else (core d u.unit).item.isNone) && !unitTaken d u

/-- The head of ring `q`, if it is of the named operation and may act: no FENCE, no lower ring before it. -/
def readyHead (d : Dev) (p q op : Nat) : Option (Nat × Item) :=
  match headItem d p q with
  | some (i, it) =>
    if it.op == op && it.bad.isNone && !fenceWaits d p q i it && !lowerFirst d p q it then some (i, it) else none
  | none => none

/-! ## RUN and BATCH_STEP (R240, R247, R259) -/

/-- PSTATE of a thermal stop (R401). -/
def thermalStop (d : Dev) : Bool := getF d pkgPg PKG.PKG_INFO_PSTATE == 4

/-- The status a RUN or BATCH_STEP ends with before it starts: NOT_NOW by state, MALFORMED by ENTRY, FENCED by an absent
number or one held empty (R245, R368, R369, R401). -/
def refusedStart (d : Dev) (p : Nat) (it : Item) : Option Nat :=
  if partState d p != psLoaded || thermalStop d then some stNotNow
  else
    match entryOf d it with
    | none => some stMalformed
    | some us =>
      if us.any (fun u => !u.floor && ((siteOf d u.unit).isNone || (core d u.unit).st == .muzzled)) then some stFenced else none

/-- Start every unit of an entry; `args` are ARG1 to ARG4. -/
def startEntry (d : Dev) (i : Nat) (it : Item) (us : List UnitRec) (args : List Nat) : Dev :=
  let d := setItem d i (some { it with started := true, units := us.map unitNo })
  us.foldl (fun d u =>
    if u.floor then startFloor d u.unit u.start i
    else
      startCore d u.unit u.start ((List.range 4).map (fun k => (args.getD k 0 + u.offs.getD k 0) % 2 ^ 48)) i) d

def runDesc (p q : Nat) (d : Dev) : Dev :=
  match readyHead d p q 1 with
  | none => d
  | some (i, it) =>
    match refusedStart d p it with
    | some s => finishPlain d i s
    | none =>
      let us := (entryOf d it).getD []
      if us.all (unitFree d) then startEntry d i it us [itw it 2, itw it 3, itw it 4, itw it 5] else d

/-- Is a tower one of a partition's? -/
def ownTower (d : Dev) (p t : Nat) : Bool := partOf d t == some p

/-- May a batch table lie here: in one tower of the partition, in pages with HR, HW and DW set and PART equal (R258)? -/
def tableOk (d : Dev) (p a n : Nat) : Bool :=
  let t := bits a 40 36
  let ks := [bits a 35 21, bits (a + 16 * n - 1) 35 21]
  a < 2 ^ 41 && bits (a + 16 * n - 1) 40 36 == t && ownTower d p t &&
    ks.all (fun k => k < Config.pages d.kind && mePart (entry d t k) == p && meHR (entry d t k) && meHW (entry d t k) && meDW (entry d t k))

/-- Entry of a batch table: word 0 (R258). -/
def batchRec (w pos : Nat) : BatchRec := ⟨bits w 19 0, bits w 35 20, bits w 43 36, bit w 44, pos⟩

/-- Entries in walker order: ascending towers, table order within each (R259). -/
def walkOrder (bs : List BatchRec) : List BatchRec :=
  (List.range 32).flatMap (fun t => bs.filter (fun b => recTower b.record == t))

/-- What the walkers find at the start of a batch step: a status it fails with, a wait (none), or OK. -/
def walkCheck (d : Dev) (p : Nat) (ws : List Nat) : Option Nat :=
  let bs := (List.range ws.length).map (fun i => batchRec (ws.getD i 0) i)
  let res := (walkOrder bs).findSome? (fun b =>
    let h := hkOf d b.record
    let twice := (bs.filter (fun c => c.record == b.record && c.pos < b.pos)).length > 0
    if bits (ws.getD b.pos 0) 63 45 != 0 || !ownTower d p (recTower b.record) || twice then some (some stMalformed)
    else if h.part != p || !liveState h.state then some (some stNotNow)
    else if h.busy then some none
    else none)
  match res with
  | none => some stOk
  | some r => r

/-- BUSY is set or cleared in a record and its housekeeping copy. -/
def setBusy (d : Dev) (n : Nat) (v : Bool) : Dev :=
  let d := setHk d n { hkOf d n with busy := v }
  match recRead d n with
  | (d, some ws) => recWrite d n (rput ws 0 15 15 v.toNat)
  | (d, none) => d

/-- The table of a BATCH_STEP: its address and its entries. -/
def batchTable (it : Item) : Nat × Nat := (itw it 2 % 2 ^ 44, bits (itw it 1) 31 16 + 1)

/-- The entry of a BATCH_STEP starts: ARG4 is its table (R240). -/
def batchStart (d : Dev) (i : Nat) (it : Item) : Dev :=
  startEntry d i { it with stage := .idle } ((entryOf d it).getD []) [itw it 3, itw it 4, itw it 5, it.batchAddr]

/-- Steps 1 and 2 of R259, once the table is read: a wait on a BUSY record, a failure, or every named record takes BUSY and word 1 of every
entry is zeroed. The entry starts when the zeros stand in the table. -/
def batchGo (d : Dev) (p i : Nat) (it : Item) : Dev :=
  let (a, n) := batchTable it
  let ws := tableWords it
  match walkCheck d p ws with
  | none => d
  | some s =>
    if s != stOk then finishPlain d i s
    else
      let recs := walkOrder ((List.range n).map (fun j => batchRec (ws.getD j 0) j))
      let d := recs.foldl (fun d b => setBusy d b.record true) d
      let d := (List.range n).foldl (fun d j => walkWrite d (a + 16 * j + 8) (zeros 8)) d
      let it := { it with batch := recs, batchAddr := a }
      if (walkWaiting d a (16 * n)).isEmpty then batchStart d i it
      else setItem d i (some { it with started := true, units := ((entryOf d it).getD []).map unitNo, stage := .zeroing })

/-- BATCH_STEP at the head of its ring: the walkers read its table, in the FETCH turns of its columns, and then check it. -/
def batchStepDesc (p q : Nat) (d : Dev) : Dev :=
  match readyHead d p q 2 with
  | none => d
  | some (i, it) =>
    match refusedStart d p it with
    | some s => finishPlain d i s
    | none =>
      if !((entryOf d it).getD []).all (unitFree d) then d
      else
        match it.stage with
        | .idle =>
          let (a, n) := batchTable it
          if tableOk d p a n then newJob (setItem d i (some { it with stage := .reading })) (.table i) false p a (16 * n)
          else finishPlain d i stMalformed
        | .read => batchGo d p i it
        | _ => d

/-- The table of a BATCH_STEP has been read for its start, or its read has failed. -/
def tableCame (d : Dev) (i : Nat) (res : Except Nat (List Byte)) : Dev :=
  match item d i with
  | none => d
  | some it =>
    if it.started || it.ended then d
    else
      match res with
      | .error s => finishPlain d i s
      | .ok bs => batchStepDesc it.part it.ring (setItem d i (some { it with stage := .read, table := bs }))

/-- Sum that saturates at 2^32 − 1 (R254). -/
def satAdd (a b : Nat) : Nat := min (a + b) (2 ^ 32 - 1)

/-- Does a transition of a record, caused by a step, write a STREAM completion now? -/
def mirrorsNow (d : Dev) (n : Nat) : Bool :=
  let h := hkOf d n
  !h.pending && rqOn (rq d h.part h.ring)

/-- One record after its batch step completes OK, `w1` its word 1 of the table; the counts are entries advanced and STREAM completions
written. -/
def walkRecord (why : Cause) (w1 : Option Nat) (b : BatchRec) (s : Dev × Nat × Nat) : Dev × Nat × Nat :=
  let (d, adv, cps) := s
  let n := b.record
  if !liveState (hkOf d n).state then (setHk d n { hkOf d n with busy := false }, adv, cps)
  else
    let openNow (d : Dev) : Dev × Nat :=
      if (hkOf d n).state == ssOpen then
        let c := (mirrorsNow d n).toNat
        match recRead d n with
        | (d, some ws) => (transition d n ws ssActive stOk why none, c)
        | (d, none) => (d, 0)
      else (d, 0)
    let (d, c1) := openNow d
    match w1, recRead d n with
    | none, (d, some ws) =>
      let c := (mirrorsNow d n).toNat
      (transition d n (rput ws 0 15 15 0) ssFailed stUncorr why none, adv, cps + c1 + c)
    | _, (d, none) => (d, adv, cps + c1)
    | some w, (d, some ws) =>
      if bits w 63 41 != 0 || bits w 39 32 > b.gen then
        let c := (mirrorsNow d n).toNat
        (transition d n (rput ws 0 15 15 0) ssFailed stMalformed why none, adv, cps + c1 + c)
      else
        let gen := satAdd (rget ws 3 63 32) (bits w 39 32)
        let ws := rput ws 3 31 0 (satAdd (rget ws 3 31 0) b.prompt)
        let ws := rput ws 3 63 32 gen
        let ws := rput ws 4 63 32 (satAdd (rget ws 4 63 32) 1)
        let ws := if bits w 39 32 > 0 then rput ws 7 31 0 (bits w 31 0) else ws
        let ws := rput ws 0 15 15 0
        let max_ := rget ws 4 31 0
        if b.stop || bit w 40 || (max_ != 0 && gen ≥ max_) then
          let c := (mirrorsNow d n).toNat
          (transition d n ws ssEnded stOk why none, adv + 1, cps + c1 + c)
        else
          (recWrite (setHk d n { hkOf d n with busy := false }) n ws, adv + 1, cps + c1)

/-- A named stream of a batch step that fails. -/
def failNamed (status : Nat) (why : Cause) (b : BatchRec) (s : Dev × Nat) : Dev × Nat :=
  let (d, cps) := s
  if !liveState (hkOf d b.record).state then (setHk d b.record { hkOf d b.record with busy := false }, cps)
  else
    let c := (mirrorsNow d b.record).toNat
    (failRecord d b.record status why, cps + c)

def itemCause (it : Item) (direct : Bool) : Cause := ⟨some (it.part, it.ring), it.seq, it.sqIdx, direct⟩

/-- A RUN or BATCH_STEP ends: OK when every unit has reached END, or with the status of a fault (R247). The walkers of a BATCH_STEP that
ends OK first read its table again; one that fails takes its named streams with it (R259). -/
def endRun (d : Dev) (i status : Nat) : Dev :=
  match item d i with
  | none => d
  | some it =>
    if it.ended then d
    else if it.op != 2 then finishPlain d i status
    else if status == stOk then
      newJob (setItem d i (some { it with stage := .walking })) (.walk i) false it.part it.batchAddr (16 * it.batch.length)
    else
      let (d, cps) := it.batch.foldl (fun s b => failNamed status (itemCause it false) b s) (d, 0)
      finish d i status 0 0 0 0 cps (it.batch.map (·.record))

/-- Word 1 of an entry read by itself; none where it cannot be read. -/
def wordOne (a : Nat) (d : Dev) : Dev × Option Nat :=
  match readTower d .device (a + 8) 8 with
  | (d, .ok bs) => (d, some (leNat bs))
  | (d, .error _) => (d, none)

/-- Step 3 of R259: the walkers act on the streams of a step whose programs completed. A table that could not be read whole is read entry by
entry, and a stream whose word cannot be read fails with UNCORR. -/
def walkCame (d : Dev) (i : Nat) (res : Except Nat (List Byte)) : Dev :=
  match item d i with
  | none => d
  | some it =>
    if it.ended then d
    else
      let word (d : Dev) (b : BatchRec) : Dev × Option Nat := match res with
        | .ok bs => (d, some (leNat ((bs.drop (16 * b.pos + 8)).take 8)))
        | .error _ => wordOne (it.batchAddr + 16 * b.pos) d
      let (d, adv, cps) := it.batch.foldl (fun s b =>
        let (d, w) := word s.1 b
        walkRecord (itemCause it false) w b (d, s.2)) (d, 0, 0)
      finish d i stOk 0 0 0 adv cps (it.batch.map (·.record))

/-- Items of a partition that the walkers hold while a reset quiesces it: a step about to start fails with RESET, and one whose programs have
ended is walked to its end, for it needs no further step (R354). -/
def quietItems (p : Nat) (d : Dev) : Dev :=
  (d.items.map (·.1)).foldl (fun d i =>
    match item d i with
    | none => d
    | some it =>
      if it.part != p || it.ended then d
      else if it.stage == .zeroing then endRun d i stReset
      else if it.stage == .walking then walkCame d i (.error stReset)
      else d) d

/-- A unit's program has ended: its direct energy is booked and it leaves the item's units. -/
def unitEnds (d : Dev) (i u : Nat) : Dev :=
  let d := snapUnit d u (item d i)
  match item d i with
  | none => d
  | some it =>
    let us := it.units.filter (· != u)
    let gone := us.isEmpty && it.ended && !(rq d it.part it.ring).order.contains i
    setItem d i (if gone then none else some { it with units := us })

/-- The lowest-numbered unit of an item that faults among the events gives the status (R247). -/
def faultOf (es : List UnitEv) (i : Nat) : Option (Nat × Nat) :=
  es.foldl (fun b e =>
    match e with
    | .fault j u s => if j != i then b else match b with
      | some (v, _) => if u < v then some (u, s) else b
      | none => some (u, s)
    | .stop _ _ _ | .done _ _ => b) none

/-- Why item `i` fails: its faults give one reason, the lowest-numbered unit's (R247), and beside it stand the muzzles, resets and holds that
stopped its units in the same A-cycle; the reason that R356 places first is given, with its unit. -/
def reasonOf (es : List UnitEv) (i : Nat) : Option (Nat × Nat) :=
  es.foldl (fun b e =>
    match e with
    | .stop j u s => if j != i then b else match b with
      | some (_, t) => if statusRank s < statusRank t then some (u, s) else b
      | none => some (u, s)
    | .fault _ _ _ | .done _ _ => b) (faultOf es i)

/-- Region of a unit. -/
def unitRegion (u : Nat) : Nat := if u < 4096 then coreRegion u else u - 4096

/-- What the units have reported takes effect on their items. -/
def processEvents (d : Dev) : Dev :=
  let es := d.events
  let d := { d with events := [] }
  es.foldl (fun d e =>
    match e with
    | .done i u =>
      let d := unitEnds d i u
      match item d i with
      | some it => if it.units.isEmpty && !it.ended then endRun d i stOk else d
      | none => d
    | .fault i u _ | .stop i u _ =>
      let d := unitEnds d i u
      match item d i, reasonOf es i with
      | some it, some (v, s) =>
        if it.ended then d
        else
          let d := if s == stFenced then count d (rgnPg (unitRegion v)) RGN.ITEMS_FENCED 1 else d
          endRun (haltPart d it.part) i s
      | _, _ => d) d

/-! ## Stream descriptors (R256, R257) -/

/-- A record whose tower is under reset waits (R355). -/
def recHeld (d : Dev) (n : Nat) : Bool := (tower d (recTower n)).hold

def streamOpenDesc (p q : Nat) (d : Dev) : Dev :=
  match readyHead d p q 3 with
  | none => d
  | some (i, it) =>
    let st := partState d p
    let n := bits (itw it 1) 19 0
    let root := itw it 2 % 2 ^ 44
    if st != psLoaded && st != psHalted then finishPlain d i stNotNow
    else if !ownTower d p (recTower n) || root ≥ 2 ^ 41 || !ownTower d p (bits root 40 36) then finishPlain d i stMalformed
    else if (hkOf d n).state != ssFree then finishPlain d i stNotNow
    else if recHeld d n then d
    else
      let r := bits (itw it 1) 25 20
      let ws := [p * 2 ^ 17 + r * 2 ^ 20, itw it 4, itw it 2, 0, itw it 3 % 2 ^ 32, 0,
        getF d lifePg LIFE.LIFE_STAT_NOTE_IDX * 2 ^ 32, it.seq * 2 ^ 32, recStamp d n, 0, 0, 0, 0, 0, 0, 0]
      let d := setAcct d n (some { Acct.init with part := p })
      let d := transition d n ws ssOpen stOk (itemCause it true) none
      finish d i stOk ssFree ssOpen n 0 0 [n]

def streamAbortDesc (p q : Nat) (d : Dev) : Dev :=
  match readyHead d p q 4 with
  | none => d
  | some (i, it) =>
    let n := bits (itw it 1) 19 0
    let h := hkOf d n
    if h.part != p || !liveState h.state then finishPlain d i stNotNow
    else if h.busy || recHeld d n then d
    else
      match recRead d n with
      | (d, none) => finishPlain d i stUncorr
      | (d, some ws) =>
        let d := transition d n ws ssFailed stAborted (itemCause it true) none
        finish d i stAborted h.state ssFailed n (rget ws 3 63 32) (hkOf d n).receipt [n]

/-- Does a release that has started still clear its pages, with record `n` its own? -/
def releasing (d : Dev) (n : Nat) : Bool :=
  d.items.any (fun x => match x.2 with
    | some it => !it.ended && (it.stage == .listing || it.stage == .clearing) && bits (itw it 1) 19 0 == n
    | none => false)

/-- May a record be released: it is the partition's, ENDED or FAILED, with no mirror pending (R257)? -/
def releaseOk (p : Nat) (h : HkRec) : Bool := h.part == p && (h.state == ssEnded || h.state == ssFailed) && !h.pending

/-- A release writes its record as zero: D1 is the record's receipt, or the pages passed over. -/
def releaseGo (d : Dev) (i : Nat) (it : Item) (skipped : Option Nat) : Dev :=
  let n := bits (itw it 1) 19 0
  let h := hkOf d n
  match recRead d n with
  | (d, none) => finishPlain d i stUncorr
  | (d, some ws) =>
    let d1 := skipped.getD (rget ws 6 31 0)
    finish (transition d n ws ssFree stOk (itemCause it true) (some d1)) i stOk h.state ssFree n (rget ws 3 63 32) d1 [n]

def streamReleaseDesc (p q : Nat) (d : Dev) : Dev :=
  match readyHead d p q 5 with
  | none => d
  | some (i, it) =>
    let n := bits (itw it 1) 19 0
    if !releaseOk p (hkOf d n) then finishPlain d i stNotNow
    else if (acctOf d n).isSome || recHeld d n || releasing d n then d
    else if !bit (itw it 1) 20 then releaseGo d i it none
    else
      match recRead d n with
      | (d, none) => finishPlain d i stUncorr
      | (d, some ws) =>
        newJob (setItem d i (some { it with started := true, stage := .listing })) (.kv i) false p (rget ws 2 43 0)
          (4 * rget ws 2 63 48)

/-- Page of an entry of a KV list. -/
def kvPage (e : Nat) : Nat × Nat := (bits e 31 27, bits e 26 12)

/-- The KV list has come: it fails the release, or the clear of every page that is the partition's joins the queue of its bank column (R257). -/
def kvCame (d : Dev) (i : Nat) (res : Except Nat (List Byte)) : Dev :=
  match item d i with
  | none => d
  | some it =>
    if it.ended then d
    else
      match res with
      | .error s => finishPlain d i s
      | .ok bs =>
        let es := (pieces 4 bs).map leNat
        if es.any (fun e => bits e 11 0 != 0 || bits e 26 12 ≥ Config.pages d.kind) then finishPlain d i stMalformed
        else
          let mine := (es.map kvPage).filter (fun x => meState (entry d x.1 x.2) != meAbsent && mePart (entry d x.1 x.2) == it.part)
          let d := setItem d i (some { it with stage := .clearing, left := mine.length, skipped := es.length - mine.length })
          mine.foldl (fun d x =>
            let b := pageCol d x.1 x.2
            let alone := (column d x.1 b).queue.isEmpty
            let d := queuePiece d x.1 b ⟨x.2, 0, 0, .clear, .kvClear i⟩
            if alone then hostPiece x.1 b d else d) d

/-- A core's number that is held empty (R368). -/
def heldEmpty (d : Dev) (u : Nat) : Bool := decide (u < 4096) && (core d u).st == .muzzled

/-- What an item waited for in tower memory has happened: a table is zeroed and its entry starts, unless a core of it is held empty by then,
or a release's pages are cleared. -/
def itemGo (d : Dev) (i : Nat) : Dev :=
  match item d i with
  | none => d
  | some it =>
    if it.ended then d
    else if it.stage == .zeroing then
      if !(walkWaiting d it.batchAddr (16 * it.batch.length)).isEmpty then d
      else if it.units.any (heldEmpty d) then endRun d i stFenced
      else batchStart d i it
    else if it.stage == .clearing && it.left == 0 then
      if releaseOk it.part (hkOf d (bits (itw it 1) 19 0)) then releaseGo d i it (some it.skipped) else finishPlain d i stNotNow
    else d

def itemsPump (d : Dev) : Dev := (d.items.map (·.1)).foldl itemGo d

def nopDesc (p q : Nat) (d : Dev) : Dev :=
  match readyHead d p q 6 with
  | none => d
  | some (i, _) => finishPlain d i stOk

/-! ## Rings: doorbells, ABORT, enabling (R244, R249, R252, R260) -/

/-- SQ_TAIL written (R244). -/
def sqDoorbell (p q v : Nat) (d : Dev) : Dev × Nat :=
  let r := rq d p q
  if !rqOn r then (notNow d (partPg p), stNotNow)
  else if v ≥ sqSize r then
    (bark d 0x1A02 (partPg p) (lead d) 1 (some p) none ([BitVec.ofNat 8 q, 0] ++ leBytes 2 v), stOk)
  else (readNext (setRq d p q { r with tail := v }) p q, stOk)

/-- CQ_HEAD written (R249). -/
def cqDoorbell (p q v : Nat) (d : Dev) : Dev × Nat :=
  let r := rq d p q
  if !rqOn r then (notNow d (partPg p), stNotNow)
  else (cplPump (setRq d p q { r with cqHead := v }) p q, stOk)

/-- Every descriptor of a ring that has not started ends with a status, those between SQ_HEAD and the tail as they are read
(R252, R365). -/
def abortRing (d : Dev) (p q status : Nat) : Dev :=
  let r := rq d p q
  if !rqOn r then d
  else
    let left := (r.tail + sqSize r - r.head) % sqSize r
    let d := setRq d p q { r with abortN := left, abortAs := status }
    let is := r.order.filter (fun i => match item d i with | some it => !it.started && !it.ended | none => false)
    is.foldl (fun d i => finishPlain d i status) d

def ringAbort (p : Nat) (d : Dev) : Dev := abortRing d p (getF d (partPg p) PART.RING_SEL_RING) stAborted

/-- A ring with no item outstanding is disabled: the mirrors it held become pending, and a descriptor still being read is given up (R252,
R260). -/
def ringOff (p q : Nat) (v : Word64) (d : Dev) : Dev :=
  let d := holdMirrors p q d
  let d := { d with jobs := d.jobs.filter (fun x => match x.2 with | some j => j.kind != .desc p q | none => false) }
  setRq d p q { rq d p q with cfg := v, reading := false }

/-- RING_CFG written for the selected ring, free of reserved codes (R243, R252, R260). -/
def ringConfig (p : Nat) (v : Word64) (d : Dev) : Dev × Nat :=
  let q := getF d (partPg p) PART.RING_SEL_RING
  let r := rq d p q
  let on := fieldOf v PART.RING_CFG_ENABLE == 1
  let v := BitVec.ofNat 64 (v.toNat % 2 ^ 19 - bits v.toNat 4 1 * 2)
  if rqOn r then
    if on || outstanding r != 0 then (notNow d (partPg p), stNotNow)
    else (ringOff p q v d, stOk)
  else if on then
    let d := setRq d p q { RingQ.init with cfg := v, sqBase := r.sqBase, cqBase := r.cqBase, streamCpl := r.streamCpl }
    (pendingMirrors d p q, stOk)
  else (setRq d p q { r with cfg := v }, stOk)

/-- SQ_BASE or CQ_BASE written for the selected ring. -/
def ringBase (p : Nat) (cq : Bool) (v : Word64) (d : Dev) : Dev × Nat :=
  let q := getF d (partPg p) PART.RING_SEL_RING
  let r := rq d p q
  if rqOn r then (notNow d (partPg p), stNotNow)
  else (setRq d p q (if cq then { r with cqBase := v } else { r with sqBase := v }), stOk)

/-- Descriptors that end on reaching the head of their ring (R245). -/
def badGo (p q : Nat) : Nat → Dev → Dev
  | 0, d => d
  | f + 1, d =>
    match headItem d p q with
    | some (i, it) =>
      match it.bad with
      | some s => badGo p q f (finishPlain d i s)
      | none => d
    | none => d

def ringsPass (d : Dev) : Dev :=
  (d.rqs.map (·.1)).foldl (fun d k =>
    let p := k / 64
    let q := k % 64
    cplPump (badGo p q ((rq d p q).order.length) (readNext d p q)) p q) d

/-- The rings go on; a second pass writes what waited for a completion of a ring that stands after its own. -/
def ringsPump (d : Dev) : Dev := ringsPass (ringsPass (itemsPump d))

end Sys2Proof.Machine
end

