-- ==== Sys2Proof/Machine/Quiet.lean ====
section
/-!
DEFINITION. Bringing units to rest at a reset boundary, a plan load or an unload (R354, R357, R363): cores and floor
sequencers, tokens and lists, channels and whistle messages, host pieces, and the logical map of a pack (R340).
-/
namespace Sys2Proof.Machine

def sumOf (l : List Nat) : Nat := l.foldl (· + ·) 0

/-! ## Cores and floor sequencers -/

/-- A core that stops with its started steps discarded: queues, loops, tokens, elastic links and faults as after R357. A
muzzled core stays so. -/
def quietCore (c : Core) : Core :=
  { c with st := if c.st == .muzzled then .muzzled else .heel, wait := 0, heelReq := false, heelBy := false, phase := 0, pc := 0,
           entry := 0, faultStep := 0, faultCode := 0, loops := [], q := [], holders := [], toks := [], parked := [],
           active := none, shadow := none, loads := [], activeRec := none, link0 := [], drained := [], item := none }

/-- Depth of an elastic link of a core (R53). -/
def elasticDepth (l : Nat) : Nat := if l == 11 || l == 12 then 32 else if l < 15 then 16 else 0
/-- Units of 64 bytes that a core's started sends hold before the window of their channel (R216). -/
def sendBacklog (d : Dev) (n : Nat) : Nat :=
  sumOf ((core d n).q.map (fun q =>
    if q.eng == .move && wOp q.word.toNat == 7 && q.started then (56 * sendFramesLeft d n q + 63) / 64 else 0))

/-- Entries in the buffer of an elastic link (R53): units fed and not yet taken by a stream, drained rows not yet taken by the vector unit,
which hold an entry of each drain lane, and units on their way to a vertical channel whose window is full. The other links pass what
they are given within one command and stand empty between commands, and leashes return at once (log entry 15). -/
def elasticHeld (d : Dev) (n l : Nat) : Nat :=
  if l == 0 then (core d n).link0.length
  else if 6 ≤ l && l ≤ 9 then (core d n).drained.length
  else if l == 11 then min 32 (sendBacklog d n) else 0
/-- Elastic-link leashes that return when a core comes to rest (R54): one for each entry its links hold. -/
def coreLeashes (d : Dev) (n : Nat) : Nat := sumOf ((List.range 15).map (elasticHeld d n))

/-- Floor sequencer at rest; its fault is cleared. -/
def quietFloor (f : Floor) : Floor :=
  { f with st := .heel, wait := 0, cmd := 0, entry := 0, heelReq := false, heelBy := false, faultCol := 0, faultCmd := 0,
           faultCode := 0, running := false, turnSent := false, clearWait := none, time := FloorTime.init, held := [], item := none }

/-- A floor sequence that is running ends with a status; its item hears of it (R202). -/
def stopFloor (d : Dev) (t : Nat) (status : Nat) : Dev :=
  match (floor d t).item with
  | none => d
  | some i => if (floor d t).st == .fault then d else event (count d (flrPg t) FLR.SEQ_FAILED 1) (.stop i (4096 + t) status)

/-! ## Lists and tokens (R134) -/

/-- Every token of a region that is away counts as returned. -/
def tokensBack (d : Dev) (r : Nat) : Dev := count d (ordPg r) ORD.TOK_RETURNED (ordOut d r)

/-- Channel `p` of region `r` to itself, which does not exist (R123). -/
def noChannel (r p : Nat) : Bool := p == 172 + r || p == 204 + r

/-- Each port of a region, its list chosen by `f` from what it has, at entry 0 with its token at the port. -/
def resetPorts (f : Nat → Port → Port) (r : Nat) (d : Dev) : Dev :=
  let d := (List.range 236).foldl (fun d p =>
    if noChannel r p then d else setPort d r p (resetPort p (f p (port d r p)))) d
  let d := (List.range 136).foldl (fun d b => setPort d r (236 + b) { Port.init with units := (port d r (236 + b)).units }) d
  setF d (xbarPg r) XBAR.XBAR_HALT 0

/-- The no-plan form (R127, R130). -/
def noPlanPort (_ : Nat) (x : Port) : Port := { x with list := none, plan := false }

/-- Let every port of a region act on the entry it stands at. -/
def servePorts (r : Nat) (d : Dev) : Dev := (List.range 236).foldl (fun d p => serve d r p serveFuel) d

/-- Host pieces of a column are served from the head until it is empty or a clear waits (R355, R363). -/
def serveColumn (t b : Nat) : Nat → Dev → Dev
  | 0, d => d
  | f + 1, d =>
    let n := (column d t b).queue.length
    let d' := hostPiece t b d
    if (column d' t b).queue.length < n then serveColumn t b f d' else d'

def serveTower (t : Nat) (d : Dev) : Dev :=
  (List.range 136).foldl (fun d b => serveColumn t b (column d t b).queue.length d) d

/-- Host transactions waiting in the columns of a tower: reads by port and tag, writes by port and place of arrival. -/
def hostWaiting (d : Dev) (t : Nat) : List (Nat × Nat) :=
  ((List.range 136).flatMap (fun b => (column d t b).queue.filterMap (fun p =>
    match p.purpose with
    | .hostRead h tag _ _ _ => some (h, tag)
    | .hostWrite h i _ => some (h, 4096 + i)
    | _ => none))).eraseDups

/-! ## Channels, bundles and whistle messages -/

/-- A drained channel: nothing waiting or unacknowledged, the receiver expecting the sender's next frame (R363). -/
def drainedChan (c : Chan) : Chan :=
  { c with waiting := [], unacked := [], lastNak := none, expect := c.txNext, nak := false, rx := [], skip := 0 }

/-- A channel after the Start phase of a training: sequence numbers and window as new (R227). -/
def freshChan (c : Chan) : Chan := { Chan.init with sendK := c.sendK }

def mapChans (f : Chan → Chan) (r : Nat) (d : Dev) : Dev :=
  let d := (List.range 32).foldl (fun d j => if j == r then d else
    setChan (setChan d r j (f (chan d r j))) j r (f (chan d j r))) d
  (List.range 136).foldl (fun d b => setBundle (setBundle d r b true (f (bundle d r b true))) r b false
    (f (bundle d r b false))) d

/-- Does a whistle message concern a region: does either end lie in it? -/
def msgIn (rs : List Nat) (m : WMsg) : Bool := rs.contains (ringOf m.src).1 || rs.contains (ringOf m.dst).1

/-- The whistle is quieted for regions: their messages are acknowledged or given up; the leashes of messages that never
arrived return (R363). -/
def quietWhistle (rs : List Nat) (d : Dev) : Dev × Nat :=
  let lost := d.wmsgs.filter (fun m => msgIn rs m && !m.seen)
  ({ d with wmsgs := d.wmsgs.filter (fun m => !msgIn rs m) }, sumOf (lost.map (·.cnt)))

/-! ## Regions -/

/-- Every core and the floor sequencer of a region come to rest, with the elastic-link leashes they return. -/
def quietRegion (r : Nat) (d : Dev) : Dev × Nat :=
  let n := sumOf ((List.range 128).map (fun u => coreLeashes d (128 * r + u)))
  let d := (List.range 128).foldl (fun d u => setCore d (128 * r + u) (quietCore (core d (128 * r + u)))) d
  let d := setFloor d r (quietFloor (floor d r))
  (d, n)

def quietRegions (rs : List Nat) (d : Dev) : Dev × Nat :=
  rs.foldl (fun s r => let (d, n) := quietRegion r s.1; (d, s.2 + n)) (d, 0)

/-- Units of an item leave it: what runs for it has ended. -/
def dropUnits (p : Nat) (d : Dev) : Dev :=
  { d with items := d.items.filterMap (fun x =>
      match x.2 with
      | none => none
      | some it =>
        if it.part != p then some x
        else if it.ended && !(rq d it.part it.ring).order.contains x.1 then none
        else some (x.1, some { it with units := [] })) }

/-- Sync links of the regions' cores take the values of the plan (R116, R363). -/
def setSyncs (recs : List SyncRec) (rs : List Nat) (d : Dev) : Dev :=
  let d := rs.foldl (fun d r => (List.range 128).foldl (fun d u =>
    let n := 128 * r + u
    setCore d n { core d n with sync := [] }) d) d
  recs.foldl (fun d x =>
    let c := core d x.core
    setCore d x.core { c with sync := mput SyncLink.none c.sync x.lnk ⟨x.farCore, x.farLink, x.depth, x.here, 0⟩ }) d

/-! ## Frames under suspicion (R178) -/

/-- Suspect frames of a tower migrate where their page's partition has no plan loaded. -/
def migrateSuspects (t : Nat) (d : Dev) : Dev :=
  (tower d t).suspect.foldl (fun d f =>
    match (tower d t).map.find? (fun x => meFrame x.2 == f && (meState x.2 == meFresh || meState x.2 == meValid)) with
    | none => d
    | some (k, e) =>
      if planLoaded d (mePart e) then d
      else
        match frameFor d t k with
        | none => d
        | some g => (migratePage d t k g false).1) d

/-! ## The logical map of a pack (R340) -/

/-- Sites of a pack that are good and not muzzled. -/
def siteGood (d : Dev) (k s : Nat) : Bool :=
  bit (getF d (packPg k) PACK.PACK_INV_SITE_GOOD) s && !bit (getF d (packPg k) PACK.PACK_MUZZLED) s

/-- Site of each logical core of a pack of `n` cores; `keep` gives the site a number stands on and keeps while it is good,
itself at the map build. -/
def placeSites (good : Nat → Bool) (n : Nat) (keep : Nat → Option Nat) : List (Nat × Nat) :=
  let k := min n ((List.range 34).filter good).length
  let kept := (List.range k).filterMap (fun c => match keep c with
    | some s => if good s then some (c, s) else none
    | none => none)
  let free := (List.range 34).filter (fun s => good s && !(kept.map (·.2)).contains s)
  let open_ := (List.range k).filter (fun c => !(kept.map (·.1)).contains c)
  kept ++ open_.zip free

/-- Write a pack's site map: PACK_LMAP, LOGICAL, the CORE pages of its numbers and DIE_UNITS.REDUCED. -/
def writeMap (k : Nat) (m : List (Nat × Nat)) (d : Dev) : Dev :=
  let pg := packPg k
  let d := (List.range 32).foldl (fun d c =>
    let n := 32 * k + c
    match m.find? (fun x => x.1 == c) with
    | some (_, s) =>
      let d := setF (setF d pg (PACK.PACK_LMAP_PRESENT.at c) 1) pg (PACK.PACK_LMAP_SITE.at c) s
      setReg d (corePg n) 0x108 (BitVec.ofNat 64 (2 ^ 31 + coreDie n * 2 ^ 16 + coreRegion n % 4 * 2 ^ 12 + k % 4 * 2 ^ 8 + s))
    | none =>
      let d := setF (setF d pg (PACK.PACK_LMAP_PRESENT.at c) 0) pg (PACK.PACK_LMAP_SITE.at c) 0
      setCore (setReg d (corePg n) 0x108 0) n Core.init) d
  let d := setF d pg PACK.PACK_INV_LOGICAL m.length
  let g := k % 16
  let die := k / 16
  let was := getF d (diePg die) DIE.DIE_UNITS_REDUCED
  let off := if bit was g then was - 2 ^ g else was
  packSpare (setF d (diePg die) DIE.DIE_UNITS_REDUCED (if m.length < Config.coresPerPack d.kind then off + 2 ^ g else off)) k

end Sys2Proof.Machine
end

