-- ==== Sys2Proof/Machine/Plans.lean ====
section
/-!
DEFINITION. Run plans (R237 to R242): the plan image and its checks, the loading of a plan, its page placements (R159), and
unloading. A load is a read of the image; the state changes when the header, the section table and the whole image have
been read.
-/
namespace Sys2Proof.Machine

/-! ## The image (R237) -/

/-- A section: its place in the section table, and whether it lies within the image and passes its CRC. -/
structure Sect where
  idx : Nat
  kind : Nat
  target : Nat
  body : List Byte
  ok : Bool
deriving DecidableEq, Repr

def slicesOf (b : List Byte) (a n : Nat) : List Byte := (b.drop a).take n
def leAt (b : List Byte) (a n : Nat) : Nat := leNat (slicesOf b a n)

def imgSections (b : List Byte) : Nat := leAt b 4 4
def imgLength (b : List Byte) : Nat := leAt b 16 8
def imgRegions (b : List Byte) : List Nat := (List.range 32).filter (fun r => bit (leAt b 8 4) r)
/-- Bytes of the header and the section table. -/
def tableEnd (b : List Byte) : Nat := 64 + 16 * imgSections b

def allZero (bs : List Byte) : Bool := bs.all (· == 0)

/-- FORMAT, reserved fields and SECTIONS of a header of 64 bytes (R237, R241 step 2). -/
def headerOk (b : List Byte) : Bool :=
  leAt b 0 4 == 1 && 1 ≤ imgSections b && imgSections b ≤ 65536 && allZero (slicesOf b 12 4) && allZero (slicesOf b 24 36) &&
    !(imgRegions b).isEmpty

/-- The header CRC over bytes 0 to 59 and the section table. -/
def headerCrcOk (b : List Byte) : Bool :=
  crc32c (b.take 60 ++ slicesOf b 64 (16 * imgSections b)) == leAt b 60 4

def sectOf (b : List Byte) (i : Nat) : Sect :=
  let e := slicesOf b (64 + 16 * i) 16
  let len := leAt e 4 4
  let off := 64 * leAt e 8 4
  let body := slicesOf b off len
  ⟨i, leAt e 0 2, leAt e 2 2, body, off + len ≤ imgLength b && crc32c body == leAt e 12 4⟩

def sectsOf (b : List Byte) : List Sect := (List.range (imgSections b)).map (sectOf b)

def findSect (ss : List Sect) (kind target : Nat) : Option Sect := ss.find? (fun s => s.kind == kind && s.target == target)

/-! ## Entries (R239) -/

def unitRecOf (b : List Byte) : UnitRec :=
  let w := leAt b 0 8
  { floor := bit w 63, unit := bits w 11 0, start := bits w 31 16,
    offs := (List.range 4).map (fun i => leAt b (8 + 6 * i) 6) }

/-- Offset and number of the unit records of entry `e`. -/
def entryRec (b : List Byte) (e : Nat) : Nat × Nat :=
  let w := leAt b (8 + 8 * e) 8
  (32 * bits w 31 0, bits w 47 32)

def entryUnits (b : List Byte) (e : Nat) : List UnitRec :=
  let (off, n) := entryRec b e
  (List.range n).map (fun i => unitRecOf (slicesOf b (off + 32 * i) 32))

def entriesOf (b : List Byte) : List (List UnitRec) := (List.range (leAt b 0 2)).map (entryUnits b)

/-- Command words of a FLOOR section, and how many are loaded: up to the last that is not all zeros (R186). -/
def floorWords (b : List Byte) : List (BitVec 128) := (pieces 16 (b.take 524288)).map (fun w => BitVec.ofNat 128 (leNat w))
def floorLoaded (b : List Byte) : Nat := ((floorWords b).reverse.dropWhile (· == 0)).length

/-- Steps or commands that the plan loads for a unit; 0 for one it does not load. -/
def unitLoads (ss : List Sect) (u : UnitRec) : Nat :=
  if u.floor then ((findSect ss 5 u.unit).map (fun s => floorLoaded s.body)).getD 0
  else ((findSect ss 1 u.unit).map (fun s => s.body.length / 16)).getD 0

/-- The checks of an entry table (R239, R241 step 4). -/
def entryTableOk (rs : List Nat) (ss : List Sect) (b : List Byte) : Bool :=
  let n := leAt b 0 2
  1 ≤ n && n ≤ 1024 && allZero (slicesOf b 2 6) && 8 + 8 * n ≤ b.length &&
    (List.range n).all (fun e =>
      let (off, k) := entryRec b e
      let us := entryUnits b e
      bits (leAt b (8 + 8 * e) 8) 63 48 == 0 && 1 ≤ k && k ≤ 4352 && off + 32 * k ≤ b.length &&
        (List.range k).all (fun i =>
          let w := leAt b (off + 32 * i) 8
          bits w 15 12 == 0 && bits w 62 32 == 0 && (!bit w 63 || bits w 11 5 == 0)) &&
        us.all (fun u =>
          (if u.floor then rs.contains u.unit && u.offs.all (· == 0) else rs.contains (coreRegion u.unit)) &&
            u.start < unitLoads ss u) &&
        (us.map unitNo).eraseDups.length == us.length)

/-! ## Sections (R237, R238, R241 step 4) -/

/-- A section's TARGET names a unit of the region set that its kind admits. -/
def targetOk (d : Dev) (rs : List Nat) (s : Sect) : Bool :=
  match s.kind with
  | 1 | 2 => s.target < 4096 && rs.contains (coreRegion s.target) && (siteOf d s.target).isSome
  | 3 => s.target < 2 ^ 14 && rs.contains (s.target / 512) && s.target % 512 < 236 && !noChannel (s.target / 512) (s.target % 512)
  | 4 | 5 | 6 => rs.contains s.target
  | 7 | 8 => s.target == 0
  | _ => false

/-- Words of `n` bytes of a section. -/
def sectWords (n : Nat) (s : Sect) : List Nat := (pieces n s.body).map leNat

/-- Slot entries and column masks of a FLOOR section. -/
def floorSlots (b : List Byte) : List (BitVec 16) := (pieces 2 (slicesOf b 524288 278528)).map (fun w => BitVec.ofNat 16 (leNat w))
def floorMasks (b : List Byte) : List Nat := (pieces 32 (slicesOf b 802816 2048)).map leNat

def lengthOk (s : Sect) : Bool :=
  match s.kind with
  | 1 => s.body.length % 16 == 0 && s.body.length ≤ 65536
  | 2 => s.body.length == 128
  | 3 | 6 => s.body.length % 4 == 0
  | 4 => s.body.length == 320
  | 5 => s.body.length == 804864
  | 8 => s.body.length == 16
  | _ => true

/-- Reserved fields and the contents that a kind's own rule limits (R11, R237, R238, R381). -/
def contentsOk (d : Dev) (rs : List Nat) (ss : List Sect) (s : Sect) : Bool :=
  match s.kind with
  | 2 => (sectWords 8 s).all (fun w => bits w 63 40 == 0)
  | 4 => s.body.all (fun b => bits b.toNat 1 0 == 0)
  | 5 =>
    (floorMasks s.body).all (fun m => m / 2 ^ 136 == 0) &&
      (floorSlots s.body).all (fun e => e.toNat < 0x8000 || e == noPage)
  | 6 => (sectWords 4 s).all (fun w =>
      bits w 4 0 == 0 && bits w 31 17 < Config.pages d.kind && bits w 16 9 < 136 && !ledgerPage d.kind (bits w 31 17))
  | 7 => entryTableOk rs ss s.body
  | 8 => s.body.all (fun b => b.toNat ≤ 7)
  | _ => true

/-- The check that a section fails, by a number of its own: CRC or extent, kind, target, length, contents, twice. -/
def sectFails (d : Dev) (rs : List Nat) (ss : List Sect) (s : Sect) : Option Nat :=
  if !s.ok then some 1
  else if s.kind == 0 || s.kind > 8 then some 2
  else if !targetOk d rs s then some 3
  else if !lengthOk s then some 4
  else if s.kind != 4 && (ss.take s.idx).any (fun x => x.kind == s.kind && x.target == s.target) then some 5
  else if !contentsOk d rs ss s then some 6
  else none

/-- The first section at fault with its check; a section that is missing has no index of its own (R238). -/
def imageFails (d : Dev) (rs : List Nat) (ss : List Sect) : Option (Option Nat × Nat) :=
  match ss.findSome? (fun s => (sectFails d rs ss s).map (fun c => (some s.idx, c))) with
  | some x => some x
  | none =>
    if (findSect ss 7 0).isNone then some (none, 7)
    else
      let cores := rs.flatMap (fun r => (List.range 128).map (128 * r + ·))
      if cores.any (fun n => (siteOf d n).isSome && (findSect ss 1 n).isNone) then some (none, 8) else none

/-! ## Order lists (R129, R173, R231) -/

def listOf (s : Sect) : List (BitVec 32) := (sectWords 4 s).map (BitVec.ofNat 32)

/-- A kind or a reserved field of an entry that no list may hold, or an RPT that goes nowhere. -/
def entryBad (d : Dev) (r p i : Nat) (e : BitVec 32) : Bool :=
  let k := oeKind e
  let w := e.toNat
  if k == oeCore then (siteOf d (128 * r + oeUser e)).isNone
  else if k == oeFloor then bits w 28 22 != 0 || bits w 13 0 != 0 || p ≥ 136
  else if k == oeFetch then bits w 28 14 != 0 || p ≥ 136 || bits w 13 0 < 31
  else if k == oeRpt then oeTarget e ≥ i || oeCount e == 0
  else if k == oeEnd then bits w 27 0 != 0
  else true

def withIdx {α : Type} (l : List α) : List (Nat × α) := (List.range l.length).zip l

/-- Ranges of the RPT entries of a list. -/
def rptRanges (l : List (BitVec 32)) : List (Nat × Nat) :=
  (withIdx l).filterMap (fun x => if oeKind x.2 == oeRpt then some (oeTarget x.2, x.1) else none)

/-- Two ranges nest or stand apart. -/
def rangesOk (a b : Nat × Nat) : Bool :=
  a.2 < b.1 || b.2 < a.1 || (a.1 ≤ b.1 && b.2 ≤ a.2) || (b.1 ≤ a.1 && a.2 ≤ b.2)

/-- The lowest of the places found. -/
def firstOfAll (l : List (Option Nat)) : Option Nat :=
  l.foldl (fun m x => match m, x with
    | some a, some b => some (min a b)
    | none, x => x
    | m, none => m) none

/-- The first entry at fault of a list by itself (R129, R173): an entry past the longest list, a bad entry, the fifth RPT, an RPT whose range
crosses an earlier one, and the END, or the place after the last entry, of a list that lacks what it needs (log entry 103). -/
def listFault (d : Dev) (r p : Nat) (l : List (BitVec 32)) : Option Nat :=
  let rp := rptRanges l
  let turns := l.any (fun e => oeKind e ≤ 2)
  let most := if p < 136 then 2048 else 1024
  let ends := (l.findIdx? (fun e => oeKind e == oeEnd)).getD l.length
  let lacks := (match l.find? (fun e => oeKind e == oeEnd) with
     | none => true
     | some e => !turns && !oeStop e) || (p < 136 && !l.any (fun e => oeKind e == oeFetch))
  firstOfAll [if l.length > most then some most else none,
    ((withIdx l).find? (fun x => entryBad d r p x.1 x.2)).map (·.1),
    (rp[4]?).map (·.2),
    ((withIdx rp).find? (fun a => (rp.take a.1).any (fun b => !rangesOk a.2 b))).map (·.2.2),
    if lacks then some ends else none]

/-- The turns of one pass over a list with its repeats unrolled (R128): JOIN and user of each. -/
def unroll (l : List (BitVec 32)) : Nat → Nat → Map Nat → List (Nat × Nat)
  | 0, _, _ => []
  | f + 1, i, pass =>
    match l[i]? with
    | none => []
    | some e =>
      if oeKind e == oeEnd then []
      else if oeKind e == oeRpt then
        if mget 0 pass i < oeCount e then unroll l f (oeTarget e) (mupd 0 pass i (· + 1))
        else unroll l f (i + 1) (mput 0 pass i 0)
      else
        match entryUser e with
        | some u => (oeJoin e, u) :: unroll l f (i + 1) pass
        | none => unroll l f (i + 1) pass

/-- Longest unrolled pass: 2,048 entries under four nested repeats. -/
def unrollFuel : Nat := 2048 * 65536 ^ 4

def joinUsers (l : List (BitVec 32)) (x : Nat) : List Nat := ((unroll l unrollFuel 0 []).filter (·.1 == x)).map (·.2)

/-- Entries that join, by place (R128). -/
def joinEntries (l : List (BitVec 32)) : List (Nat × Nat) :=
  (withIdx l).filterMap (fun x => if (entryUser x.2).isSome && oeJoin x.2 != 0 then some (x.1, oeJoin x.2) else none)

/-- The occurrences of a join differ between its member lists, or it holds two crossbar tower ports (R129). -/
def joinBad (ls : List (Nat × List (BitVec 32))) (x : Nat) : Bool :=
  let ms := ls.filter (fun m => m.2.any (fun e => (entryUser e).isSome && oeJoin e == x))
  (ms.filter (fun m => 168 ≤ m.1 && m.1 < 172)).length > 1 ||
    (match ms with
     | [] => false
     | m :: rest => rest.any (fun k => joinUsers k.2 x != joinUsers m.2 x))

/-- ORDER sections of a region: port and list. -/
def regionLists (ss : List Sect) (r : Nat) : List (Nat × List (BitVec 32)) :=
  (ss.filter (fun s => s.kind == 3 && s.target / 512 == r)).map (fun s => (s.target % 512, listOf s))

/-- The first entry at fault of an ORDER section's list: by itself, or one of a join that fails. -/
def sectFault (d : Dev) (ss : List Sect) (s : Sect) : Option Nat :=
  let r := s.target / 512
  let l := listOf s
  firstOfAll [listFault d r (s.target % 512) l, ((joinEntries l).find? (fun x => joinBad (regionLists ss r) x.2)).map (·.1)]

/-- The first ORDER section whose list fails, with what its bark names: the region, the port and the first entry at fault (R129). -/
def listsFail (d : Dev) (ss : List Sect) : Option (Nat × List Byte) :=
  ss.findSome? (fun s => if s.kind != 3 then none
    else (sectFault d ss s).map (fun i => (s.idx, BitVec.ofNat 8 (s.target / 512) :: leBytes 2 (s.target % 512) ++ leBytes 2 i)))

/-- A list of a channel of a lost pair, with the pair, which its bark names (R231). -/
def lostPair (d : Dev) (ss : List Sect) : Option (Nat × List Byte) :=
  ss.findSome? (fun s =>
    let p := s.target % 512
    if s.kind == 3 && 172 ≤ p && (link d (s.target / 512) ((p - 172) % 32)).st == .lost then
      some (s.idx, [BitVec.ofNat 8 (s.target / 512), BitVec.ofNat 8 ((p - 172) % 32)])
    else none)

/-! ## Bad slices (R338) -/

def sliceGood (d : Dev) (r s : Nat) : Bool := bit (getF d (xbarPg r) XBAR.XBAR_STAT_SLICE_GOOD) s

/-- Slices that a step names by itself: as the port of a TAKE, or as an address with no address register. -/
def stepSlices (w : Nat) : List Nat :=
  let x (f : Nat) : List Nat := if bits f 27 24 == 0 then [bits f 23 0 / 2 ^ 20] else []
  if wCls w == clsSync && wOp w == 0 then (if 136 ≤ yList w && yList w < 168 then [yList w - 136] else [])
  else if wCls w == clsMove then
    (if wOp w == 3 || wOp w == 6 || wOp w == 12 then x (mSrc w) else if wOp w == 4 || wOp w == 5 then x (mDst w) else [])
  else []

def badSliceNamed (d : Dev) (ss : List Sect) : Option Nat :=
  (ss.find? (fun s => s.kind == 1 &&
    (sectWords 16 s).any (fun w => (stepSlices w).any (fun x => !sliceGood d (coreRegion s.target) x)))).map (·.idx)

/-! ## Floor stores (R186) -/

/-- Pages and columns that a plan places in a tower. -/
def placesOf (ss : List Sect) (t : Nat) : List (Nat × Nat × Nat) :=
  match findSect ss 6 t with
  | none => []
  | some s => (sectWords 4 s).map (fun w => (bits w 31 17, bits w 16 9, bits w 8 5))

def floorBad (ss : List Sect) (s : Sect) : Bool :=
  let pl := placesOf ss s.target
  let masks := floorMasks s.body
  (withIdx (floorSlots s.body)).any (fun x =>
      x.2 != noPage && !pl.any (fun p => p.1 == x.2.toNat && p.2.1 == x.1 / 1024)) ||
    (floorWords s.body).any (fun w => w != 0 && floorStatic (BitVec.ofNat 136 (masks.getD (fCM w.toNat) 0)) w.toNat != 0)

/-- An entry starts a floor sequencer at a word that is all zeros. -/
def floorStartBad (ss : List Sect) : Option Nat :=
  match findSect ss 7 0 with
  | none => none
  | some e =>
    if (entriesOf e.body).any (fun us => us.any (fun u => u.floor &&
        (match findSect ss 5 u.unit with
         | some s => (floorWords s.body).getD u.start 0 == 0
         | none => true))) then some e.idx
    else none

def floorFails (ss : List Sect) : Option Nat :=
  match (ss.find? (fun s => s.kind == 5 && floorBad ss s)).map (·.idx) with
  | some i => some i
  | none => floorStartBad ss

/-! ## Writing the plan (R241 steps 5 and 6) -/

def mapOf {α : Type} [DecidableEq α] (z : α) (l : List α) : Map α := (withIdx l).filter (fun x => x.2 != z)

/-- Cores and floor of a region at rest with cleared stores (R40, R186), and its slices cleared. -/
def clearStores (r : Nat) (d : Dev) : Dev :=
  let d := (List.range 128).foldl (fun d u =>
    let n := 128 * r + u
    setCore d n { Core.init with st := if (core d n).st == .muzzled then .muzzled else .heel }) d
  let d := (List.range 32).foldl (fun d s =>
    { setSlice d r s [] with badSlice := mput [] d.badSlice (32 * r + s) [] }) d
  let d := { d with sramBad := d.sramBad.filter (fun x => !(x.1 == 4 && x.2.1 == r)) }
  let f := quietFloor (floor d r)
  setFloor d r { f with seq := [], loaded := 0, slots := [], masks := [], work := [], acc := [] }

def writeSteps (s : Sect) (d : Dev) : Dev :=
  let ws := (sectWords 16 s).map (BitVec.ofNat 128)
  setCore d s.target { core d s.target with steps := mapOf 0 ws, loaded := ws.length }

def syncRecs (s : Sect) : List SyncRec :=
  ((withIdx (sectWords 8 s)).map (fun x =>
    (⟨s.target, x.1, bits x.2 11 0, bits x.2 15 12, bits x.2 23 16, bits x.2 31 24, bits x.2 39 32⟩ : SyncRec))).filter
      (fun y => y.depth != 0)

def writeFloor (s : Sect) (d : Dev) : Dev :=
  setFloor d s.target { floor d s.target with
    seq := mapOf 0 (floorWords s.body), loaded := floorLoaded s.body,
    slots := mapOf noPage (floorSlots s.body), masks := mapOf 0 ((floorMasks s.body).map (BitVec.ofNat 136)) }

/-- Weights of a region's stations: sites and joint of each pack ring, tower, crossbar and joint of the region ring (R145). -/
def writeWeights (s : Sect) (d : Dev) : Dev :=
  (List.range 5).foldl (fun d k =>
    (if k < 4 then List.range 35 else [4, 5, 6]).foldl (fun d t =>
      let b := (s.body.getD (64 * k + t) 0).toNat
      setWeight d s.target k t (b / 16) (b / 4)) d) d

/-- The list of a port under a plan: its section's, none for a bank column without one, else one END with STOP 1; a channel
to a region outside the set has that list too (R130, R238). -/
def planPort (rs : List Nat) (ls : List (Nat × List (BitVec 32))) (p : Nat) (x : Port) : Port :=
  let away := p ≥ 172 && !rs.contains ((p - 172) % 32)
  match ls.find? (fun m => m.1 == p) with
  | some (_, l) => { x with list := some (if away then stopList else l), plan := true }
  | none => if p < 136 then { x with list := none, plan := false } else { x with list := some stopList, plan := true }

def writeLists (rs : List Nat) (ss : List Sect) (d : Dev) : Dev :=
  rs.foldl (fun d r => resetPorts (planPort rs (regionLists ss r)) r (tokensBack d r)) d

/-! ## Placements (R159) -/

/-- One page is placed: false where its column has failed or has no frame for it. -/
def placePage (d : Dev) (p t k b perm : Nat) : Dev × Bool :=
  let e := entry d t k
  let st := meState e
  if colFailed d t b then (d, false)
  else
    let mark (d : Dev) : Dev := setEntry d t k (meSet (meSet (entry d t k) 58 55 perm) 61 59 p)
    let note (d : Dev) : Dev := setTower d t { tower d t with place := mput none (tower d t).place k (some b) }
    if st == meAbsent then
      match freeInCol d t b with
      | none => (d, false)
      | some f => (note (clearE (setEntry d t k (mkEntry meFresh p perm 0 0 f)) t f), true)
    else if st == meRetired || frameCol (meFrame e) == b then (note (mark d), true)
    else
      match freeInCol d t b with
      | none => (d, false)
      | some f => (note (mark (migratePage d t k f true).1), true)

/-- Pages placed in turn, up to the one whose column has failed or is full. -/
def placePages (p t : Nat) : List (Nat × Nat × Nat) → Dev → Dev × Option Nat
  | [], d => (d, none)
  | (k, b, perm) :: r, d =>
    match placePage d p t k b perm with
    | (d, true) => placePages p t r d
    | (d, false) => (d, some k)

/-- Every PLACE section in turn; the section whose placement fails, with the tower and page, which its bark names (R159). -/
def placeAll (p : Nat) (ss : List Sect) : List Sect → Dev → Dev × Option (Nat × List Byte)
  | [], d => (d, none)
  | s :: r, d =>
    if s.kind != 6 then placeAll p ss r d
    else
      match placePages p s.target (placesOf ss s.target) d with
      | (d, none) => placeAll p ss r d
      | (d, some k) => (d, some (s.idx, BitVec.ofNat 8 s.target :: leBytes 2 k))

/-! ## The load -/

def setSet (d : Dev) (p : Nat) (rs : List Nat) : Dev :=
  let m := sumOf (rs.map (2 ^ ·))
  let d := setF d (partPg p) PART.PART_STAT_REGIONS m
  rs.foldl (fun d r => setF (setF d (rgnPg r) RGN.RGN_STAT_IN_SET 1) (rgnPg r) RGN.RGN_STAT_PART p) d

/-- The region set is released (R235). -/
def freeSet (d : Dev) (p : Nat) : Dev :=
  let rs := regionsOf d p
  let d := setF d (partPg p) PART.PART_STAT_REGIONS 0
  rs.foldl (fun d r => setF (setF d (rgnPg r) RGN.RGN_STAT_IN_SET 0) (rgnPg r) RGN.RGN_STAT_PART 0) d

/-- The plan of a region set leaves it: lists in their no-plan form, placements ended (R242). -/
def endPlan (rs : List Nat) (d : Dev) : Dev :=
  let d := rs.foldl (fun d r => resetPorts noPlanPort r (tokensBack d r)) d
  rs.foldl (fun d r => setTower d r { tower d r with place := [] }) d

/-- A load ends with a status in PLAN_STAT. -/
def planEnds (d : Dev) (p status : Nat) : Dev :=
  let d := setF (setF d (partPg p) PART.PLAN_STAT_BUSY 0) (partPg p) PART.PLAN_STAT_STATUS status
  if status == stNotNow then notNow d (partPg p) else d

/-- A load that fails after step 3 (R241): the partition returns to NONE and a bark names the section and the check, and in the bytes that
its table leaves unused what its rule names besides (log entry 103). -/
def loadFailsAt (d : Dev) (p status : Nat) (sect : Option Nat) (check : Nat) (names : List Byte) : Dev :=
  let d := bark d 0x1A01 (partPg p) (lead d) 2 (some p) (some status)
    (leBytes 4 (sect.getD (Config.freeSection check).toNat) ++ Config.freeCheck check :: names)
  let d := freeSet (endPlan (regionsOf d p) d) p
  planEnds (setPartState d p psNone) p status

def loadFails (d : Dev) (p status : Nat) (sect : Option Nat) (check : Nat) : Dev := loadFailsAt d p status sect check []

/-- Step 3 of R241: a region of another set, one that is not up, a tower in reset (R353), or a record that names another
partition. -/
def setRefused (d : Dev) (p : Nat) (rs : List Nat) : Bool :=
  rs.any (fun r => (partOf d r).isSome || getF d (rgnPg r) RGN.RGN_STAT_STATE != 1 || (tower d r).hold) ||
    d.hk.any (fun x => rs.contains (recTower x.1) && x.2.state != ssFree && x.2.part != p)

/-- Steps 5 to 7 of R241 on an image that has passed step 4. -/
def loadPlan (d : Dev) (p : Nat) (rs : List Nat) (ss : List Sect) (img : List Byte) : Dev :=
  let (d, _) := quietWhistle rs (rs.foldl (fun d r => mapChans drainedChan r d) d)
  let d := rs.foldl (fun d r => clearStores r d) d
  match listsFail d ss with
  | some (i, b) => loadFailsAt d p stMalformed (some i) 9 b
  | none =>
  match lostPair d ss with
  | some (i, b) => loadFailsAt d p stNotNow (some i) 10 b
  | none =>
  match badSliceNamed d ss with
  | some i => loadFails d p stNotNow (some i) 11
  | none =>
  match floorFails ss with
  | some i => loadFails d p stMalformed (some i) 12
  | none =>
    let syncs := (ss.filter (·.kind == 2)).flatMap syncRecs
    let d := ss.foldl (fun d s =>
      if s.kind == 1 then writeSteps s d else if s.kind == 5 then writeFloor s d
      else if s.kind == 4 then writeWeights s d else d) d
    let d := setSyncs syncs rs d
    let d := writeLists rs ss d
    match takeTables (some stMalformed) d ((allRings.filter (fun x => rs.contains x.1)) ++ [(32, 7)]) with
    | (d, false) => loadFails d p stMalformed ((ss.find? (·.kind == 4)).map (·.idx)) 13
    | (d, true) =>
      let d := rs.foldl (fun d t => migrateSuspects t (setTower d t { tower d t with place := [] })) d
      match placeAll p ss ss d with
      | (d, some (i, b)) => loadFailsAt d p stNotNow (some i) 14 b
      | (d, none) =>
        let ents := ((findSect ss 7 0).map (fun s => entriesOf s.body)).getD []
        let phases := ((findSect ss 8 0).map (fun s => s.body.map (·.toNat))).getD []
        let d := { d with plans := mput Plan.none d.plans p ⟨ents, phases, syncs⟩ }
        let dg := pieces 8 (sha512 img)
        let d := (withIdx dg).foldl (fun d x => setF d (partPg p) (PART.PLAN_DIGEST.at x.1) (leNat x.2)) d
        let d := setPartState (epochUp d p) p (if stopStays d rs then psHalted else psLoaded)
        let d := count (planEnds d p stOk) (partPg p) PART.PLAN_LOADS 1
        rs.foldl (fun d r => servePorts r d) d

/-- What has been read of an image decides what follows: more of it is read, or the load ends (R241). `none` leaves the job
with `more` bytes to read. -/
def planRead (d : Dev) (p : Nat) (b : List Byte) : Dev × Nat :=
  let rs := imgRegions b
  if b.length == 64 then
    if headerOk b then (d, 16 * imgSections b) else (planEnds d p stMalformed, 0)
  else if b.length == tableEnd b && partState d p == psNone then
    if !headerCrcOk b then (planEnds d p stMalformed, 0)
    else if setRefused d p rs then (planEnds d p stNotNow, 0)
    else
      let d := setSet (setPartState d p psLoading) p rs
      if imgLength b > b.length then (d, imgLength b - b.length)
      else
        match imageFails d rs (sectsOf b) with
        | some (i, c) => (loadFails d p stMalformed i c, 0)
        | none => (loadPlan d p rs (sectsOf b) b, 0)
  else
    let ss := sectsOf b
    match imageFails d rs ss with
    | some (i, c) => (loadFails d p stMalformed i c, 0)
    | none => (loadPlan d p rs ss b, 0)

/-- A job's read of an image has failed. -/
def planReadFails (d : Dev) (p status : Nat) : Dev :=
  if partState d p == psLoading then loadFails d p status none 1 else planEnds d p status

/-- LOAD written to PLAN_CMD (R241 step 1, R263). -/
def planLoad (p : Nat) (d : Dev) : Dev × Nat :=
  let pg := partPg p
  if partState d p != psNone || getF d pg PART.PLAN_STAT_BUSY == 1 then (notNow d pg, stNotNow)
  else
    let d := setF d pg PART.PLAN_STAT_BUSY 1
    let host := getF d pg PART.PLAN_LOC == 1
    (newJob d (.plan p) host p (getF d pg PART.PLAN_ADDR) 64, stOk)

/-- UNLOAD written to PLAN_CMD (R242). -/
def planUnload (p : Nat) (d : Dev) : Dev × Nat :=
  let pg := partPg p
  let rs := regionsOf d p
  if !planLoaded d p || getF d pg PART.PLAN_STAT_BUSY == 1 || rs.any (fun r => (tower d r).hold) ||
      (List.range 64).any (fun q => outstanding (rq d p q) != 0) then (notNow d pg, stNotNow)
  else
    let d := setPartState d p psUnloading
    let d := failRecords d p stAborted
    let (d, _) := quietRegions rs d
    let d := dropUnits p d
    let (d, _) := quietWhistle rs (rs.foldl (fun d r => mapChans drainedChan r d) d)
    let d := endPlan rs d
    let d := { freeSet d p with plans := mput Plan.none d.plans p Plan.none }
    (planEnds (setPartState d p psNone) p stOk, stOk)

end Sys2Proof.Machine
end

