-- ==== Sys2Proof/Machine/Resets.lean ====
section
/-!
DEFINITION. Core, pack, tower and partition resets, and muzzles (R351 to R375).
-/
namespace Sys2Proof.Machine

/-! ## What every scope shares (R354, R373, R374) -/

/-- Has a descriptor not completed? -/
def liveItem (d : Dev) (i : Nat) : Bool := match item d i with | some it => !it.ended | none => false

/-- Items not yet complete whose programs run on the cores and floor sequencers of regions. -/
def runningItems (d : Dev) (rs : List Nat) : List Nat :=
  (rs.flatMap (fun r => (List.range 128).filterMap (fun u => (core d (128 * r + u)).item) ++ (floor d r).item.toList)).eraseDups.filter (liveItem d)

def runningFloors (d : Dev) (rs : List Nat) : Nat := (rs.filter (fun r => (floor d r).item.isSome && (floor d r).st != .fault)).length

/-- Every program running in regions for an item that `hit` names, and every floor sequence, fails with a status; the units are stopped by what
follows. -/
def failUnits (hit : Nat → Bool) (rs : List Nat) (status : Nat) (d : Dev) : Dev :=
  rs.foldl (fun d r =>
    let d := (List.range 128).foldl (fun d u =>
      match (core d (128 * r + u)).item with
      | some i => if (core d (128 * r + u)).st == .fault || !hit i then d else event d (.stop i (128 * r + u) status)
      | none => d) d
    stopFloor d r status) d

/-- A reset ends: its place in RST_STAT, the counters of items, and bark 0x0E01. -/
def resetEnds (scope target absorbed drained : Nat) (part : Option Nat) (d : Dev) : Dev :=
  let d := setF (setF (setF d rstPg RST.RST_STAT_LAST_SCOPE scope) rstPg RST.RST_STAT_LAST_TARGET target) rstPg
    RST.RST_STAT_LAST_STATUS stOk
  let d := count (count d rstPg RST.ITEMS_ABSORBED absorbed) rstPg RST.ITEMS_DRAINED drained
  bark d 0x0E01 rstPg (lead d) 0 part none
    ([BitVec.ofNat 8 scope] ++ leBytes 2 target ++ leBytes 4 absorbed ++ leBytes 4 drained)

def rstRefused (d : Dev) : Dev × Nat := (notNow d rstPg, stNotNow)

def towersHeld (d : Dev) (rs : List Nat) : Bool := rs.any (fun r => (tower d r).hold)

/-! ## Core and pack resets (R352, R357) -/

/-- A core comes to rest as R357 states, and the elastic-link leashes it held return. -/
def resetCore (n : Nat) (d : Dev) : Dev :=
  let c := core d n
  count (setCore d n (quietCore c)) rstPg RST.LEASHES_RETURNED (coreLeashes d n)

/-- May a core or pack of region `r` be reset: no larger scope runs, no region set holds the region, and it is neither down nor
failed (R352, R353)? A tower reset holds no core. -/
def smallOk (d : Dev) (r : Nat) : Bool :=
  let st := getF d (rgnPg r) RGN.RGN_STAT_STATE
  d.drain.isNone && (partOf d r).isNone && (st == 1 || st == 2)

def resetOneCore (n : Nat) (d : Dev) : Dev × Nat :=
  if !smallOk d (coreRegion n) || (siteOf d n).isNone then rstRefused d
  else (resetEnds 0 n 0 0 none (count (resetCore n d) rstPg RST.CORE_RESETS 1), stOk)

/-- A pack ring restarts on its active table: no switch of tables waits. -/
def resetPack (k : Nat) (d : Dev) : Dev × Nat :=
  if k ≥ 128 then rstRefused d
  else if !smallOk d (k / 4) then rstRefused d
  else
    let d := (List.range 32).foldl (fun d c => if (siteOf d (32 * k + c)).isSome then resetCore (32 * k + c) d else d) d
    (resetEnds 1 k 0 0 none (count d rstPg RST.PACK_RESETS 1), stOk)

/-! ## The tower reset (R358 to R362) -/

/-- Host pieces and commands that wait in a column fail with RESET; the device's own accesses wait (R355). -/
def failColumnQueue (t b : Nat) (d : Dev) : Dev :=
  let c := column d t b
  let own := fun (p : Piece) => match p.purpose with
    | .devWrite | .job _ | .walker => true
    | .kvClear _ => p.kind != .clearWaits
    | _ => false
  let d := setColumn d t b { c with queue := c.queue.filter own }
  c.queue.foldl (fun d p =>
    match p.purpose with
    | .hostRead h tag off _ _ => if (mget none (narta d h).tags tag).isSome && !cplQueued d h tag then sendCpl d h tag off stReset true [] else d
    | .hostWrite h _ seq => badRequest (barkAccess d t p.page 0 (devAddr t p.page p.off) stReset) h 0 seq (devAddr t p.page p.off) stReset
    | .twrCmd => twrEnds d t stReset
    | .kvClear i => if p.kind == .clearWaits then finishPlain d i stReset else d
    | _ => d) d

/-- The matched transfers of other regions' cores with region `t` end, and their items fail with RESET (R16, R359). -/
def failFarStreams (t : Nat) (d : Dev) : Dev :=
  (List.range 32).foldl (fun d j =>
    if j == t then d
    else (List.range 128).foldl (fun d u =>
      let n := 128 * j + u
      let c := core d n
      match c.q.find? (onLink t) with
      | none => d
      | some q => coreFault (setCore d n { c with q := c.q.filter (fun q => !onLink t q) }) n q.idx 0 stReset) d) d

/-- Items that the far halves of matched streams run for. -/
def farItems (d : Dev) (t : Nat) : List Nat :=
  ((List.range 32).flatMap (fun j => if j == t then [] else (List.range 128).filterMap (fun u =>
    let c := core d (128 * j + u)
    if c.q.any (onLink t) then c.item else none))).filter (liveItem d)

/-- The ends of a tower's links on its base die forget what was agreed, and every link trains (R230, R359). -/
def retrainTower (t : Nat) (d : Dev) : Dev :=
  (List.range 200).foldl (fun d v =>
    let st := (link d t v).st
    if !linkOk t v || (32 ≤ v && v < 64) || st == .lost || st == .down then d
    else
      let l := link d t v
      let far := !linkNear t v
      let d := setLink d t v (putEnd l far { getEnd l far with agreed := 3#2 })
      startTraining d t v (if savedValid d (saveKey t v) (laneOf t v) then .saved else .fresh) 3#2 3#2) d

/-- The pages that show RESET while a tower is in reset. -/
def towerPages (t : Nat) : List Nat := [twrPg t, flrPg t, SCRB.page.pg t] ++ (List.range 16).map (lyrPg t)

/-- A reset that sets PAGE_STATE to RESET locks the page (R298). -/
def lockPages (pgs : List Nat) (d : Dev) : Dev := { d with guards := pgs.foldl (fun m pg => mput 0 m pg 0) d.guards }

/-- The step programs that an absorbed item runs in a region end: each of its cores comes to rest, its tokens back at their ports (R354,
R355). The other cores keep their state, and the floor sequencer is reset (R351). The answer gives the leashes returned. -/
def absorbRegion (hit : Nat → Bool) (t : Nat) (d : Dev) : Dev × Nat :=
  let run := ((List.range 128).map (128 * t + ·)).filter (fun n =>
    let c := core d n
    (match c.item with | some i => hit i | none => false) && c.st != .fault && c.st != .muzzled)
  let n := sumOf (run.map (fun n => coreLeashes d n))
  let d := run.foldl (fun d n => let d := returnCoreTokens d n; setCore d n (quietCore (core d n))) d
  (setFloor d t (quietFloor (floor d t)), n)

/-- Every token of the tower's ports returns to its port, from whichever core holds it (R361, R372). -/
def towerTokens (t : Nat) (d : Dev) : Dev :=
  let ls := (((List.range 236).filter baseDiePort).filterMap (fun p => (port d t p).lead)).eraseDups
  let d := (List.range 128).foldl (fun d u =>
    let n := 128 * t + u
    let c := core d n
    let keep (o : Option Token) : Bool := match o with | some k => !ls.contains k.port | none => true
    let held (o : Option Nat) : Bool := match o with | some p => !ls.contains p | none => true
    setCore d n { c with toks := c.toks.filter (fun x => keep x.2), parked := c.parked.filter (fun x => keep x.2),
                         holders := c.holders.filter (fun x => held x.2) }) d
  ls.foldl (fun d l => returnToken d t l) d

/-- The tower's ports stand at entry 0 of their lists (R134, R359); those of the crossbar are not touched. -/
def resetTowerPorts (t : Nat) (d : Dev) : Dev :=
  let d := (((List.range 236).filter baseDiePort).filter (fun p => !noChannel t p)).foldl (fun d p =>
    setPort d t p (resetPort p (port d t p))) d
  (List.range 136).foldl (fun d b => setPort d t (236 + b) { Port.init with units := (port d t (236 + b)).units }) d

/-- Does a core's program use the tower: a step that moves data through the base die, or one that takes a token of its ports? -/
def usesTower (c : Core) : Bool :=
  c.steps.any (fun x =>
    let w := x.2.toNat
    crossesTower w || (wCls w == clsSync && wOp w == 0 && baseDiePort (yList w)))

/-- Items not yet complete that use a tower: a program of the region that uses it, or its floor sequence, runs for them (R359). -/
def towerItems (d : Dev) (t : Nat) : List Nat :=
  ((List.range 128).filterMap (fun u => if usesTower (core d (128 * t + u)) then (core d (128 * t + u)).item else none) ++
    (floor d t).item.toList).eraseDups.filter (liveItem d)

/-- Phases 3 to 5 of a tower reset: what was not drained fails, the base die is reset, and its links train (R359). -/
def towerFails (t : Nat) (d : Dev) : Dev :=
  let hosts := (hostWaiting d t).length
  let mine := towerItems d t
  let items := (mine ++ farItems d t).eraseDups.length
  let floors := runningFloors d [t]
  let d := setTower d t { tower d t with draining := false, tally := (items + floors + hosts, 0) }
  let d := (List.range 136).foldl (fun d b => failColumnQueue t b d) d
  let d := if getF d (twrPg t) TWR.TWR_CMD_STAT_BUSY == 1 then twrEnds d t stReset else d
  let d := failFarStreams t (failUnits mine.contains [t] stReset d)
  let (d, n) := absorbRegion mine.contains t d
  let d := count d rstPg RST.LEASHES_RETURNED n
  let d := resetTowerPorts t (towerTokens t d)
  retrainTower t (mapChans freshChan t d)

/-- Is every frame that the outbound channels of a tower have sent acknowledged? -/
def framesOut (d : Dev) (t : Nat) : Bool := (List.range 32).any (fun j => j != t && !(chan d t j).unacked.isEmpty)

/-- The Drain phase of towers in reset ends once no frame they have sent is outstanding (R355, R359). -/
def towersPump (d : Dev) : Dev :=
  (d.towers.filter (fun x => x.2.draining)).foldl (fun d x => if framesOut d x.1 then d else towerFails x.1 d) d

/-- Hold-off and Drain: the tower starts no new unit, frame or command, and its ports grant nothing (R358, R359). -/
def towerGo (t : Nat) (d : Dev) : Dev :=
  let d := haltRegion d t
  let d := setF d (rgnPg t) RGN.RGN_STAT_STATE 2
  let d := lockPages (towerPages t) (setTower d t { tower d t with hold := true, draining := true })
  if framesOut d t then d else towerFails t d

/-- TOWER written to RST_XCMD. -/
def resetTower (t : Nat) (d : Dev) : Dev × Nat :=
  if t ≥ 32 then rstRefused d
  else if d.drain.isSome || (tower d t).hold || getF d (rgnPg t) RGN.RGN_STAT_STATE != 1 then rstRefused d
  else (towerGo t d, stOk)

/-- A site whose ends disagree is muzzled (R361). -/
def reconcileSite (t b : Nat) (d : Dev) : Dev :=
  let d := count d (rgnPg t) RGN.RECON_FAILS 1
  let f := (Config.freeRecon d.freeN).toNat
  let d := { d with freeN := d.freeN + 1 }
  let d := bark d 0x2202 (rgnPg t) (regionDie t) 2 (partOf d t) none
    ([BitVec.ofNat 8 b, BitVec.ofNat 8 (11 + f % 2)] ++ leBytes 3 (f / 256))
  muzzleSite d (4 * t + b / 34) (b % 34) 7

def linksTrain (d : Dev) (t : Nat) : Bool :=
  (List.range 200).any (fun v => linkOk t v && ((link d t v).st == .training || (link d t v).st == .widthRetrain))

/-- Phase 6: both ends agree, or the sites that disagree are muzzled, and traffic resumes (R361). While the Drain phase still runs, the limit of
that phase is what has come (R359, log entry 120). -/
def towerResumes (t : Nat) (disagree : List Nat) (d : Dev) : Dev :=
  if !(tower d t).hold then d
  else if (tower d t).draining then towerFails t d
  else if linksTrain d t then d
  else
    let (ab, dr) := (tower d t).tally
    let d := disagree.eraseDups.foldl (fun d b => reconcileSite t b d) d
    let d := setTower d t { tower d t with hold := false, tally := (0, 0) }
    let d := if getF d (rgnPg t) RGN.RGN_STAT_STATE == 2 then setF d (rgnPg t) RGN.RGN_STAT_STATE 1 else d
    let d := if (List.range 136).all (fun b => (link d t (64 + b)).st == .lost) then muzzleRegion d t 7 else d
    let d := count (count d rstPg RST.TOWER_RESETS 1) (rgnPg t) RGN.TOWER_RESETS 1
    servePorts t (resetEnds 2 t ab dr (partOf d t) d)

/-! ## The partition reset (R363, R364, R369) -/

/-- A column's list takes its no-plan form, and the host pieces that wait in it are served (R355, R363). -/
def serveNoPlan (t : Nat) (d : Dev) : Dev :=
  let d := (List.range 136).foldl (fun d b => serve (setPort d t b (resetPort b (noPlanPort b (port d t b)))) t b serveFuel) d
  serveTower t d

/-- Host pieces that wait in the columns of regions. -/
def waitingIn (d : Dev) (rs : List Nat) : Nat := sumOf (rs.map (fun t => (hostWaiting d t).length))

/-- A pair in training with frames outstanding cannot drain within the limit, and trains again with saved settings (R363, log entry 121). -/
def retrainPairs (r : Nat) (d : Dev) : Dev :=
  (List.range 32).foldl (fun d j =>
    let st := (link d r j).st
    if j == r || !(st == .training || st == .widthRetrain) || ((chan d r j).unacked.isEmpty && (chan d j r).unacked.isEmpty) then d
    else startTraining d r j (if savedValid d (saveKey r j) (laneOf r j) then .saved else .fresh) 3#2 3#2) d

/-- Steps 1 to 5 of R363: programs fail, host pieces are served, channels drain, the whistle is quieted, and every count is
made whole. The answer gives the items absorbed and drained. -/
def quiesce (p : Nat) (d : Dev) : Dev × Nat × Nat :=
  let rs := regionsOf d p
  let absorbed := (runningItems d rs).length + runningFloors d rs
  let d := processEvents (failUnits (fun _ => true) rs stReset (setPartState d p psHalted))
  let old := d.ports
  let wait := waitingIn d rs
  let d := rs.foldl tokensBack d
  let d := quietItems p (rs.foldl (fun d t => serveNoPlan t d) d)
  let drained := wait - waitingIn d rs
  let d := rs.foldl (fun d r => mapChans drainedChan r (retrainPairs r d)) d
  let (d, lw) := quietWhistle rs d
  let list := fun (r q : Nat) (x : Port) =>
    let o := mget Port.init old (portKey r q)
    { x with list := o.list, plan := o.plan }
  let d := rs.foldl (fun d r => resetPorts (list r) r d) d
  let (d, lc) := quietRegions rs d
  let d := count (dropUnits p d) rstPg RST.LEASHES_RETURNED (lw + lc)
  let d := setSyncs (mget Plan.none d.plans p).syncs rs d
  let d := rs.foldl (fun d r => setF d (ordPg r) ORD.ORD_FAULT_VALID 0) d
  (d, absorbed, drained)

/-- Held numbers of a region, as HELD_MAP and HELD show them. -/
def showHeld (r : Nat) (d : Dev) : Dev :=
  let word (w : Nat) : Nat := sumOf ((List.range 64).map (fun j => if (core d (128 * r + 64 * w + j)).st == .muzzled then 2 ^ j else 0))
  let d' := setF (setF d (rgnPg r) (RGN.HELD_MAP.at 0) (word 0)) (rgnPg r) (RGN.HELD_MAP.at 1) (word 1)
  setF d' (rgnPg r) RGN.RGN_STAT_HELD (heldCount d r)

/-- Weights of the whistle stations follow the logical cores that move. -/
def moveWeights (k : Nat) (olds news : List (Nat × Nat)) (d : Dev) : Dev :=
  let r := k / 4
  let q := k % 4
  let w := olds.map (fun x => (x.1, weightByte d r q x.2))
  let d := olds.foldl (fun d x => setWeight d r q x.2 0 0) d
  news.foldl (fun d x =>
    match w.find? (fun y => y.1 == x.1) with
    | some (_, v) => setWeight d r q x.2 (v / 16) (v / 4)
    | none => d) d

/-- The parts of a site with what they hold (R37): scratch, accumulators and tiles. The program, its sync links and address registers
follow the logical number, on which the plan stays loaded (R369, log entry 102). -/
def siteParts (c s : Core) : Core :=
  { c with scratch := s.scratch, acc := s.acc, badScratch := s.badScratch, badAcc := s.badAcc, active := s.active, shadow := s.shadow,
           loads := s.loads, activeRec := s.activeRec, link0 := [], drained := [], badStep := [] }

def spare (d : Dev) (k s : Nat) : Core := mget Core.init d.spares (34 * k + s)
def setSpare (d : Dev) (k s : Nat) (c : Core) : Dev := { d with spares := mput Core.init d.spares (34 * k + s) c }

/-- Every site of a pack keeps its own parts while its logical cores move: a core that moves finds those of its new site, and what it
leaves behind stays at the old one. -/
def moveParts (k : Nat) (olds news : List (Nat × Nat)) (d : Dev) : Dev :=
  let kept := news.filter (fun x => olds.contains x)
  let left := olds.filter (fun x => !kept.contains x)
  let d := left.foldl (fun d x => setSpare d k x.2 (siteParts Core.init (core d (32 * k + x.1)))) d
  let d := (news.filter (fun x => !kept.contains x)).foldl (fun d x =>
    setSpare (setCore d (32 * k + x.1) (siteParts (core d (32 * k + x.1)) (spare d k x.2))) k x.2 Core.init) d
  (left.filter (fun x => !news.any (fun y => y.1 == x.1))).foldl (fun d x => setCore d (32 * k + x.1) Core.init) d

/-- A pack whose site map holds a muzzled site is rebuilt (R340, R369): true where a logical core moves. -/
def rebuildPack (k : Nat) (d : Dev) : Dev × Bool :=
  let olds := (List.range 32).filterMap (fun c => (siteOf d (32 * k + c)).map (fun s => (c, s)))
  if olds.all (fun x => siteGood d k x.2) then (d, false)
  else
    let news := placeSites (siteGood d k) (Config.coresPerPack d.kind) (fun c => siteOf d (32 * k + c))
    let d := writeMap k news (moveParts k olds news (moveWeights k olds news d))
    let d := news.foldl (fun d x =>
      let n := 32 * k + x.1
      if (core d n).st == .muzzled then setCore d n { core d n with st := .heel } else d) d
    (d, news.any (fun x => olds.any (fun y => y.1 == x.1 && y.2 != x.2)))

/-- The packs of regions that are up are rebuilt where they must be. -/
def rebuildPacks (ks : List Nat) (d : Dev) : Dev × Bool :=
  ks.foldl (fun s k => let (d, m) := rebuildPack k s.1; (d, s.2 || m)) (d, false)

def zonPg (z : Nat) : Nat := TZON.page.pg z
/-- Die temperature, governing temperature of a tower, or hottest sensor of the optical base, in 1/16 °C. -/
def zoneTemp (d : Dev) (z : Nat) : Int := getFI d (zonPg z) TZON.TZON_STAT_TEMP

/-- A thermal hold ends at a partition reset once its tower is below 100 °C (R397). -/
def releaseHold (t : Nat) (d : Dev) : Dev :=
  if (zoneOf d (8 + t)).hold && zoneTemp d (8 + t) < 1600 then setZone d (8 + t) { zoneOf d (8 + t) with hold := false } else d

/-- Does the partition stay HALTED at the end of its reset (R364, R397, R401)? -/
def staysHalted (d : Dev) (rs : List Nat) : Bool :=
  stopStays d rs || rs.any (fun r => getF d (rgnPg r) RGN.RGN_STAT_STATE != 1)

/-- A partition reset in full (R363). -/
def partitionGo (p : Nat) (d : Dev) : Dev :=
  let rs := regionsOf d p
  let (d, absorbed, drained) := quiesce p d
  let d := rs.foldl (fun d t => migrateSuspects t d) d
  let up := rs.filter (fun r => getF d (rgnPg r) RGN.RGN_STAT_STATE == 1)
  let (d, moved) := rebuildPacks (up.flatMap (fun r => (List.range 4).map (4 * r + ·))) d
  let d := up.foldl (fun d r => showHeld r d) d
  let (d, _) := takeTables none d ((allRings.filter (fun x => rs.contains x.1)) ++ [(32, 7)])
  let d := failRecords d p stReset
  let d := if moved then epochUp d p else d
  let d := rs.foldl (fun d t => releaseHold t d) d
  let d := setPartState d p (if staysHalted d rs then psHalted else psLoaded)
  let d := rs.foldl (fun d r => servePorts r d) d
  resetEnds 3 p absorbed drained (some p) (count d rstPg RST.PART_RESETS 1)

/-- PARTITION written to RST_CMD (R352, R353): it waits while a tower of the set is in reset. -/
def resetPartition (p : Nat) (d : Dev) : Dev × Nat :=
  if !planLoaded d p || d.rstWait.contains p || d.drain.isSome then rstRefused d
  else if towersHeld d (regionsOf d p) then ({ d with rstWait := d.rstWait ++ [p] }, stOk)
  else (partitionGo p d, stOk)

/-- Partition resets that waited for tower resets go on (R353). -/
def partitionPump (d : Dev) : Dev :=
  d.rstWait.foldl (fun d p =>
    if towersHeld d (regionsOf d p) then d
    else
      let d := { d with rstWait := d.rstWait.filter (· != p) }
      if planLoaded d p then partitionGo p d else d) d

/-! ## Muzzles (R367, R375) -/

/-- MUZZLE written to RGN_XCMD: the logical core's site, with cause 8. -/
def muzzleUser (r u : Nat) (d : Dev) : Dev × Nat :=
  let n := 128 * r + u
  if (siteOf d n).isNone || (core d n).st == .muzzled then (notNow d (rgnPg r), stNotNow)
  else (muzzleCore d n 8, stOk)

/-- A clock bond of a tower fails; when both have, its region fails after start (R26). -/
def clockBondFails (t bond : Nat) (d : Dev) : Dev :=
  let tw := tower d t
  let bad := tw.clockBad ||| BitVec.ofNat 2 (2 ^ bond)
  let d := setTower d t { tw with clockBad := bad }
  if bad == 3#2 && getF d (rgnPg t) RGN.RGN_STAT_STATE != 0 then muzzleRegion d t 7 else d

/-- Every region of a compute die is muzzled (R322, R367). -/
def muzzleDie (k cause : Nat) (d : Dev) : Dev :=
  (List.range 4).foldl (fun d g => if getF d (rgnPg (4 * k + g)) RGN.RGN_STAT_STATE == 0 then d else muzzleRegion d (4 * k + g) cause) d

end Sys2Proof.Machine
end

