-- ==== Sys2Proof/Machine/Power.lean ====
section
/-!
DEFINITION. Operating points, voltages, the current limiter and overload protection (R376 to R388).
-/
namespace Sys2Proof.Machine

def pwrPg : Nat := PWR.page.pg 0
def pmbPg : Nat := PMB.page.pg 0
def clkPg (k : Nat) : Nat := CLK.page.pg k
def actPg (k : Nat) : Nat := ACT.page.pg k
def railPg (r : Nat) : Nat := RAIL.page.pg r

/-- Is compute die `k` up (R308)? -/
def dieUp (d : Dev) (k : Nat) : Bool := bit (getF d pkgPg PKG.PKG_INFO_DIES_UP) k

/-- Place 4i of a word of sixteen 4-bit codes. -/
def nibble (w i : Nat) : Nat := w / 2 ^ (4 * i) % 16

/-! ## The phase target (R311, R312, R381) -/

/-- Point a core prefers for its phase. -/
def corePrefers (d : Dev) (n : Nat) (c : Core) : Nat :=
  let e := nibble (getF d pwrPg (PWR.PWR_DIE_PREF.at (coreDie n))) c.phase
  if e != 8 then e
  else
    match nibble (getF d pwrPg PWR.PWR_MENU) c.phase with
    | 0 => match partOf d (coreRegion n) with
      | some p => (mget Plan.none d.plans p).phases.getD c.phase 0
      | none => 0
    | m => 2 * (m - 1)

/-- Fastest point that the cores of a die prefer: cores that a plan has loaded (R312). -/
def diePrefers (d : Dev) (k : Nat) : Option Nat :=
  let ps := d.cores.filterMap (fun x =>
    if coreDie x.1 == k && x.2.loaded != 0 && x.2.st != .muzzled && regionPlanned d (coreRegion x.1)
    then some (corePrefers d x.1 x.2) else none)
  match ps with
  | [] => none
  | p :: r => some (r.foldl min p)

/-- Floor sequencers of a quadrant all in heel. -/
def floorsHeel (d : Dev) (k : Nat) : Bool := (List.range 4).all (fun g => (floor d (4 * k + g)).st == .heel)
def stepsIssued (d : Dev) (k : Nat) : Nat := getF d (actPg k) (ACT.ACT_COUNT.at 10)

def phaseTarget (d : Dev) (k : Nat) : Nat :=
  if (quad d k).idleAt == some (stepsIssued d k) && floorsHeel d k then 6 else (diePrefers d k).getD 6

/-! ## The point (R381) -/

/-- OP_CEIL: the slowest of the five ceilings. -/
def opCeil (d : Dev) (k : Nat) : Nat :=
  let f (x : Fld) : Nat := getF d (clkPg k) x
  max (f CLK.CLK_STAT_PART_CEIL) (max (f CLK.CLK_STAT_THERM_CEIL) (max (f CLK.CLK_STAT_COOL_CEIL)
    (max (f CLK.CLK_STAT_AGE_CEIL) (f CLK.CLK_STAT_PWR_CEIL))))

def pointOf (d : Dev) (k : Nat) : Nat := getF d (clkPg k) CLK.CLK_STAT_POINT
def rampCeil (d : Dev) (k : Nat) : Nat := getF d (clkPg k) CLK.CLK_STAT_RC

/-- L_max of point `q` when P is `p`; none where the point is not usable at level 0 (R386). -/
def levelMax (p q : Nat) : Option Nat :=
  let need := (64 * Config.aclk p + Config.aclk q - 1) / Config.aclk q
  if need ≤ 72 then some (min 8 (72 - need)) else none

def usable (p q : Nat) : Bool := q ≤ 7 && (levelMax p q).isSome

/-- The point the limiter and protection leave: steps below P that are no longer usable are taken back. -/
def limitSteps (p l : Nat) : Nat := ((List.range (l + 1)).filter (fun i => usable p (p + i))).foldl max 0

/-- Point the quadrant runs at with P, and the limiter's and protection's steps below it. -/
def runOf (p : Nat) (q : Quad) : Nat := min 7 (p + q.lim + q.prot)

/-- The quadrant's clocks go to the point in force; a change of frequency slews (R383). -/
def takeRun (k : Nat) (d : Dev) : Dev :=
  let q := quad d k
  let p := pointOf d k
  let q := { q with lim := limitSteps p q.lim }
  let r := runOf p q
  if r == q.run then setQuad d k q
  else setQuad d k { q with run := r, fast := min q.fast r, slewing := true }

/-- The limiter's and protection's steps below a P that has become slower: the quadrant runs at the slower of P and the point they had it
at (R396). -/
def keepRun (was p : Nat) (q : Quad) : Quad :=
  let lim := limitSteps p (was + q.lim - p)
  if was < p then { q with lim := lim, prot := min q.prot (was + q.lim + q.prot - (p + lim)) } else q

/-- TARGET, OP_CEIL and the preferred point as they stand (R312, R381). -/
def showTarget (k : Nat) (d : Dev) : Dev :=
  let d := setF d (clkPg k) CLK.CLK_STAT_TARGET (phaseTarget d k)
  setF (setF d (diePg k) DIE.DIE_STAT_OP_CEIL (opCeil d k)) (diePg k) DIE.DIE_STAT_OP_PREF ((diePrefers d k).getD 6)

/-- The decision that ends a period: TARGET, OP_CEIL and P (R381). A target that changes during a slew is taken at the first
decision after it (R383). -/
def decide1 (k : Nat) (d : Dev) : Dev :=
  let d := showTarget k d
  if (quad d k).slewing then d
  else
    let p := max (phaseTarget d k) (max (rampCeil d k) (opCeil d k))
    let was := pointOf d k
    if p == was then takeRun k d
    else takeRun k (setQuad (count (setF d (clkPg k) CLK.CLK_STAT_POINT p) (clkPg k) CLK.POINT_CHANGES 1) k (keepRun was p (quad d k)))

/-! ## Voltages (R379, R380, R383) -/

/-- Table voltage of a die at a point, with the guard. -/
def tableMv (d : Dev) (k q : Nat) (m : Bool) : Nat :=
  getF d (clkPg k) ((if m then CLK.VTABLE_VDD_M else CLK.VTABLE_VDD_A).at q) + getF d (clkPg k) CLK.CLK_VOLT_G

/-- Does the regulator of a rail answer (R408)? -/
def railUp (d : Dev) (r : Nat) : Bool := bit (getF d pmbPg PMB.PMB_STAT_RAILS_OK) r

/-- A regulator takes a voltage, shown on its RAIL page and in a field of the CLK page; one that has failed keeps its last (R408). -/
def setVout (r mv : Nat) (pg : Nat) (f : Fld) (d : Dev) : Dev :=
  if railUp d r then setF (setF d pg f mv) (railPg r) RAIL.RAIL_STAT_VOUT mv else d

/-- The regulators of VDD_A and VDD_M of a die take the voltage of a point. -/
def setVolts (k q : Nat) (d : Dev) : Dev :=
  setVout (16 + k) (tableMv d k q true) (clkPg k) CLK.CLK_VOLT_VDD_M (setVout k (tableMv d k q false) (clkPg k) CLK.CLK_VOLT_VDD_A d)

def setRamp (k rc : Nat) (d : Dev) : Dev :=
  if rc == rampCeil d k then d else count (setF d (clkPg k) CLK.CLK_STAT_RC rc) (clkPg k) CLK.RC_CHANGES 1

/-- How many of the regulators of VDD_A and VDD_M of a die answer. -/
def voutRails (d : Dev) (k : Nat) : Nat := ([k, 16 + k].filter (railUp d)).length

/-- Voltage of a point sent to both regulators of a die. -/
def sendVout (k : Nat) (d : Dev) : Dev := count d pmbPg PMB.PMB_WRITES (voutRails d k)

/-- A ceiling has changed: RC never exceeds OP_CEIL, and the slower point is taken before the voltage. -/
def ceilChanged (k : Nat) (d : Dev) : Dev :=
  let c := opCeil d k
  if rampCeil d k < c then decide1 k (setVolts k c (sendVout k (setRamp k c d))) else decide1 k d

/-! ## Estimates (R384) -/

/-- Nominal voltage of a rail kind at OP0, in mV. -/
def railV0 (kind : Nat) : Nat := [850, 800, 850, 1100, 2500].getD kind 1

/-- Leakage index: the die temperature in 5 °C steps. -/
def leakStep (d : Dev) (k : Nat) : Int := zoneTemp d k / 80

/-- Dynamic and leakage parts of a rail's current over a period, in 0.1 A. -/
def estimate (d : Dev) (k kind : Nat) : Rat × Rat :=
  let v := railMv d k kind
  let s : Nat := sumOf (((List.range 18).filter (fun g => groupRail g == kind)).map (fun g =>
    getF d (actPg k) (ACT.ACT_WEIGHT.at g) * (getF d (actPg k) (ACT.ACT_COUNT.at g) - mget 0 d.estSnap (18 * k + g))))
  ((((s * v : Nat) : Rat)) / ((railV0 kind * 20000000 : Nat) : Rat),
    ((Config.leakMa k kind (leakStep d k) v : Nat) : Rat) / (100 : Rat))

/-- Limit in use of a die's rail, 0.1 A. -/
def railSet (d : Dev) (k kind : Nat) : Rat := ((getF d (railPg (railOf kind k)) RAIL.RAIL_SET : Nat) : Rat)

/-- A rail's demand after a period (R385), at most L_max. -/
def nextDemand (dem top : Nat) (e lim : Rat) : Nat :=
  if e > lim then min top (dem + 1) else if e < lim * (97 : Rat) / (100 : Rat) then dem - 1 else min top dem

def levelA (q : Quad) : Nat := max (q.dem.getD 0 0) (q.dem.getD 1 0)
def levelM (q : Quad) : Nat := max (q.dem.getD 2 0) (max (q.dem.getD 3 0) (q.dem.getD 4 0))

/-- A 2 µs period of die `k` ends: estimates, demands, and the counts of periods that the limiter and protection go by
(R384 to R387); then the point is decided (R381, R383). -/
def currentEstimate (k : Nat) (d : Dev) : Dev :=
  let q := quad d k
  let p := pointOf d k
  let top := (levelMax p (min 7 (p + q.lim))).getD 0
  let es := (List.range 5).map (estimate d k)
  let tot (i : Nat) : Rat := (es.getD i (0, 0)).1 + (es.getD i (0, 0)).2
  let lim (i : Nat) : Rat := railSet d k i
  let overrun (i : Nat) : Bool := decide (tot i > lim i)
  let la := levelA q
  let lm := levelM q
  let stuck := (la == top && (overrun 0 || overrun 1)) || (lm == top && (overrun 2 || overrun 3 || overrun 4))
  let any := (List.range 5).any overrun
  let dem := (List.range 5).map (fun i => nextDemand (q.dem.getD i 0) top (tot i) (lim i))
  let low := (List.range 5).all (fun i => decide (tot i < lim i * (9 : Rat) / (10 : Rat)))
  let q' := { q with dem := dem, est := es, sum := (List.range 5).map (fun i => q.sum.getD i 0 + tot i), periods := q.periods + 1,
                     overrun := if stuck || (q.prot > 0 && any) then q.overrun + 1 else 0,
                     calm := if la == 0 && lm == 0 then q.calm + 1 else 0,
                     under := if low then q.under + 1 else 0 }
  let snap := (List.range 18).foldl (fun m g => mput 0 m (18 * k + g) (getF d (actPg k) (ACT.ACT_COUNT.at g))) d.estSnap
  -- a current of 1 mA at 1 mV over 2 µs is 2 × 10^-6 µJ
  let leak (m : Map Rat) (i : Nat) : Map Rat :=
    mupd (0 : Rat) m (railOf i k) (fun x => x + (es.getD i (0, 0)).2 * ((railMv d k i : Nat) : Rat) / (5000 : Rat))
  decide1 k (setQuad { d with estSnap := snap, shared := (List.range 5).foldl leak d.shared } k q')

/-! ## The limiter and protection (R386, R387) -/

def noLevels : List Nat := [0, 0, 0, 0, 0]

/-- A level has stood at L_max over the limit for 100 µs: the next slower usable point, levels 0. -/
def limiterDown (k : Nat) (d : Dev) : Dev :=
  let q := quad d k
  let p := pointOf d k
  if q.overrun ≥ 50 && q.prot == 0 && usable p (p + q.lim + 1) then
    takeRun k (setQuad d k { q with lim := q.lim + 1, dem := noLevels, overrun := 0, calm := 0 })
  else d

/-- Would every rail stay below 95 % of its limit with its dynamic part at the next faster point? -/
def roomAbove (d : Dev) (k : Nat) : Bool :=
  let q := quad d k
  let slow := runOf (pointOf d k) q
  let f : Rat := ((Config.aclk (slow - 1) : Nat) : Rat) / ((Config.aclk slow : Nat) : Rat)
  (List.range 5).all (fun i =>
    let e := q.est.getD i (0, 0)
    decide (e.1 * f + e.2 < railSet d k i * (95 : Rat) / (100 : Rat)))

/-- Both levels have stood at 0 for 1 ms: one point back towards P. -/
def limiterUp (k : Nat) (d : Dev) : Dev :=
  let q := quad d k
  if q.lim > 0 && q.prot == 0 && q.calm ≥ 500 && roomAbove d k then
    takeRun k (setQuad d k { q with lim := q.lim - 1, calm := 0 })
  else d

/-- Rail of a die whose estimate exceeds its limit, the lowest instance. -/
def overRail (d : Dev) (k : Nat) : Option (Nat × Rat) :=
  (List.range 5).findSome? (fun i =>
    let e := (quad d k).est.getD i (0, 0)
    if e.1 + e.2 > railSet d k i then some (railOf i k, e.1 + e.2) else none)

/-- 1 ms over the limit at the slowest usable point and L_max: one point slower (R387). -/
def protectionDown (k : Nat) (d : Dev) : Dev :=
  let q := quad d k
  let p := pointOf d k
  match overRail d k with
  | none => d
  | some (r, e) =>
    if q.overrun ≥ 500 && !usable p (p + q.lim + 1) && runOf p q < 7 then
      let d := setQuad d k { q with prot := q.prot + 1, overrun := 0, under := 0, protBark := true }
      let d := count d (railPg r) RAIL.PROT_STEPS 1
      let d := if q.protBark then d
        else bark d 0x2001 (railPg r) k 2 none none ([BitVec.ofNat 8 r, 0] ++ leBytes 2 e.floor.toNat)
      takeRun k d
    else d

/-- 10 ms below 90 % of the limit: one point back to the limiter. -/
def protectionUp (k : Nat) (d : Dev) : Dev :=
  let q := quad d k
  if q.prot > 0 && q.under ≥ 5000 then
    takeRun k (setQuad d k { q with prot := q.prot - 1, under := 0, overrun := 0, protBark := q.prot != 1 && q.protBark })
  else d

/-- A rail without a limiter has stood over its limit for 100 µs (R378). -/
def unlimitedOver (r : Nat) (d : Dev) : Dev :=
  if r < 40 then d
  else
    let e := (Config.fixedEst r d.freeN).toNat
    let d := count { d with freeN := d.freeN + 1 } (railPg r) RAIL.OVER_NOLIM 1
    bark d 0x2002 (railPg r) (lead d) 2 none none ([BitVec.ofNat 8 r, 0] ++ leBytes 2 e)

/-! ## The ramp (R382, R383) -/

/-- Temperatures the ramp goes by: the die, and the four towers of its quadrant. -/
def rampTemps (d : Dev) (k : Nat) : List Int :=
  zoneTemp d k :: (List.range 4).map (fun g => zoneTemp d (8 + 4 * k + g))

/-- 20 ms of the reference have passed (R382). -/
def rampUpdate (k : Nat) (d : Dev) : Dev :=
  let q := quad d k
  let now := rampTemps d k
  let rise := (List.zipWith (· - ·) now q.tempAt).foldl max 0
  let rc := rampCeil d k
  let next := if rise * 10 > 32 then min 6 (rc + 1)
    else if q.fast ≤ rc then rc - 1
    else if q.fast - 1 > rc then q.fast - 1 else rc
  let next := max next (opCeil d k)
  let d := setQuad d k { q with tempAt := now, fast := q.run, want := if next < rc then q.want else none }
  if next > rc then setVolts k next (sendVout k (decide1 k (setRamp k next d)))
  else if next < rc && q.want.isNone then
    setQuad (sendVout k d) k { quad d k with want := some next, tries := 0 }
  else d

/-- STATUS_WORD of both regulators has been read (R383); a failed regulator confirms nothing (R408). -/
def voltageConfirm (k : Nat) (ok : Bool) (d : Dev) : Dev :=
  let q := quad d k
  match q.want with
  | none => d
  | some rc =>
    let both := voutRails d k == 2
    let d := count d pmbPg PMB.PMB_READS (voutRails d k)
    if ok && both then
      let d := setQuad d k { q with want := none, tries := 0 }
      let rc := max rc (opCeil d k)
      decide1 k (setRamp k rc (setVolts k rc d))
    else if q.tries + 1 < 3 then sendVout k (setQuad d k { q with tries := q.tries + 1 })
    else
      let m := Config.freeBit d.freeN
      let r := if m then 16 + k else k
      let d := setQuad { d with freeN := d.freeN + 1 } k { q with want := none, tries := 0 }
      let d := count d (railPg r) RAIL.VOUT_FAILS 1
      bark d 0x1B01 (clkPg k) k 2 none none ([BitVec.ofNat 8 r, 0] ++ leBytes 2 (tableMv d k rc m))

/-- A slew ends; a target that changed during it is taken now. -/
def slewEnds (k : Nat) (d : Dev) : Dev := decide1 k (setQuad d k { quad d k with slewing := false })

/-- No core of the quadrant has issued a step for 1 ms (R381). -/
def quadrantIdle (k : Nat) (d : Dev) : Dev :=
  decide1 k (setQuad d k { quad d k with idleAt := some (stepsIssued d k) })

/-! ## Ageing (R380) -/

/-- A ceiling or guard step in the life log: unit, step code, new and old value (R425). -/
def logStep (unit step new old : Nat) (d : Dev) : Dev :=
  life d 5 0 [BitVec.ofNat 8 unit, BitVec.ofNat 8 step, BitVec.ofNat 8 new, BitVec.ofNat 8 old]

/-- The monitors' slacks as the AGE pages show them: pair 4g + p of the die, near-via and far-via, in 0.1 % of an A-cycle
(R433). -/
def showSlacks (k : Nat) (slacks : List (Int × Int)) (d : Dev) : Dev :=
  ((List.range slacks.length).zip slacks).foldl (fun d x =>
    let pg := AGE.page.pg (4 * k + x.1 / 4 % 4)
    setFI (setFI d pg (AGE.AGE_PAIR_NEAR.at (x.1 % 4)) x.2.1) pg (AGE.AGE_PAIR_FAR.at (x.1 % 4)) x.2.2) d

/-- The hourly check of a die's path monitors against SLACK_MIN, which is in % (R380). -/
def ageingCheck (k : Nat) (slacks : List (Int × Int)) (d : Dev) : Dev :=
  let d := showSlacks k (slacks.take 16) d
  if (slacks.take 16).any (fun s => decide (s.1 < 10 * (getF d (clkPg k) CLK.CLK_AGE_SLACK_MIN : Int))) then
    let g := getF d (clkPg k) CLK.CLK_VOLT_G
    let a := getF d (clkPg k) CLK.CLK_STAT_AGE_CEIL
    let d := if g < 25 then logStep k 1 (g + 5) g (setF d (clkPg k) CLK.CLK_VOLT_G (g + 5))
      else logStep k 2 (min 7 (a + 1)) a (setF d (clkPg k) CLK.CLK_STAT_AGE_CEIL (min 7 (a + 1)))
    let d := bark d 0x1B02 (clkPg k) k 1 none none [BitVec.ofNat 8 k, BitVec.ofNat 8 (getF d (clkPg k) CLK.CLK_VOLT_G),
      BitVec.ofNat 8 (getF d (clkPg k) CLK.CLK_STAT_AGE_CEIL)]
    if g < 25 then setVolts k (rampCeil d k) (sendVout k d) else ceilChanged k d
  else d

/-! ## The package limit (R388) -/

/-- A ceiling of every die takes a value. -/
def allCeil (f : Fld) (v : Nat) (d : Dev) : Dev :=
  (List.range 8).foldl (fun d k => ceilChanged k (setF d (clkPg k) f v)) d

def pwrCeil (d : Dev) : Nat := getF d (clkPg 0) CLK.CLK_STAT_PWR_CEIL

/-- Package power of a reconciliation period against POWER_W. -/
def packageCheck (w : Nat) (d : Dev) : Dev :=
  let lim := Config.powerW d.kind
  let h : Heat := { d.heat with overW := if w > lim then d.heat.overW + 1 else 0,
                                underW := if 100 * w < 97 * lim then d.heat.underW + 1 else 0 }
  if h.overW ≥ 3 then
    let c := min 7 (pwrCeil d + 1)
    let d := logStep 8 3 c (pwrCeil d) d
    let d := allCeil CLK.CLK_STAT_PWR_CEIL c { d with heat := { h with overW := 0 } }
    bark d 0x0201 pwrPg (lead d) 1 none none ([BitVec.ofNat 8 c, 0, 0, 0] ++ leBytes 2 w)
  else { d with heat := h }

/-- 1 s below 97 % of the limit (R388). -/
def powerCeilUp (d : Dev) : Dev :=
  let c := pwrCeil d
  if c > 0 && d.heat.underW ≥ 10 then
    allCeil CLK.CLK_STAT_PWR_CEIL (c - 1) (logStep 8 3 (c - 1) c { d with heat := { d.heat with underW := 0 } })
  else d

end Sys2Proof.Machine
end

