-- ==== Sys2Proof/Machine/Clocks.lean ====
section
/-!
DEFINITION. The clocks of a quadrant in one cycle of the reference: what its swallowers let pass (R385), and the counters of times that waits take
(R64, R121, R149, R207, R234, R249).
-/
namespace Sys2Proof.Machine

/-! ## Swallowing (R385) -/

/-- Pulses that level `l` removes among cycles `a` to `b` − 1 of a window. -/
def removed (l a b : Nat) : Nat := b * l / 72 - a * l / 72

/-- A swallower in one reference cycle of an A clock of `f` MHz, with pulses of `u` hundredths of an A-cycle: what passes of the gated clock, and
where the swallower stands. A level demanded takes effect at the next window boundary. -/
def swallow (level u f : Nat) (s : Swallow) : Nat × Swallow :=
  let a := s.pos / u
  let b := (s.pos + f) / u
  if b < 72 then (f - u * removed s.level a b, { s with pos := s.pos + f })
  else (f - u * (removed s.level a 72 + removed level 0 (b - 72)), { level := level, pos := s.pos + f - 72 * u })

/-- What passes in one reference cycle of the clocks of die `k`: of its A clock, its gated A clock and its gated M clock, in hundredths of an
A-cycle. -/
def clockOf (d : Dev) (k : Nat) : Nat × Nat × Nat :=
  let q := quad d k
  let f := Config.aclk q.run
  (f, (swallow (levelA q) 100 f q.gateA).1, (swallow (levelM q) 200 f q.gateM).1)

/-- The swallowers of every die go on. -/
def ageGates (d : Dev) : Dev :=
  if d.heat.stopped then d
  else (List.range 8).foldl (fun d k =>
    let q := quad d k
    let f := Config.aclk q.run
    setQuad d k { q with gateA := (swallow (levelA q) 100 f q.gateA).2, gateM := (swallow (levelM q) 200 f q.gateM).2 }) d

/-! ## Counters of time (log entry 63) -/

/-- Whole cycles of die `k` that one reference cycle ends, of a clock with `u` hundredths of an A-cycle to the cycle. -/
def clocks (d : Dev) (k u : Nat) : Nat :=
  let q := quad d k
  (q.gateM.pos + Config.aclk q.run) / u - q.gateM.pos / u

def clocksM (d : Dev) (k : Nat) : Nat := clocks d k 200

/-- What holds a floor sequencer counts: the spacing rule, the activation cap, the row gap or a stretch; and its time at its tier while a sequence
runs (R207). -/
def floorTimes (t n : Nat) (d : Dev) : Dev :=
  let f := floor d t
  if f.st != .run && f.st != .wait then d
  else
    let d := count d (flrPg t) (FLR.TIER_TIME.at (tierNow d t)) n
    if f.st == .run then d
    else if f.wait == 3 then count d (flrPg t) FLR.SPACE_WAIT n
    else if f.wait == 4 then count d (flrPg t) FLR.CAP_WAIT n
    else if f.wait == 5 then count d (flrPg t) FLR.GAP_WAIT n
    else if f.wait == 6 then count d (flrPg t) FLR.STRETCH_PAUSE n
    else d

/-- Does a MOVE at the head of its engine wait for a token? -/
def moveWaits (d : Dev) (n : Nat) : Bool :=
  let c := core d n
  match c.q.findIdx? (fun q => q.eng == .move && !q.started) with
  | some i => (c.q[i]?.map (waitOf d n i)) == some 2
  | none => false

/-- A-cycles in which a MOVE waits for a token, and in which a WAIT holds issue. -/
def coreWaits (d : Dev) (n : Nat) : Dev :=
  let c := core d n
  let a := clocks d (coreDie n) 100
  let d := if c.st == .wait && c.wait == 1 then count d (corePg n) CORE.LEASH_WAIT a else d
  if moveWaits d n then count d (corePg n) CORE.TOKEN_WAIT a else d

/-- L-cycles in which an outbound channel of a region has payload to send and its window is full. -/
def windowWaits (d : Dev) (i : Nat) : Dev :=
  if (List.range 32).any (fun j =>
    let c := chan d i j
    c.waiting != [] && c.unacked.length ≥ sendWin d i && !(tower d i).hold) then
    count d (optPg i) OPT.WINDOW_WAIT (clocks d (regionDie i) 50)
  else d

/-- Every microsecond: the partitions that hold a completion for space. -/
def ringWaits (d : Dev) : Dev :=
  if mget 0 d.ticks (lead d) % 100 != 0 then d
  else (List.range 8).foldl (fun d p =>
    if d.rqs.any (fun x => x.1 / 64 == p && x.2.held != []) then count d (partPg p) PART.CQ_FULL_WAIT 1 else d) d

/-- The counters of waits in one cycle of the reference. -/
def countWaits (d : Dev) : Dev :=
  let cores := (d.cores.filter (fun x => x.2.st == .run || x.2.st == .wait)).map (·.1)
  ringWaits ((List.range 32).foldl windowWaits (cores.foldl coreWaits d))

end Sys2Proof.Machine
end

