-- ==== Sys2Proof/Machine/Heat.lean ====
section
/-!
DEFINITION. Sensors, thermal models, thermal responses, coolant and thermal cycles (R390 to R402).
-/
namespace Sys2Proof.Machine

def thmPg : Nat := THM.page.pg 0
def tripPg : Nat := TRIP.page.pg 0
def clntPg : Nat := CLNT.page.pg 0

/-! ## Sensors (R390 to R392) -/

def sensor (d : Dev) (n : Nat) : Sensor := mget Sensor.init d.sens n
def setSensor (d : Dev) (n : Nat) (s : Sensor) : Dev := { d with sens := mput Sensor.init d.sens n s }

/-- TZON instance of a sensor. -/
def sensorZone (n : Nat) : Nat := if n < 512 then n / 64 else if n < 1664 then 8 + (n - 512) / 36 else 40

/-- Twins of hot spot `h` of a die. -/
def twin (k h b : Nat) : Nat := 64 * k + 48 + 2 * h + b

def absI (x : Int) : Nat := x.natAbs

/-- Is sensor `n` a twin excluded from protection: suspect, while its twin and the model agree within 3 °C (R391)? -/
def excluded (d : Dev) (n : Nat) : Bool :=
  let k := n / 64
  let i := n % 64
  let o := sensor d (64 * k + (if i % 2 == 0 then i + 1 else i - 1))
  n < 512 && 48 ≤ i && (sensor d n).suspect && !o.failed &&
    absI (o.val - (zoneOf d k).model.getD ((i - 48) / 2) 0) ≤ 48

def trusted (d : Dev) (n : Nat) : Bool := !(sensor d n).failed && !excluded d n

/-- Readings of the trusted sensors among `ns`. -/
def trustedVals (d : Dev) (ns : List Nat) : List Int := (ns.filter (trusted d)).map (fun n => (sensor d n).val)

def maxOf : List Int → Option Int
  | [] => none
  | x :: r => some (r.foldl max x)

/-- A hot spot whose two sensors have failed reads its model plus 5 °C (R392). -/
def lostSpots (d : Dev) (k : Nat) : List Int :=
  ((List.range 8).filter (fun h => (sensor d (twin k h 0)).failed && (sensor d (twin k h 1)).failed)).map
    (fun h => (zoneOf d k).model.getD h 0 + 80)

def dieSensors (k : Nat) : List Nat := (List.range 64).map (64 * k + ·)
def towerSensors (t : Nat) : List Nat := (List.range 36).map (512 + 36 * t + ·)
def baseSensors : List Nat := (List.range 16).map (1664 + ·)
def zoneSensors (z : Nat) : List Nat := if z < 8 then dieSensors z else if z < 40 then towerSensors (z - 8) else baseSensors

/-- Estimates of a tower's layers. -/
def layerModel (d : Dev) (t : Nat) : List Int := ((zoneOf d (8 + t)).model.drop 1).take 16

/-- Temperature of a zone at a conversion: die temperature (R390), governing temperature (R393), or the optical base's hottest
trusted sensor; a zone that gives no reading keeps its last. -/
def zoneReading (d : Dev) (z : Nat) : Int :=
  let vs := trustedVals d (zoneSensors z)
  let vs := if z < 8 then vs ++ lostSpots d z else if z < 40 then vs ++ layerModel d (z - 8) else vs
  (maxOf vs).getD (zoneTemp d z)

/-- A conversion of sensor `n` gives a reading, or none. -/
def takeReading (n : Nat) (v : Option Int) (d : Dev) : Dev :=
  match v with
  | some v => setSensor d n { sensor d n with val := v }
  | none => d

/-- A suspect mark set or cleared goes to the life log, with the twin's reading and the model (R391, R425). -/
def logMark (n code : Nat) (d : Dev) : Dev :=
  let i := n % 64
  let o := sensor d (if i % 2 == 0 then n + 1 else n - 1)
  let m := (zoneOf d (n / 64)).model.getD ((i - 48) / 2) 0
  life d 6 0 (leBytes 2 n ++ [BitVec.ofNat 8 code, 0] ++ leBytes 2 (o.val % 65536).toNat ++ leBytes 2 (m % 65536).toNat)

/-- The pair of a hot spot at a conversion: a difference of more than 3 °C counts when it begins, and a suspect mark clears
after 24 h of powered time without one. -/
def checkTwins (k h : Nat) (d : Dev) : Dev :=
  let a := sensor d (twin k h 0)
  let b := sensor d (twin k h 1)
  let now := powered d (lead d)
  let lost := a.failed || b.failed
  let apart := !lost && absI (a.val - b.val) > 48
  let d := if apart && !a.apart then count d thmPg THM.TWIN_DISAGREE 1 else d
  let since := if apart || lost then now else a.since
  let clear := !apart && !lost && now ≥ since + 86400
  let d := setSensor d (twin k h 0) { a with apart := apart, since := since, suspect := a.suspect && !clear }
  let d := setSensor d (twin k h 1) { b with apart := apart, since := since, suspect := b.suspect && !clear }
  let d := if a.suspect && clear then logMark (twin k h 0) 2 d else d
  if b.suspect && clear then logMark (twin k h 1) 2 d else d

/-- A difference of more than 8 °C has lasted 10 s: the sensor further from the model becomes suspect. -/
def sensorSuspects (k h : Nat) (d : Dev) : Dev :=
  let a := sensor d (twin k h 0)
  let b := sensor d (twin k h 1)
  let m := (zoneOf d k).model.getD h 0
  let da := absI (a.val - m)
  let db := absI (b.val - m)
  if absI (a.val - b.val) ≤ 128 || a.failed || b.failed then d
  else
    let d' := if da == db then { d with freeN := d.freeN + 1 } else d
    let n := twin k h (if da > db then 0 else if db > da then 1 else (Config.freeBit d.freeN).toNat)
    if (sensor d n).suspect then d'
    else
      let d := logMark n 1 (setSensor d' n { sensor d' n with suspect := true })
      bark d 0x2102 thmPg k 1 none none (leBytes 2 n ++ [1])

/-- No valid conversion for 1 ms (R392). -/
def sensorFails (n : Nat) (d : Dev) : Dev :=
  if (sensor d n).failed then d
  else
    let z := sensorZone n
    let d := count (setSensor d n { sensor d n with failed := true }) (zonPg z) TZON.SENSOR_FAILS 1
    bark d 0x2102 (zonPg z) (if z < 8 then z else if z < 40 then (z - 8) / 4 else lead d) 1 none none (leBytes 2 n ++ [2])

/-! ## Models (R391, R393, R394) -/

def hotSpotModel (k : Nat) (d : Dev) : Dev :=
  let z := zoneOf d k
  setZone { d with freeN := d.freeN + 1 } k { z with model := (List.range 8).map (fun h => Config.hotSpot k d.freeN h) }

/-- Readings of a layer's two sensors that have not failed. -/
def layerSensors (d : Dev) (t l : Nat) : List Int :=
  ([0, 1].filter (fun b => !(sensor d (512 + 36 * t + 2 * l + b)).failed)).map (fun b => (sensor d (512 + 36 * t + 2 * l + b)).val)

/-- Does a layer's estimate exceed its higher sensor by more than 6 °C? -/
def layerHides (d : Dev) (t l : Nat) : Bool :=
  match maxOf (layerSensors d t l) with
  | some v => (layerModel d t).getD l 0 - v > 96
  | none => false

/-- The model of a tower takes its new estimates; hidden heat clears after 10 s within 6 °C (R394). -/
def newModel (t : Nat) (d : Dev) : Dev :=
  let z := zoneOf d (8 + t)
  let d := setZone { d with freeN := d.freeN + 1 } (8 + t)
    { z with model := (List.range 18).map (fun i => Config.towerNode t d.freeN i) }
  let z := zoneOf d (8 + t)
  let bad := (List.range 16).any (layerHides d t)
  let n := if bad || !z.hidden then 0 else z.hiddenOk + 1
  setZone d (8 + t) (if n ≥ 10000 then { z with hidden := false, hiddenOk := 0 } else { z with hiddenOk := n })

def assertAlert (d : Dev) : Dev := { d with alertPin := true }

/-- A layer has hidden heat for more than 1 s: one bark until HIDDEN clears. -/
def hiddenHeat (t l : Nat) (d : Dev) : Dev :=
  let z := zoneOf d (8 + t)
  if z.hidden || !layerHides d t l then d
  else
    let v := (maxOf (layerSensors d t l)).getD 0
    let m := (layerModel d t).getD l 0
    let d := setZone d (8 + t) { z with hidden := true, hiddenOk := 0 }
    let d := count (count d thmPg THM.HIDDEN_HEAT 1) (zonPg (8 + t)) TZON.HIDDEN_EVENTS 1
    let d := bark d 0x2101 (zonPg (8 + t)) (t / 4) 1 (partOf d t) none
      ([BitVec.ofNat 8 t, BitVec.ofNat 8 l] ++ leBytes 2 (m % 65536).toNat ++ leBytes 2 (v % 65536).toNat)
    assertAlert d

/-! ## Stops (R397, R398, R401) -/

/-- A core whose issue stops at its next step boundary: what it has issued runs to its end, and it is in heel then (R397). -/
def holdIssue (c : Core) : Core := if c.st == .run || c.st == .wait then { c with heelReq := true, item := none } else c

/-- A sequencer whose issue stops at its next command boundary. -/
def holdSequencer (f : Floor) : Floor := if f.st == .run || f.st == .wait then { f with heelReq := true, item := none } else f

/-- A core that stops with its clock; a core fault or a muzzle stays. -/
def stopCore (c : Core) : Core :=
  { c with st := if c.st == .run || c.st == .wait then .heel else c.st, wait := 0, q := [], heelReq := false, heelBy := false,
           item := none }
def stopSequencer (f : Floor) : Floor :=
  { f with st := if f.st == .run || f.st == .wait then .heel else f.st, wait := 0, running := false, turnSent := false,
           clearWait := none, time := FloorTime.init, heelReq := false, heelBy := false, item := none }

/-- Batch steps whose tables are being zeroed for units of regions: they have started and run no program yet. -/
def zeroingItems (d : Dev) (rs : List Nat) : List Nat :=
  d.items.filterMap (fun x => match x.2 with
    | some it => if !it.ended && it.stage == .zeroing && it.units.any (fun u => rs.contains (unitRegion u)) then some x.1 else none
    | none => none)

/-- Every item on units of regions fails with THERMAL, and the units stop as `f` and `g` say; the answer counts the items failed. -/
def stopRegions (f : Core → Core) (g : Floor → Floor) (rs : List Nat) (d : Dev) : Dev × Nat :=
  let zs := zeroingItems d rs
  let n := (runningItems d rs).length + zs.length
  let d := zs.foldl (fun d i => endRun d i stThermal) (failUnits (fun _ => true) rs stThermal d)
  let d := rs.foldl (fun d r =>
    let d := (List.range 128).foldl (fun d u => setCore d (128 * r + u) (f (core d (128 * r + u)))) d
    setFloor d r (g (floor d r))) d
  (count d tripPg TRIP.ITEMS_THERMAL n, n)

def haltAll (d : Dev) : Dev := (List.range 8).foldl haltPart d

/-- A region enters thermal hold (R397): what its units have started runs to its end. -/
def thermalHold (t : Nat) (d : Dev) : Dev :=
  let z := zoneOf d (8 + t)
  if z.hold then d
  else
    let d := setZone d (8 + t) { z with hold := true }
    let d := match partOf d t with | some p => haltPart d p | none => d
    let d := (stopRegions holdIssue holdSequencer [t] d).1
    floorHeelIn t ((List.range 128).foldl (fun d u => heelIn d (128 * t + u)) d)

/-- First cause of a stop, with its stamp (R410). -/
def tripCause (cause die : Nat) (d : Dev) : Dev :=
  if getF d tripPg TRIP.TRIP_STAT_CAUSE != 0 then d
  else setF (setF (setF d tripPg TRIP.TRIP_STAT_CAUSE cause) tripPg TRIP.TRIP_STAT_DIE die) tripPg TRIP.TRIP_STAT_STAMP
    (stampOf d (lead d))

/-- Values the device keeps over a stop are written to the life log at once (R425, R455). -/
def logResidues (d : Dev) : Dev :=
  (List.range 11).foldl (fun d s =>
    life d 1 (3 + s) ((List.range 4).flatMap (fun i => leBytes 8 ((mget (0 : Int) d.resid (4 * s + i)) % 2 ^ 64).toNat))) d

/-- The arithmetic of every die stops, and every item in flight fails with THERMAL. -/
def stopAll (d : Dev) : Dev × Nat :=
  let (d, n) := stopRegions stopCore stopSequencer (List.range 32) (haltAll d)
  let d := { d with heat := { d.heat with stopped := true } }
  (logResidues (setF d pkgPg PKG.PKG_INFO_PSTATE 4), n)

/-- Emergency drain: cause 1 rise rate, 2 optical base (R401). -/
def emergencyDrain (cause dies : Nat) (d : Dev) : Dev :=
  if getF d thmPg THM.THM_STAT_DRAINED == 1 then d
  else
    let (d, n) := stopAll d
    let d := count (setF d thmPg THM.THM_STAT_DRAINED 1) thmPg THM.DRAINS 1
    let die := ((List.range 8).find? (bit dies)).getD (lead d)
    let d := tripCause (cause + 1) die d
    let d := bark d 0x1601 tripPg (lead d) 3 none none
      ([BitVec.ofNat 8 cause, BitVec.ofNat 8 dies, 0, 0] ++ leBytes 4 n)
    assertAlert d

/-- A hot-spot comparator at 115 °C (R398). After a cold reset that left the latch set, one still at 115 °C trips again (R472). -/
def hardwareTrip (k h : Nat) (v : Int) (d : Dev) : Dev :=
  if v < 1840 || getF d thmPg THM.THM_STAT_TRIPPED == 1 then d
  else
    let d := { d with thermtrip := true }
    let (d, _) := stopAll d
    let d := count (setF d thmPg THM.THM_STAT_TRIPPED 1) thmPg THM.TRIPS 1
    let d := tripCause 1 k d
    bark d 0x1602 tripPg k 3 none none ([BitVec.ofNat 8 k, BitVec.ofNat 8 h] ++ leBytes 2 (v % 65536).toNat)

/-! ## Thermal responses (R395, R396) -/

def thermCeil (d : Dev) (k : Nat) : Nat := getF d (clkPg k) CLK.CLK_STAT_THERM_CEIL
def setThermCeil (k v : Nat) (d : Dev) : Dev :=
  if thermCeil d k == v then d
  else ceilChanged k (count (setF d (clkPg k) CLK.CLK_STAT_THERM_CEIL v) (clkPg k) CLK.THERM_STEPS 1)

def barkThreshold (z thr sev die : Nat) (part : Option Nat) (d : Dev) : Dev :=
  bark d 0x2103 (zonPg z) die sev part none (leBytes 2 z ++ [BitVec.ofNat 8 thr])

/-- A compute die at 95 and 105 °C; the response at 95 °C begins anew once the reading has been below 92 °C. -/
def dieResponse (k : Nat) (d : Dev) : Dev :=
  let t := zoneTemp d k
  let z := zoneOf d k
  let d := if t ≥ 1680 && !z.hot then assertAlert (barkThreshold k 105 2 k none (setZone d k { z with hot := true }))
    else if t < 1520 && z.hot then setZone d k { z with hot := false } else d
  let d := if t ≥ 1520 then setZone d k { zoneOf d k with warm := true }
    else if t < 1472 then setZone d k { zoneOf d k with warm := false } else d
  if t ≥ 1680 then setThermCeil k 7 d
  else if t ≥ 1520 && !z.warm then setThermCeil k (min 7 (pointOf d k + 1)) d else d

/-- 10 ms at or above 95 °C. -/
def thermalCeilDown (k : Nat) (d : Dev) : Dev :=
  if zoneTemp d k ≥ 1520 && thermCeil d k != 0 then setThermCeil k (min 7 (thermCeil d k + 1)) d else d

/-- 100 ms below 92 °C: one point. -/
def thermalCeilUp (k : Nat) (d : Dev) : Dev :=
  let c := thermCeil d k
  if zoneTemp d k < 1472 && c != 0 then setThermCeil k (c - 1) d else d

/-- Refresh band of a governing temperature (R170); a region in thermal hold stays in band 2 (R397). -/
def bandOf (hold : Bool) (g : Int) : Nat := if hold || g > 1520 then 2 else if g > 1360 then 1 else 0

/-- A tower's band, tier and responses at an evaluation (R170, R203, R395). -/
def towerResponse (t : Nat) (d : Dev) : Dev :=
  let g := zoneTemp d (8 + t)
  let f := floor d t
  let tier := tierStep f.tier g
  let d := if tier == f.tier then d else count (setFloor d t { f with tier := tier }) (flrPg t) FLR.TIER_CHANGES 1
  let d := setF (setF d (twrPg t) TWR.TWR_STAT_BAND (bandOf (zoneOf d (8 + t)).hold g)) (twrPg t) TWR.TWR_STAT_TIER tier
  let z := zoneOf d (8 + t)
  let d := if g ≥ 1680 && !z.hot then
      assertAlert (barkThreshold (8 + t) 105 2 (t / 4) (partOf d t) (setZone d (8 + t) { z with hot := true }))
    else if g < 1600 && z.hot then setZone d (8 + t) { z with hot := false } else d
  if g ≥ 1760 then thermalHold t d else d

/-- The optical base at 85 and 100 °C. -/
def opticalResponse (d : Dev) : Dev :=
  let t := zoneTemp d 40
  let z := zoneOf d 40
  let d := if t ≥ 1360 && !z.hot then barkThreshold 40 85 1 (lead d) none (setZone d 40 { z with hot := true })
    else if t < 1280 && z.hot then setZone d 40 { z with hot := false } else d
  if t ≥ 1600 then emergencyDrain 2 0 d else d

/-! ## Rise rate (R401) and thermal cycles (R402) -/

/-- Estimated power of a die's rails, in units of 0.1 A × mV. -/
def diePower (d : Dev) (k : Nat) : Rat :=
  ((List.range 5).map (fun i =>
    let e := (quad d k).est.getD i (0, 0)
    (e.1 + e.2) * ((railMv d k i : Nat) : Rat))).foldl (fun a b => a + b) (0 : Rat)

/-- Dies whose temperature has risen faster than DTDT_LIM over 200 conversions while their power rose by less than 10 %. -/
def fastDies (d : Dev) : List Nat :=
  match d.heat.past[199]? with
  | none => []
  | some (ts, ps) =>
    let lim : Nat := getF d tripPg TRIP.TRIP_CFG_DTDT_LIM
    (List.range 8).filter (fun k =>
      decide (100 * (zoneTemp d k - ts.getD k 0) > 16 * (lim : Int)) &&
        (decide (diePower d k ≤ ps.getD k 0) || decide (diePower d k < ps.getD k 0 * (11 : Rat) / (10 : Rat))))

def riseCheck (d : Dev) : Dev :=
  let ks := fastDies d
  let d := if ks.length ≥ getF d tripPg TRIP.TRIP_CFG_DTDT_DIES then emergencyDrain 1 (sumOf (ks.map (2 ^ ·))) d else d
  let now := ((List.range 8).map (fun k => zoneTemp d k), (List.range 8).map (fun k => diePower d k))
  { d with heat := { d.heat with past := (now :: d.heat.past).take 200 } }

def cycleStep (z : Nat) (d : Dev) : Dev :=
  let t := zoneTemp d z
  let x := zoneOf d z
  if x.rising then
    let m := min (x.ext.getD t) t
    if t ≥ m + 320 then setZone d z { x with rising := false, ext := some t } else setZone d z { x with ext := some m }
  else
    let m := max (x.ext.getD t) t
    if t ≤ m - 320 then count (setZone d z { x with rising := true, ext := some t }) (zonPg z) TZON.CYCLES 1
    else setZone d z { x with ext := some m }

/-! ## A conversion (R390) -/

/-- TZON_STAT of a zone after a conversion. -/
def showZone (z : Nat) (d : Dev) : Dev :=
  let pg := zonPg z
  let v := zoneReading d z
  let d := match maxOf (trustedVals d (zoneSensors z)) with
    | some s => setFI d pg TZON.TZON_STAT_SENS_MAX s
    | none => d
  let ms := if z < 8 then (zoneOf d z).model else if z < 40 then layerModel d (z - 8) else []
  let d := match maxOf ms with | some m => setFI d pg TZON.TZON_STAT_MODEL_MAX m | none => d
  setFI d pg TZON.TZON_STAT_TEMP v

/-- The model of a tower after 1 ms: its governing temperature follows, with the cycles, the band, the tier and the responses that go by it
(R393 to R397, R402). -/
def towerModel (t : Nat) (d : Dev) : Dev := towerResponse t (cycleStep (8 + t) (showZone (8 + t) (newModel t d)))

/-- Every 50 µs: readings, twins, zones, responses. -/
def sensorConversion (vs : List (Option Int)) (d : Dev) : Dev :=
  let d := (List.range 1680).foldl (fun d n => if (sensor d n).failed then d else takeReading n (vs.getD n none) d) d
  let d := (List.range 8).foldl (fun d k => (List.range 8).foldl (fun d h => checkTwins k h d) d) d
  let d := (List.range 41).foldl (fun d z => showZone z d) d
  let d := (List.range 40).foldl (fun d z => cycleStep z d) d
  let d := (List.range 8).foldl (fun d k => dieResponse k d) d
  let d := (List.range 32).foldl (fun d t => towerResponse t d) d
  riseCheck (opticalResponse d)

/-! ## ALERT_N (R313, R471, R473) -/

/-- Does a cause of ALERT_N still hold? -/
def alertCause (d : Dev) : Bool :=
  (List.range 40).any (fun z => (zoneOf d z).hot || (zoneOf d z).hidden) || d.heat.cool > 0 ||
    getF d thmPg THM.THM_STAT_DRAINED == 1

def alertAck (d : Dev) : Dev := if alertCause d then d else { d with alertPin := false }

/-! ## Coolant (R399, R400) -/

/-- Index of a die: the mean of its last samples, at most 16; its baseline where it has none. -/
def dieIndex (d : Dev) (k : Nat) : Rat :=
  match (quad d k).heat with
  | [] => ((getF d clntPg (CLNT.DIE_BASE.at k) : Nat) : Rat)
  | hs => ((hs.foldl (· + ·) 0 : Int) : Rat) / ((hs.length : Nat) : Rat)

def baseOf (d : Dev) (k : Nat) : Rat := ((getF d clntPg (CLNT.DIE_BASE.at k) : Nat) : Rat)

/-- An index relative to a baseline, in 0.1 %, taken down; 0 where the baseline is 0. -/
def relative (i b : Rat) : Int := if b == 0 then 0 else ((i - b) * (1000 : Rat) / b).floor

def upDies (d : Dev) : List Nat := (List.range 8).filter (dieUp d)
def sumRat (l : List Rat) : Rat := l.foldl (fun a b => a + b) (0 : Rat)

/-- Threshold of coolant step 1 to 4, in 0.1 %; CLNT_CFG may lower the first two. -/
def coolThreshold (d : Dev) (s : Nat) : Int :=
  match s with
  | 1 => (getF d clntPg CLNT.CLNT_CFG_WARN_PCT : Int)
  | 2 => (getF d clntPg CLNT.CLNT_CFG_LIMIT_PCT : Int)
  | 3 => 400
  | _ => 500

/-- Coolant ceiling of a step. -/
def coolPoint (s : Nat) : Nat := if s ≤ 1 then 0 else 2 * (s - 1)

/-- The coolant stands at a step: flags and ceilings. -/
def showCool (s : Nat) (d : Dev) : Dev :=
  let was := coolPoint d.heat.cool
  let c := coolPoint s
  let d := { d with heat := { d.heat with cool := s } }
  let d := setF (setF d thmPg THM.THM_STAT_COOL_WARN (if s ≥ 1 then 1 else 0)) thmPg THM.THM_STAT_COOL_LIMIT (if s ≥ 2 then 1 else 0)
  if c == was then d
  else allCeil CLK.CLK_STAT_COOL_CEIL c (logStep 8 4 c was (setF d thmPg THM.THM_STAT_CEIL c))

/-- Steps up, each with its bark (R400). -/
def coolUp (i : Int) : Nat → Dev → Dev
  | 0, d => d
  | f + 1, d =>
    let s := d.heat.cool + 1
    if s ≤ 4 && i ≥ coolThreshold d s then
      let d := count (showCool s d) thmPg THM.COOL_WARNS 1
      let d := bark d 0x1401 clntPg (lead d) (if s ≥ 2 then 2 else 1) none none
        (leBytes 2 (i % 65536).toNat ++ [BitVec.ofNat 8 (coolPoint s)])
      coolUp i f (if s == 1 then assertAlert d else d)
    else d

/-- Steps released, each 5 % below its threshold. -/
def coolDown (i : Int) : Nat → Dev → Dev
  | 0, d => d
  | f + 1, d =>
    let s := d.heat.cool
    if s > 0 && i < coolThreshold d s - 50 then coolDown i f (showCool (s - 1) d) else d

/-- HEAT_INDEX and what follows from it. -/
def coolantCheck (d : Dev) : Dev :=
  let ks := upDies d
  let i := relative (sumRat (ks.map (dieIndex d))) (sumRat (ks.map (baseOf d)))
  coolDown i 4 (coolUp i 4 (setFI d thmPg THM.HEAT_INDEX i))

/-- A heat-path sample of a die: change of temperature in 1/16 °C and of power in W (R399). -/
def heatPathSample (k : Nat) (dT dP : Int) (d : Dev) : Dev :=
  if absI dP < 40 then d
  else
    let v := dT * 1000 / (16 * dP)
    let q := quad d k
    let d := count (setQuad d k { q with heat := (v :: q.heat).take 16 }) clntPg CLNT.SAMPLES 1
    let d := setFI d clntPg (CLNT.DIE_INDEX.at k) (relative (dieIndex d k) (baseOf d k))
    coolantCheck (setF d clntPg (CLNT.DIE_INDEX_STAMP.at k) (stampOf d k))

/-- REBASE written to THM_XCTL (R399). -/
def rebase (d : Dev) : Dev × Nat :=
  let ks := upDies d
  if ks.any (fun k => (quad d k).heat.length < 16) then (notNow d thmPg, stNotNow)
  else
    let d := ks.foldl (fun d k =>
      let b := (dieIndex d k).floor.toNat
      let d := setF d clntPg (CLNT.DIE_BASE.at k) b
      let d := setFI d clntPg (CLNT.DIE_INDEX.at k) (relative (dieIndex d k) (baseOf d k))
      life d 7 0 ([BitVec.ofNat 8 k, 2, 0, 0] ++ leBytes 4 b)) d
    (coolantCheck d, stOk)

end Sys2Proof.Machine
end

