-- ==== Sys2Proof/Machine/Energy.lean ====
section
/-!
DEFINITION. Energy accounts, reconciliation, receipts, batches and signed roots (R446 to R458), and the receipt ring
(R314).
-/
namespace Sys2Proof.Machine

def rsaPg : Nat := RSA.page.pg 0
def rngPg : Nat := RNG.page.pg 0

/-! ## The receipt ring (R314, R458) -/

def rcptOn (d : Dev) : Bool := getF d metrPg METR.RCPT_CFG_ENABLE == 1
def rcptSize (d : Dev) : Nat := 2 ^ getF d metrPg METR.RCPT_CFG_LOG2
def rcptUsed (d : Dev) : Nat := (d.rcptTail + rcptSize d - getF d metrPg METR.RCPT_HEAD % rcptSize d) % rcptSize d
def rcptPlace (d : Dev) : Bool := rcptOn d && rcptUsed d + 1 < rcptSize d

/-- PHASE is bit 8 of an entry. -/
def withPhase (bs : List Byte) (p : Bool) : List Byte :=
  match bs with
  | a :: b :: r => a :: (if p then b ||| 1#8 else b) :: r
  | _ => bs

def rcptWrite (d : Dev) (bs : List Byte) : Dev :=
  let a := getF d metrPg METR.RCPT_BASE + 128 * d.rcptTail
  let d := devWrite d (getF d metrPg METR.RCPT_CFG_LOC == 1) sysWho metrPg a (withPhase bs d.rcptPhase)
  let t := d.rcptTail + 1
  if t ≥ rcptSize d then { d with rcptTail := 0, rcptPhase := !d.rcptPhase } else { d with rcptTail := t }

/-- Entries held leave while the ring has a place. -/
def rcptDrain : Nat → Dev → Dev
  | 0, d => d
  | f + 1, d =>
    match d.rcptQ with
    | [] => d
    | b :: r => if rcptPlace d then rcptDrain f (rcptWrite { d with rcptQ := r } b) else d

def rcptPump (d : Dev) : Dev := rcptDrain d.rcptQ.length d

/-! ## Batches (R456, R457) -/

/-- Words of an entry as bytes, with its CRC-32C over bytes 0 to 123 in bits 63:32 of word 15. -/
def sealed (ws : List Nat) : List Byte :=
  let body := ((ws ++ List.replicate 15 0).take 15).flatMap (leBytes 8) ++ zeros 4
  body ++ leBytes 4 (crc32c body)

/-- One level of the tree: nodes paired in order, an unpaired last node unchanged. -/
def pairUp : List (List Byte) → List (List Byte)
  | a :: b :: r => sha512 (1#8 :: (a ++ b)) :: pairUp r
  | l => l

def treeRoot : Nat → List (List Byte) → List Byte
  | 0, l => l.headD []
  | f + 1, l => match l with
    | [] => []
    | [a] => a
    | _ => treeRoot f (pairUp l)

def noteIdx (d : Dev) : Nat := getF d lifePg LIFE.LIFE_STAT_NOTE_IDX

/-- ROOT_SEQ of the open batch. -/
def nextRoot (d : Dev) : Nat := getF d metrPg METR.METR_SEQ_ROOT_SEQ + d.batches.length + 1

/-- The open batch closes. -/
def closeBatch (d : Dev) : Dev :=
  match d.batch with
  | [] => d
  | b :: _ =>
    let root := treeRoot 13 (d.batch.map (fun r => sha512 (0#8 :: r)))
    let s := nextRoot d
    let ws := [2 + s % 2 ^ 32 * 2 ^ 32, d.batch.length + leNat ((b.drop 4).take 4) * 2 ^ 32,
      stampOf d (lead d) + lead d * 2 ^ 48, noteIdx d + d.series * 2 ^ 32] ++ (pieces 8 root).map leNat ++
      [getF d metrPg METR.ACCT_MEASURED, getF d metrPg METR.ACCT_IDLE, getF d metrPg METR.ACCT_RESIDUE]
    { d with batch := [], batches := d.batches ++ [⟨s, sealed ws, false⟩] }

/-- A receipt joins the open batch and goes to the ring. -/
def issueReceipt (bs : List Byte) (d : Dev) : Dev :=
  let d := count { d with batch := d.batch ++ [bs], rcptQ := d.rcptQ ++ [bs] } metrPg METR.RECEIPTS 1
  if d.batch.length ≥ 4096 then closeBatch d else d

/-- ROOT_MS after the first receipt of the open batch (R456). -/
def batchTimeout (d : Dev) : Dev := rcptPump (closeBatch d)

/-- The five SIG entries of a root. -/
def sigEntries (seq : Nat) (sig : List Byte) : List (List Byte) :=
  (List.range 5).map (fun i => leBytes 8 (3 + i * 2 ^ 9 + seq % 2 ^ 32 * 2 ^ 32) ++ (((sig.drop (120 * i)).take 120) ++ zeros 120).take 120)

/-- First octet at the lowest address (R438). -/
def octets (v : BitVec 4096) : List Byte := beBytes 512 v.toNat

/-- The engine that serves: die 0's whenever die 0 is up, else die 7's, or none (R437). -/
def engineNow (d : Dev) : Nat := if dieUp d 0 then 0 else if dieUp d 7 then 1 else 3

/-- Can the engine sign: one is up, its bank is usable, and the RNG supplies the salt (R437)? -/
def canSign (d : Dev) (mk : Bool) : Bool :=
  engineNow d != 3 && getF d rsaPg (if mk then RSA.RSA_STAT_MK_OK else RSA.RSA_STAT_ID_OK) == 1 &&
    getF d rngPg RNG.RNG_STAT_SEEDED == 1 && getF d rngPg RNG.RNG_STAT_FAILED == 0

/-- The oldest closed batch is signed (R457, R458). -/
def rootSigned (d : Dev) : Dev :=
  match d.batches with
  | [] => d
  | b :: r =>
    if !canSign d true then d
    else
      let sig := octets (Config.signature true (b.record.take 124) d.freeN)
      let wrap := b.rootSeq ≥ 2 ^ 32 - 1
      let d := { d with freeN := d.freeN + 1, batches := r, series := if wrap then d.series + 1 else d.series,
                        rcptQ := d.rcptQ ++ b.record :: sigEntries b.rootSeq sig }
      let d := setF d metrPg METR.METR_SEQ_ROOT_SEQ (if wrap then 0 else b.rootSeq)
      let d := if wrap then setF d metrPg METR.METR_SEQ_RECEIPT_SEQ 0 else d
      let d := count (count d metrPg METR.ROOTS 1) rsaPg RSA.SIGN_ROOT 1
      rcptPump (count d secPg SEC.SIGNATURES 1)

/-- A closed batch has waited 100 ms. -/
def batchWaits (d : Dev) : Dev :=
  match d.batches with
  | [] => d
  | b :: r =>
    if b.warned then d
    else
      let d := count { d with batches := { b with warned := true } :: r } rsaPg RSA.BATCH_WAITS 1
      bark d 0x0603 rsaPg (lead d) 1 none none (leBytes 4 b.rootSeq ++ [BitVec.ofNat 8 d.batches.length])

/-! ## Closing an account (R452, R453) -/

/-- The receipt of a record's words. -/
def receiptOf (d : Dev) (k : Nat) (a : Acct) (ws : List Nat) : List Byte :=
  let w (i : Nat) : Nat := ws.getD i 0
  let lost := k ≥ 2 ^ 20
  let key := if lost then (k - 2 ^ 20) * 16384 else k
  sealed [1 + (if lost then 2 ^ 24 else 0) + a.part * 2 ^ 25 + a.status * 2 ^ 28 + a.seq * 2 ^ 32,
    key + a.lost * 2 ^ 32, w 1, a.energy, w 3, w 7 / 2 ^ 32 * 2 ^ 32 + w 4 / 2 ^ 32,
    a.epoch + w 6 / 2 ^ 32 * 2 ^ 32, w 8 % 2 ^ 48, w 9 % 2 ^ 48, noteIdx d + nextRoot d % 2 ^ 32 * 2 ^ 32,
    a.direct.floor.toNat % 2 ^ 64, a.shared.floor.toNat % 2 ^ 64, d.batch.length, idWord 0,
    d.series]

/-- May accounts close now (R458)? -/
def mayClose (d : Dev) : Bool := d.batches.length < 8 && d.rcptQ.length < 16384

/-- ENERGY of an account goes into its record. -/
def writeEnergy (k : Nat) (a : Acct) (d : Dev) : Dev × Option (List Nat) :=
  if k ≥ 2 ^ 20 then (d, some [])
  else if (tower d (recTower k)).hold then (d, none)
  else
    match recRead d k with
    | (d, none) => (d, none)
    | (d, some ws) => (recWrite d k (lput ws 5 a.energy), some ws)

/-- An account whose stream has ended closes, its last period booked. -/
def closeAcct (k : Nat) (d : Dev) : Dev :=
  match acctOf d k with
  | none => d
  | some a =>
    if !mayClose d then d
    else
      match writeEnergy k a d with
      | (d, none) => d
      | (d, some ws) =>
        let d := setF d metrPg METR.ACCT_RECEIPTED (getF d metrPg METR.ACCT_RECEIPTED + a.energy)
        issueReceipt (receiptOf d k a ws) (setAcct d k none)

/-- Accounts close in order of RECEIPT_SEQ: one that cannot close yet holds those after it back (R458). -/
def closeInOrder : List Nat → Dev → Dev
  | [], d => d
  | k :: r, d =>
    let d := closeAcct k d
    if (acctOf d k).isSome then d else closeInOrder r d

/-- Terminal accounts in ascending RECEIPT_SEQ. -/
def terminalAccts (d : Dev) : List Nat :=
  ((d.accts.filterMap (fun x => match x.2 with
    | some a => if a.seq != 0 then some (a.seq, x.1) else none
    | none => none)).mergeSort (fun a b => a.1 ≤ b.1)).map (·.2)

def showAccts (d : Dev) : Dev :=
  let live := sumOf (d.accts.map (fun x => match x.2 with | some a => a.energy | none => 0))
  setFI (setF d metrPg METR.ACCT_LIVE live) metrPg METR.ACCT_RESIDUE ((d.resid.map (·.2)).foldl (fun a b => a + b) 0)

/-! ## Reconciliation (R448 to R451) -/

/-- Direct energy of every unit is booked to the accounts of the period (R447). -/
def snapAll (d : Dev) : Dev :=
  ((d.direct.map (fun x => x.1 / 8)).eraseDups).foldl (fun d u =>
    let it := if u < 4096 then (core d u).item else if u < 5000 then (floor d (u - 4096)).item else none
    snapUnit d u (it.bind (item d))) d

/-- Fixed voltage of a rail without a limiter, in mV (R376). -/
def fixedMv (r : Nat) : Nat := [900, 1800, 900, 1800].getD (r - 40) 0

/-- Direct energy of account `a` on rail `r` in the period, in µJ; what was booked to an account since closed is the idle
account's. -/
def directOf (d : Dev) (a r : Nat) : Rat :=
  let v := (d.period.filter (fun x => x.1 % 64 == r &&
    (x.1 / 64 == a || (a == idleKey && (acctOf d (x.1 / 64)).isNone)))).map (·.2)
  if r < 40 then sumRat v / ((railV0 (r / 8) * 10 ^ 11 : Nat) : Rat) else (0 : Rat)

def allDirect (d : Dev) (a : Nat) : Rat := sumRat ((List.range 40).map (directOf d a))

/-- Shared energy of a rail in the period, in µJ (R448). -/
def sharedOf (d : Dev) (r : Nat) : Rat :=
  if r < 40 then mget (0 : Rat) d.shared r
  else (((Config.fixedEst r d.freeN).toNat * fixedMv r * 10 : Nat) : Rat)

/-- Share of each account in a rail's shared energy: the idle account first, then the records rising. -/
def shareOf (d : Dev) (as : List Nat) (r : Nat) : List (Nat × Rat) :=
  let base (a : Nat) : Rat := if r < 40 then directOf d a r else allDirect d a
  let tot := sumRat (as.map base)
  let s := sharedOf d r
  as.map (fun a => (a, if tot == 0 then (if a == idleKey then s else 0) else s * base a / tot))

/-- k of R449: B ÷ E, limited to 0.75 to 1.25. -/
def limitK (b : Int) (e : Rat) : Rat :=
  let k := (b : Rat) / e
  let lo : Rat := (3 : Rat) / (4 : Rat)
  let hi : Rat := (5 : Rat) / (4 : Rat)
  if k < lo then lo else if k > hi then hi else k

/-- What is booked to each account for a rail, and R(r) after it (R449). -/
def bookRail (es : List (Nat × Rat)) (b : Int) : List (Nat × Int) × Int :=
  let e := sumRat (es.map (·.2))
  if e == 0 then ([(idleKey, b)], 0)
  else
    let k := limitK b e
    let t := (k * e).floor
    let fl := es.map (fun x => (x.1, (k * x.2).floor.toNat, k * x.2 - ((k * x.2).floor : Rat)))
    let left := t.toNat - sumOf (fl.map (·.2.1))
    let order := ((List.range fl.length).zip fl).mergeSort (fun x y => decide (x.2.2.2 > y.2.2.2) || (x.2.2.2 == y.2.2.2 && x.1 ≤ y.1))
    let more := (order.take left).map (·.2.1)
    (fl.map (fun x => (x.1, ((x.2.1 + (if more.contains x.1 then 1 else 0) : Nat) : Int))), b - t)

/-- What the transactions of a reading count on the PMB page (R408). -/
def pmbTries (eout : Eout) (d : Dev) : Dev :=
  match eout with
  | .energy n _ => count d pmbPg PMB.PEC_FAILS n
  | .noAnswer => count d pmbPg PMB.NACKS 1
  | .pecFails => count d pmbPg PMB.PEC_FAILS 3

/-- Energy measured on a rail: the difference of its regulator's accumulator, the estimate where it does not answer, and what
follows from a gap (R450). -/
def measureRail (r : Nat) (eout : Eout) (e : Rat) (d : Dev) : Dev × Int :=
  let est := e.floor.toNat
  let ok := getF d pmbPg PMB.PMB_STAT_RAILS_OK
  let d := pmbTries eout d
  match eout with
  | .noAnswer | .pecFails =>
    let d := count (setF d pmbPg PMB.PMB_STAT_RAILS_OK (if bit ok r then ok - 2 ^ r else ok)) metrPg METR.PMBUS_FAILS 1
    ({ d with gapEst := mput 0 d.gapEst r (mget 0 d.gapEst r + est), gapN := mput 0 d.gapN r (mget 0 d.gapN r + 1) }, (est : Int))
  | .energy _ v =>
    let d := count (setF d pmbPg PMB.PMB_STAT_RAILS_OK (Nat.lor ok (2 ^ r))) pmbPg PMB.PMB_READS 1
    let gap := mget 0 d.gapN r
    let used := mget 0 d.gapEst r
    let was := mget none d.eacc r
    let d := { d with eacc := mput none d.eacc r (some v), gapEst := mput 0 d.gapEst r 0, gapN := mput 0 d.gapN r 0 }
    match was with
    | none => (d, (est : Int))
    | some u =>
      if v < u then
        (bark d 0x0602 metrPg (lead d) 1 none none ([BitVec.ofNat 8 r, 0, 0, 0] ++ leBytes 4 (gap + 1)), (est : Int))
      else (d, (v : Int) - (u : Int) - (used : Int))

/-- Energy joins an account: the idle account's register, or a stream's account with its estimates. -/
def bookTo (a : Nat) (n : Int) (direct shared : Rat) (d : Dev) : Dev :=
  if a == idleKey then setFI d metrPg METR.ACCT_IDLE ((getF d metrPg METR.ACCT_IDLE : Int) + n)
  else
    match acctOf d a with
    | some x => setAcct d a (some { x with energy := x.energy + n.toNat, direct := x.direct + direct, shared := x.shared + shared })
    | none => d

/-- One rail of a reconciliation; the answer is its energy measured. `first` holds at the first reconciliation after a start,
whose energy is the idle account's (R455). -/
def reconcileRail (as : List Nat) (first : Bool) (r : Nat) (eout : Eout) (d : Dev) : Dev × Int :=
  let dir := as.map (directOf d · r)
  let sh := shareOf d as r
  let es := List.zipWith (fun x y => (y.1, x + y.2)) dir sh
  let (d, m) := measureRail r eout (sumRat (es.map (·.2))) d
  let b := m + mget (0 : Int) d.resid r
  let (books, res) := if first then ([(idleKey, b)], 0) else bookRail es b
  let d := { d with resid := mput (0 : Int) d.resid r res }
  let d := books.foldl (fun d x =>
    bookTo x.1 x.2 (((as.zip dir).find? (·.1 == x.1)).map (·.2) |>.getD 0) ((sh.find? (·.1 == x.1)).map (·.2) |>.getD 0) d) d
  let d := setFI d metrPg METR.ACCT_MEASURED ((getF d metrPg METR.ACCT_MEASURED : Int) + m)
  (setF d (railPg r) RAIL.RAIL_STAT_MEAS_W (m.toNat / 100000), m)

/-- Mean estimates of the period (R406). -/
def showEstimates (d : Dev) : Dev :=
  let d := (List.range 8).foldl (fun d k =>
    let q := quad d k
    let d := (List.range 5).foldl (fun d i =>
      setF d (railPg (railOf i k)) RAIL.RAIL_STAT_EST
        (if q.periods == 0 then 0 else (q.sum.getD i 0 / ((q.periods : Nat) : Rat)).floor.toNat)) d
    setQuad d k { q with sum := [0, 0, 0, 0, 0], periods := 0 }) d
  [40, 41, 42, 43].foldl (fun d r => setF d (railPg r) RAIL.RAIL_STAT_EST (Config.fixedEst r d.freeN).toNat) d

/-- Residues of more than 10 J. -/
def overResidue (d : Dev) : Bool := decide ((getFI d metrPg METR.ACCT_RESIDUE).natAbs > 10000000)

/-- A reconciliation: regulators are read, energy is booked, terminal accounts close, and the package is checked (R388, R449).
After a stop or in a drain the open batch closes with it (R455). -/
def reconcile (eouts : List Eout) (d : Dev) : Dev :=
  let d := showEstimates (snapAll d)
  let as := idleKey :: (d.accts.filter (fun x => x.2.isSome)).map (·.1)
  let was := overResidue d
  let ended := terminalAccts d
  let first := getF d metrPg METR.RECONCILES == 0
  let (d, w) := (List.range 44).foldl (fun s r =>
    let (d, m) := reconcileRail as first r (eouts.getD r .noAnswer) s.1
    (d, s.2 + m)) (d, (0 : Int))
  let d := { d with period := [], shared := [], freeN := d.freeN + 1, lifeUj := d.lifeUj + w.toNat }
  let d := (d.accts.map (·.1)).foldl (fun d k =>
    match acctOf d k with
    | some a => if ended.contains k then d else (writeEnergy k a d).1
    | none => d) d
  let d := showAccts (closeInOrder ended (showAccts d))
  let d := count d metrPg METR.RECONCILES 1
  let d := if overResidue d && !was then bark d 0x0601 metrPg (lead d) 1 none none (leBytes 8 (getF d metrPg METR.ACCT_RESIDUE)) else d
  let pw := w.toNat / 100000
  let d := packageCheck pw (setF d pwrPg PWR.PWR_STAT_PKG_W pw)
  let d := if d.heat.stopped || d.drain.isSome then closeBatch d else d
  rcptPump { d with drain := d.drain.map (fun x => { x with reconciled := true }) }

/-! ## After a warm reset (R455) -/

/-- Receipts of records that have ended are issued again in a new batch; the energy is not added again. -/
def reissueReceipts (d : Dev) : Dev :=
  let ks := (d.hk.filter (fun x => x.2.state == ssEnded || x.2.state == ssFailed)).map (·.1)
  let rs := (ks.map (fun k => ((hkOf d k).receipt, k))).mergeSort (fun a b => a.1 ≤ b.1)
  rs.foldl (fun d x =>
    match recRead d x.2 with
    | (d, none) => d
    | (d, some ws) =>
      let e (i : Nat) : Rat := (((Config.freeEst (d.freeN + i)).toNat : Nat) : Rat)
      let a : Acct := { Acct.init with part := rget ws 0 19 17, seq := x.1, status := rget ws 0 7 4, epoch := rget ws 0 63 32,
                                       energy := ws.getD 5 0, direct := e 0, shared := e 1 }
      issueReceipt (receiptOf d x.2 a ws) { d with freeN := d.freeN + 2 }) d

end Sys2Proof.Machine
end

