-- ==== Sys2Proof/Machine/Trust.lean ====
section
/-!
DEFINITION. Firmware images and their checks (R439, R440), the anti-rollback counter (R441), attestation reports (R444,
R445), the RNG and the keys (R437).
-/
namespace Sys2Proof.Machine

def bootPg : Nat := BOOT.page.pg 0
def kennelRecords (d : Dev) : Nat := getF d kenlPg KENL.KENL_STAT_RECORDS

/-! ## The image header (R439) -/

def hdrLevel (b : List Byte) : Nat := leAt b 8 4
def hdrLength (b : List Byte) : Nat := leAt b 12 4
def hdrSections (b : List Byte) : Nat := leAt b 16 4
def hdrVer (b : List Byte) : Nat := leAt b 4 4

/-- A section entry: KIND, OFFSET, SLEN, the reserved word and the digest. -/
structure HdrSect where
  kind : Nat
  off : Nat
  len : Nat
  rsv : Nat
  digest : List Byte
deriving DecidableEq, Repr

def hdrSect (b : List Byte) (i : Nat) : HdrSect :=
  let e := slicesOf b (64 + 80 * i) 80
  ⟨leAt e 0 4, leAt e 4 4, leAt e 8 4, leAt e 12 4, slicesOf e 16 64⟩

def sectionBytes (b : List Byte) (i : Nat) : List Byte := slicesOf b (hdrSect b i).off (hdrSect b i).len

def rootKeyN (b : List Byte) : Nat := beNat (slicesOf b 2624 512)
def rootKeyE (b : List Byte) : Nat := leAt b 3136 4

/-- Check 1: the source holds no image. -/
def imageBlank (b : List Byte) : Bool :=
  let h := (b ++ zeros 8).take 8
  h.all (· == 0) || h.all (· == 0xFF#8)

/-- Check 2: FORMAT, reserved fields, LENGTH, SECTIONS, LEVEL, and every section's KIND and place. -/
def imageHeaderOk (b : List Byte) : Bool :=
  let n := hdrSections b
  4096 ≤ b.length && leAt b 0 4 == 1 && allZero (slicesOf b 20 44) && allZero (slicesOf b 3140 444) &&
    4096 ≤ hdrLength b && hdrLength b ≤ 8388608 && hdrLength b ≤ b.length && 1 ≤ n && n ≤ 32 && hdrLevel b ≤ 64 &&
    allZero (slicesOf b (64 + 80 * n) (80 * (32 - n))) &&
    (List.range n).all (fun i =>
      let s := hdrSect b i
      1 ≤ s.kind && s.kind ≤ 3 && s.rsv == 0 && s.off + s.len ≤ hdrLength b)

/-- Check 3: the root key is the fused one, and it verifies bytes 0 to 3,583. -/
def imageSigned (lead : Nat) (b : List Byte) : Bool :=
  keyDigest (rootKeyN b) (rootKeyE b) == beBytes 64 (Config.rootDigest lead).toNat &&
    pssOk (rootKeyN b) (rootKeyE b) (b.take 3584) (slicesOf b 3584 512)

/-- Check 5: every section has the digest its entry gives. -/
def imageDigestsOk (b : List Byte) : Bool :=
  (List.range (hdrSections b)).all (fun i => sha512 (sectionBytes b i) == (hdrSect b i).digest)

/-! ## Anti-rollback (R441) -/

/-- ROLLBACK: the largest count among the dies that are up. -/
def rollbackOf (d : Dev) : Nat := (upDies d).foldl (fun m k => max m (mget 0 d.rollback k)) 0

/-- Every up die is burned up to a count. -/
def burnTo (v : Nat) (d : Dev) : Dev :=
  { d with rollback := (upDies d).foldl (fun m k => mput 0 m k (max (mget 0 m k) v)) d.rollback }

/-- VERIFY code of an image (R345, R440): 1 accepted. A die's lead checks it in the order of R440. -/
def imageCheck (d : Dev) (lead : Nat) (b : List Byte) : Nat :=
  if imageBlank b then 5
  else if !imageHeaderOk b then 4
  else if !imageSigned lead b then 2
  else if hdrLevel b < rollbackOf d then 3
  else if !imageDigestsOk b then 6
  else 1

/-- A checked image; one that fails counts in VERIFY_FAILS. -/
def verifyImage (d : Dev) (lead : Nat) (b : List Byte) : Dev × Nat :=
  let c := imageCheck d lead b
  (if c == 1 then d else count d secPg SEC.VERIFY_FAILS 1, c)

/-- ADVANCE written to SEC_XCTL (R315, R441). -/
def advanceRollback (d : Dev) : Dev × Nat :=
  let v := hdrLevel d.boot.header
  if v ≤ rollbackOf d || rollbackOf d ≥ 64 then (notNow d secPg, stNotNow) else (burnTo v d, stOk)

/-! ## The RNG and the keys (R437, R460, R461) -/

/-- Has the metering key been made in a bank of an up die? -/
def mkMade (d : Dev) : Bool := d.mkBanks.any (dieUp d)

/-- Does the RNG supply (R437)? -/
def rngReady (d : Dev) : Bool := getF d rngPg RNG.RNG_STAT_SEEDED == 1 && getF d rngPg RNG.RNG_STAT_FAILED == 0

/-- The metering key at a start: made from the RNG in the bank of an up die, and copied into an empty bank once both are up (R437). -/
def startKeys (d : Dev) : Dev :=
  let ups := [0, 7].filter (dieUp d)
  let d := match ups with
    | [] => d
    | k :: _ =>
      if d.mkBanks.isEmpty then (if rngReady d then { d with mkBanks := [k] } else d)
      else if ups.length == 2 then { d with mkBanks := [0, 7] } else d
  let eng := match ups with | [] => 3 | k :: _ => if k == 0 then 0 else 1
  let d := setF d rsaPg RSA.RSA_STAT_ENGINE eng
  let d := setF d rsaPg RSA.RSA_STAT_ID_OK (if ups.isEmpty then 0 else 1)
  setF d rsaPg RSA.RSA_STAT_MK_OK (if mkMade d then 1 else 0)

/-- A reseed of a die's generator: `health` are the failing tests, bit 0 repetition count, bit 1 adaptive proportion. A metering key
that waits for the RNG is made. -/
def rngReseed (k : Nat) (health : BitVec 2) (d : Dev) : Dev :=
  if health == 0 then
    let d := count (setF (setF d rngPg RNG.RNG_STAT_FAILED 0) rngPg RNG.RNG_STAT_SEEDED 1) rngPg RNG.RESEEDS 1
    if getF d bootPg BOOT.BOOT_STAT_PHASE == 9 && d.mkBanks.isEmpty then startKeys d else d
  else
    let d := count (setF d rngPg RNG.RNG_STAT_FAILED 1) rngPg RNG.HEALTH_FAILS 1
    bark d 0x1301 rngPg k 2 none none [BitVec.ofNat 8 k, if health.getLsbD 0 then 1 else 2]

/-! ## Attestation reports (R444, R445) -/

def keyBlock (n : BitVec 4096) : List Byte := octets n ++ leBytes 4 keyExp ++ zeros 4

/-- Thermal cycles of the module: those of the zone that has most. -/
def lifeCycles (d : Dev) : Nat := (List.range 40).foldl (fun m z => max m (getF d (zonPg z) TZON.CYCLES)) 0
def lifeJoules (d : Dev) : Nat := d.lifeUj / 1000000

/-- PLAN_DIGEST, zero with no plan. -/
def planDigest (d : Dev) (p : Nat) : List Byte :=
  (List.range 8).flatMap (fun i => leBytes 8 (if planLoaded d p then getF d (partPg p) (PART.PLAN_DIGEST.at i) else 0))

/-- Bytes 0 to 1,919 of a report, sampled at one instant. -/
def reportBytes (d : Dev) : List Byte :=
  let k := lead d
  leBytes 4 1 ++ leBytes 4 2432 ++ leBytes 8 (getF d secPg SEC.ATT_NONCE) ++ leBytes 2 (Config.partCode d.kind) ++
    [Config.revision, BitVec.ofNat 8 (getF d secPg SEC.SEC_STAT_SLOT)] ++ leBytes 4 (getF d secPg SEC.SEC_STAT_FW_VER) ++
    [BitVec.ofNat 8 (hdrLevel d.boot.header), BitVec.ofNat 8 (rollbackOf d), 0, 0] ++ leBytes 4 d.series ++
    leBytes 6 (stampOf d k) ++ [BitVec.ofNat 8 k, 0] ++ leBytes 8 (powered d k) ++ leBytes 4 (noteIdx d) ++ zeros 12 ++
    keyBlock Config.idModulus ++ (if d.mkBanks.isEmpty then zeros 520 else keyBlock Config.mkModulus) ++ sha512 (d.boot.header.take 3584) ++
    (List.range 8).flatMap (fun p =>
      leBytes 4 (getF d (partPg p) PART.PART_STAT_REGIONS) ++ leBytes 4 (getF d (partPg p) PART.MAP_EPOCH_EPOCH) ++
        [BitVec.ofNat 8 (partState d p)] ++ zeros 7 ++ planDigest d p) ++
    leBytes 2 (getF d lifePg LIFE.LIFE_PRED_DAYS) ++ leBytes 2 (getF d lifePg LIFE.LIFE_PRED_LOW) ++
    leBytes 2 (getF d lifePg LIFE.LIFE_PRED_HIGH) ++ [BitVec.ofNat 8 (getF d lifePg LIFE.LIFE_STAT_WEAKEST), 0] ++
    leBytes 8 (lifeCycles d) ++ leBytes 8 (lifeJoules d) ++ leBytes 4 (kennelRecords d) ++ zeros 84

/-- ATTEST written to ATT_CMD. -/
def attest (d : Dev) : Dev × Nat :=
  if getF d secPg SEC.ATT_STAT_BUSY == 1 then (notNow d secPg, stNotNow)
  else if !canSign d false then (setF d secPg SEC.ATT_STAT_STATUS stNotNow, stOk)
  else (setF { d with report := some (reportBytes d) } secPg SEC.ATT_STAT_BUSY 1, stOk)

/-- A structure goes to host memory in writes that stay within 256 bytes. -/
def hostWriteAll (who : Nat) : Nat → Nat → List Byte → Dev → Dev
  | 0, _, _, d => d
  | f + 1, a, bs, d =>
    if bs.isEmpty then d
    else
      let n := min bs.length (256 - a % 256)
      hostWriteAll who f (a + n) (bs.drop n) (devWrite d true who secPg a (bs.take n))

/-- The identity key has signed the report; roots go first (R438). -/
def reportSigned (d : Dev) : Dev :=
  match d.report with
  | none => d
  | some bs =>
    if !canSign d false || !d.batches.isEmpty then d
    else
      let sig := octets (Config.signature false bs d.freeN)
      let d := count { d with freeN := d.freeN + 1, report := none } rsaPg RSA.SIGN_ATTEST 1
      let d := setF (count d secPg SEC.SIGNATURES 1) secPg SEC.ATT_STAT_BUSY 0
      if portUp d 0 || portUp d 1 then
        let d := hostWriteAll sysWho 11 (getF d secPg SEC.ATT_ADDR) (bs ++ sig) d
        setF (count d secPg SEC.ATTESTS 1) secPg SEC.ATT_STAT_STATUS stOk
      else setF d secPg SEC.ATT_STAT_STATUS stLink

end Sys2Proof.Machine
end

