-- ==== Sys2Proof/Machine/Restart.lean ====
section
/-!
DEFINITION. The package cold and warm resets as changes of state: what flash, fuses and the kept stores carry over, and the
dies leaving reset (R166, R317, R318, R351, R366, R427, R455, R473).
-/
namespace Sys2Proof.Machine

/-- Bits `hi:lo`, as a mask. -/
def maskOf (hi lo : Nat) : Word64 := BitVec.ofNat 64 (2 ^ (hi + 1) - 2 ^ lo)

/-- Bits of a register that flash, log, fuse latches or straps keep through every reset (R345, R346, R399, R402, R419, R427,
R433, R467). -/
def flashMask (code off : Nat) : Word64 :=
  let all := maskOf 63 0
  match code with
  | 0x08 => if off == 0x100 || off == 0x108 then all else 0
  | 0x09 => if off == 0x040 || (0x808 ≤ off && off ≤ 0x818) then all else 0
  | 0x0A => if off == 0x100 then maskOf 50 32 else 0
  | 0x0B => if off == 0x100 then all else 0
  | 0x0D => if off == 0x100 then all else 0
  | 0x14 => if 0xC40 ≤ off && off < 0xC80 then all else 0
  | 0x18 => if off == 0x100 then all else 0
  | 0x1B => if off == 0x100 then maskOf 14 12 else if off == 0x108 then maskOf 31 24 else 0
  | 0x21 => if off == 0x818 then all else 0
  | 0x2C => if off == 0x100 then maskOf 18 16 else 0
  | _ => 0

/-- Bits that a package warm reset keeps beside those; `kept` holds where a thermal stop outlasts it, and `anew` where that is an emergency
drain which came after its request (R398, R401, R410, R166, R262, R302, R307, R313, R351, R371, R434, R455, R481). -/
def warmMask (kept anew : Bool) (code off : Nat) : Word64 :=
  let all := maskOf 63 0
  match code with
  | 0x01 => if off == 0x048 || off == 0x808 then all else 0
  | 0x03 => if off == 0x828 then all else if off == 0x100 then (if anew then maskOf 6 5 else maskOf 6 6) else 0
  | 0x06 => if 0x108 ≤ off && off ≤ 0x130 then all else 0
  | 0x0B => if off == 0x808 then all else 0
  | 0x10 => if off == 0x100 then all else 0
  | 0x16 => if off == 0x100 && kept then all else 0
  | 0x17 => if off == 0x040 then all else 0
  | 0x19 => if off == 0x120 then all else 0
  | 0x1A => if off == 0x110 || (0x838 ≤ off && off ≤ 0x858) then all else 0
  | 0x1E => if off == 0x108 then all else 0
  | 0x23 => if off == 0x840 then all else 0
  | 0x2C => if off == 0x100 then maskOf 63 63 ||| maskOf 15 0 else 0
  | _ => 0

/-- Has a thermal stop come after the request of the package reset that runs (R401)? -/
def stopAnew (d : Dev) : Bool := d.heat.stopped && d.drain.any (fun x => !x.leaves)

/-- Does a thermal stop outlast the package warm reset that runs? A hardware trip does, and so does an emergency drain that the reset met
(R398, R401). -/
def stopOutlasts (d : Dev) : Bool := getF d thmPg THM.THM_STAT_TRIPPED == 1 || stopAnew d

/-- The registers after a reset: the kept bits, and the others at their reset values. -/
def keptRegs (warm : Bool) (d : Dev) : Map Word64 :=
  let kept := stopOutlasts d
  let anew := stopAnew d
  d.regs.filterMap (fun x =>
    let pg := x.1 / 512
    let off := x.1 % 512 * 8
    let code := ((pageTypeOf pg).map (·.code)).getD 0
    let m := flashMask code off ||| (if warm then warmMask kept anew code off else 0)
    let r := resetWord d.kind pg off
    let v := (x.2 &&& m) ||| (r &&& ~~~m)
    if v = r then none else some (x.1, v))

/-- A sensor keeps its mark; its pair must be compared again. -/
def keptSensor (s : Sensor) : Sensor := { s with failed := false, apart := false }
def keptSens (m : Map Sensor) : Map Sensor :=
  (m.map (fun x => (x.1, keptSensor x.2))).filter (fun x => x.2 != Sensor.init)

/-- The floor's stores through a package reset: they keep what they hold until the next plan load (R202). -/
def keptFloor (f : Floor) : Floor :=
  { Floor.init with seq := f.seq, loaded := f.loaded, slots := f.slots, masks := f.masks, work := f.work, acc := f.acc }

/-- A tower through a package cold reset: its memory is lost, a clock bond that has failed stays so (R26). -/
def coldTower (x : Tower) : Tower := { Tower.init with floor := keptFloor x.floor, clockBad := x.clockBad }

/-- The towers' states after `f`, listed where they differ from an empty tower. -/
def mapTowers (f : Tower → Tower) (m : Map Tower) : Map Tower := (m.map (fun x => (x.1, f x.2))).filter (fun x => x.2 != Tower.init)

/-- Everything at package cold reset: flash, fuses, metering-key banks, and the trip latch on VAUX are kept (R366, R437, R472). -/
def coldState (cause : Nat) (d : Dev) : Dev :=
  { Dev.init d.kind with
    regs := keptRegs false d, towers := mapTowers coldTower d.towers, freeN := d.freeN, kenl := d.kenl, fieldFuse := d.fieldFuse, log := d.log, saved := d.saved,
    fuseMaps := d.fuseMaps, sens := keptSens d.sens, series := d.series, slots := d.slots, rollback := d.rollback,
    mkBanks := d.mkBanks, thermtrip := d.thermtrip, smb := d.smb, ticks := d.ticks, notes := d.notes, ageing := d.ageing,
    lifeUj := d.lifeUj, wearBarked := d.wearBarked, erases := d.erases, boot := { Boot.init with cause := cause } }

/-- A tower through a package warm reset: layers, page map, block bitmap, lists of frames and a sweep stand (R166). -/
def warmTower (x : Tower) : Tower :=
  { Tower.init with
    words := x.words, ebits := x.ebits, map := x.map, retired := x.retired, badAtBuild := x.badAtBuild,
    suspect := x.suspect, corr := x.corr, cols := (x.cols.filter (fun c => c.2.failed)).map (fun c => (c.1, ⟨0, [], true⟩)),
    sweep := x.sweep, sweepDue := x.sweepDue, floor := keptFloor x.floor, clockBad := x.clockBad }

/-- What a port keeps through a package warm reset: its lanes as measured, and AGREED, which only a cold reset or a fresh training sets back
(R270, R273, log entry 112). -/
def keptPort (n : Narta) : Narta :=
  { Narta.init with usable := n.usable, failed := n.failed, agreed := n.agreed, reversed := n.reversed, inverted := n.inverted, tid := n.tid }

/-- Everything after the drain of a package warm reset. -/
def warmState (cause : Nat) (d : Dev) : Dev :=
  { coldState cause d with
    regs := keptRegs true d,
    towers := mapTowers warmTower d.towers,
    narta := (d.narta.map (fun x => (x.1, keptPort x.2))).filter (fun x => x.2 != Narta.init),
    hk := (d.hk.map (fun x => (x.1, { x.2 with busy := false }))).filter (fun x => x.2 != HkRec.free),
    accts := d.accts, resid := d.resid, eacc := d.eacc, gapEst := d.gapEst, gapN := d.gapN, alertPin := d.alertPin,
    heat := { Heat.init with stopped := stopOutlasts d },
    jtag := d.jtag, boot := { Boot.init with cause := cause, warm := true, ticks := d.boot.ticks } }

/-- A restart without a drain: powered seconds, ENERGY_J and thermal cycles fall back to the last summary (R427). -/
def lastTotals (d : Dev) : Dev :=
  let field (r : Option (BitVec 512)) (lo n : Nat) : Nat := (r.map (fun r => leNat ((recBytes r |>.drop lo).take n))).getD 0
  let sec := latestRec d.log 1 0
  let tot := latestRec d.log 1 1
  let d := { d with
    ticks := (List.range 8).foldl (fun m k => mput 0 m k (field sec (24 + 4 * k) 4 * 10 ^ 8)) [],
    lifeUj := field tot 24 8 * 1000000 }
  (List.range 40).foldl (fun d z => setF d (zonPg z) TZON.CYCLES (field (latestRec d.log 10 (z / 8)) (24 + 4 * (z % 8)) 4)) d

/-- A package cold reset that a pin starts: at once, with no drain (R366). A device already held in reset keeps the cause that
was latched when the reset began (R425). -/
def pinReset (cause : Nat) (d : Dev) : Dev := if d.boot.reset then d else coldState cause (lastTotals d)

/-! ## The dies leave reset (R317, R318, R465) -/

def stewPg (k s : Nat) : Nat := STEW.page.pg (2 * k + s)
def dbgPg (k : Nat) : Nat := DBG.page.pg k

/-- The rails that do not follow the point stand at their fixed voltages, in mV (R376). -/
def fixedVolts (d : Dev) : Dev :=
  let set (d : Dev) (r v : Nat) : Dev := setF d (railPg r) RAIL.RAIL_STAT_VOUT v
  let d := (List.range 8).foldl (fun d k => set (set (set d (8 + k) 800) (24 + k) 1100) (32 + k) 2500) d
  set (set (set (set d 40 900) 41 1800) 42 900) 43 1800

/-- Each die locks its root PLL at OP7, runs on the boot voltage, and starts its boot ROM on steward 0. Every regulator is taken to answer
(R408, log entry 65). -/
def bootDies (d : Dev) : Dev :=
  let d := setF { d with boot := { d.boot with reset := false, on := true } } pmbPg PMB.PMB_STAT_RAILS_OK (2 ^ 44 - 1)
  (List.range 8).foldl (fun d k =>
    let d := setF (setF d (clkPg k) CLK.CLK_VOLT_VDD_A 680) (clkPg k) CLK.CLK_VOLT_VDD_M 680
    let d := setF (setF d (railPg k) RAIL.RAIL_STAT_VOUT 680) (railPg (16 + k)) RAIL.RAIL_STAT_VOUT 680
    let d := setF d (stewPg k 0) STEW.STEW_STAT_STATE 1
    setF d (diePg k) DIE.DIE_STAT_STATE 1) (fixedVolts d)

/-- Reset, power-good and reference let the device start (R317). -/
def deviceStart (d : Dev) : Dev := if d.boot.reset then bootDies d else d

end Sys2Proof.Machine
end

