-- ==== Sys2Proof/Machine/Election.lean ====
section
/-!
DEFINITION. Die checks, the election of the lead steward, and the loss of stewards (R319 to R322, R336, R350).
-/
namespace Sys2Proof.Machine

def bootDie (d : Dev) (k : Nat) : BootDie := mget BootDie.init d.boot.dies k
def setBootDie (d : Dev) (k : Nat) (x : BootDie) : Dev :=
  { d with boot := { d.boot with dies := mput BootDie.init d.boot.dies k x } }
def bootPhase (d : Dev) : Nat := getF d bootPg BOOT.BOOT_STAT_PHASE
def setPhase (d : Dev) (p : Nat) : Dev := setF d bootPg BOOT.BOOT_STAT_PHASE p

/-- A steward that passes its self-test and that neither fuses nor kennel name bad (R335). -/
def stewardGood (d : Dev) (k s : Nat) : Bool :=
  bit (getF d (dbgPg k) DBG.DBG_CHECK) (1 + s) && !(badEntries d).contains (entSteward k s)

/-- May a die use its fuse copies, of which bits 4 and 5 of `c` tell whether A and B pass (R336)? -/
def fusesUsable (d : Dev) (k c : Nat) : Bool := if bit c 4 && bit c 5 then fusesAgree d k else bit c 4 || bit c 5

/-- The die checks with CHK_MATCH as the copies themselves give it: both pass and are equal (R319). -/
def withMatch (d : Dev) (k c : Nat) : Nat :=
  c % 64 + c / 128 * 128 + (if bit c 4 && bit c 5 && fuseCopy d k 0 == fuseCopy d k 1 then 64 else 0)

/-- The die checks of a die, recorded in its DBG, FUSE, STEW and DIE pages (R319, R336). A die that no fuse copy serves is test-only, with one
steward or with two (R336, log entry 117). -/
def dieChecks (k : Nat) (passed : BitVec 8) (d : Dev) : Dev :=
  if d.boot.reset || !d.boot.on || bootPhase d > 1 || (bootDie d k).closed then d
  else
    let c := withMatch d k passed.toNat
    let d := setF d (dbgPg k) DBG.DBG_CHECK c
    let fuses := fusesUsable d k c
    let f := fusePg k
    let d := setF (setF (setF d f FUSE.FUSE_STAT_COPY_A_OK (bit c 4).toNat) f FUSE.FUSE_STAT_COPY_B_OK (bit c 5).toNat) f
      FUSE.FUSE_STAT_MATCH (bit c 6).toNat
    let alone := getF d (dbgPg k) DBG.DBG_MODE_STANDALONE == 1
    let st := stewardGood d k 0 || stewardGood d k 1
    let body := bit c 0 && bit c 3 && bit c 7 && st && !alone
    let d := [0, 1].foldl (fun d s => setF d (stewPg k s) STEW.STEW_STAT_STATE (if stewardGood d k s then 1 else 3)) d
    let d := setBootDie d k { BootDie.init with healthy := body && fuses }
    let d := setF d (diePg k) DIE.DIE_STAT_STATE (if !body then 0 else if fuses then 1 else 3)
    if bit c 4 && bit c 5 && bit c 6 then d
    else bark d 0x1C01 f k 2 none none [BitVec.ofNat 8 k, BitVec.ofNat 8 (c / 16)]

/-- Acting steward of a die (R320). -/
def actingOf (d : Dev) (k : Nat) : Nat := if stewardGood d k 0 then 0 else 1

/-- Trunk station of a die's acting steward (R141). -/
def stewardStation (d : Dev) (k : Nat) : Nat := stationAt 32 7 (32 + 2 * k + actingOf d k)

/-- A steward message between dies has arrived and waits for its acknowledge (R143, R321). -/
def stewardTells (d : Dev) (src dst : Nat) : Dev := wServed d (stewardStation d src) (stewardStation d dst) wtSteward

/-- READY of one die reaches another before that closes its set S (R321). -/
def ready (src dst : Nat) (d : Dev) : Dev :=
  let x := bootDie d dst
  if d.boot.lead.isSome || !(bootDie d src).healthy || !x.healthy || x.closed || src == dst then d
  else setBootDie (stewardTells d src dst) dst { x with s := (x.s ++ [src]).eraseDups }

/-- A die closes its set S: its own number and those of every READY received. -/
def electionClose (k : Nat) (d : Dev) : Dev :=
  let x := bootDie d k
  if d.boot.reset || !d.boot.on || !x.healthy || x.closed then d
  else setPhase (setBootDie d k { x with closed := true, s := (k :: x.s).eraseDups }) 1

/-- The candidate of a die: the lowest of its S. -/
def candidateOf (x : BootDie) : Option Nat := x.s.foldl (fun m k => match m with | none => some k | some j => some (min j k)) none

/-- Is a die a candidate that has not withdrawn? -/
def stands (d : Dev) (k : Nat) : Bool :=
  let x := bootDie d k
  x.healthy && x.closed && candidateOf x == some k && x.withdrew.isNone

def electing (d : Dev) : Bool := bootPhase d == 1 && d.boot.lead.isNone && d.boot.round < 8

/-- LEAD of a candidate reaches a die of its S: the die accepts the first it receives from a die of its own S. A candidate
has accepted itself when it sends. -/
def leadMsg (src dst : Nat) (d : Dev) : Dev :=
  if !electing d || !stands d src || src == dst || !(bootDie d src).s.contains dst then d
  else
    let y := bootDie d src
    let d := setBootDie d src { y with accepted := y.accepted.or (some src) }
    let x := bootDie d dst
    if !x.closed || !x.s.contains src then d
    else setBootDie (stewardTells d src dst) dst { x with leads := (x.leads ++ [src]).eraseDups, accepted := x.accepted.or (some src) }

/-- A candidate that receives a REFUSE withdraws for the named die. -/
def refuseMsg (src dst named : Nat) (d : Dev) : Dev :=
  if !electing d || !stands d dst || (bootDie d src).accepted != some named || named == dst then d
  else setBootDie (stewardTells d src dst) dst { bootDie d dst with withdrew := some named }

/-- ACCEPT, or the ACCEPT of a withdrawal, reaches the die it names. -/
def acceptMsg (src dst : Nat) (d : Dev) : Dev :=
  let x := bootDie d src
  if !electing d || src == dst || !(x.accepted == some dst || x.withdrew == some dst) then d
  else setBootDie (stewardTells d src dst) dst { bootDie d dst with accepts := ((bootDie d dst).accepts ++ [src]).eraseDups }

/-- Sources of firmware in the order of R323. -/
def firmwareSources (d : Dev) : List Nat :=
  let p := getF d bootPg BOOT.BOOT_CFG_SLOT_PREF
  if getF d bootPg BOOT.BOOT_CFG_HOST_NEXT == 1 then [2, p, 1 - p] else [p, 1 - p, 2]

/-- Firmware reads the part from the lead's fuses (R343): every register whose reset value the part fuses follows it. -/
def takePart (p : Part) (d : Dev) : Dev :=
  if p = d.kind then d
  else
    { d with kind := p,
             regs := d.regs.map (fun x =>
               (x.1, x.2 ^^^ (resetWord d.kind (x.1 / 512) (x.1 % 512 * 8) ^^^ resetWord p (x.1 / 512) (x.1 % 512 * 8)))) }

/-- A candidate leads: the dies it holds are up, CHK_PART is set, stewards take their roles (R319, R320, R350). -/
def takeLead (c : Nat) (d : Dev) : Dev :=
  let took := fun (k : Nat) => k == c || (bootDie d c).accepts.contains k
  let d := takePart (diePart d c) d
  let d := setF { d with boot := { d.boot with lead := some c, sources := firmwareSources d,
                                               hostNext := getF d bootPg BOOT.BOOT_CFG_HOST_NEXT == 1 } } pkgPg PKG.PKG_INFO_LEAD c
  let d := (List.range 8).foldl (fun d k =>
    let same := diePart d k == diePart d c
    let chk := getF d (dbgPg k) DBG.DBG_CHECK
    let d := if took k && same then setF d (dbgPg k) DBG.DBG_CHECK (chk + 256) else d
    let d := setF d (fusePg k) FUSE.FUSE_STAT_PART_MATCH (if took k && same then 1 else 0)
    if took k && same then
      let up := (List.range 2).foldl (fun m s => if stewardGood d k s then m + 2 ^ s else m) 0
      let d := setF (setF d (diePg k) DIE.DIE_STAT_STEWARDS up) pkgPg PKG.PKG_INFO_DIES_UP
        (getF d pkgPg PKG.PKG_INFO_DIES_UP + 2 ^ k)
      let a := actingOf d k
      let d := setF d (stewPg k a) STEW.STEW_STAT_ROLE (if k == c then 1 else 2)
      if stewardGood d k (1 - a) then setF d (stewPg k (1 - a)) STEW.STEW_STAT_ROLE 3 else d
    else setF d (diePg k) DIE.DIE_STAT_STATE (if took k || getF d (diePg k) DIE.DIE_STAT_STATE == 3 then 3 else 0)) d
  let d := setPhase d 2
  if c == 0 then d else bark d 0x0902 bootPg c 1 none none [BitVec.ofNat 8 c, BitVec.ofNat 8 (actingOf d c)]

/-- A round of the election ends (R321). -/
def electionRoundEnd (d : Dev) : Dev :=
  if !electing d then d
  else
    let won := (List.range 8).find? (fun c =>
      stands d c && (bootDie d c).s.all (fun k => k == c || (bootDie d c).accepts.contains k))
    match won with
    | some c => takeLead c d
    | none =>
      let d := (List.range 8).foldl (fun d k =>
        let x := bootDie d k
        match candidateOf x with
        | some c =>
          if x.closed && c != k && !x.leads.contains c then setBootDie d k { x with s := x.s.filter (· != c), leads := [] }
          else setBootDie d k { x with leads := [] }
        | none => d) d
      { d with boot := { d.boot with round := d.boot.round + 1 } }

/-! ## Stewards that fail (R322) -/

/-- A die goes down after the election; the lowest die that is up takes the lead from it. -/
def dieDown (k : Nat) (d : Dev) : Dev :=
  let up := getF d pkgPg PKG.PKG_INFO_DIES_UP
  let d := if bit up k then setF d pkgPg PKG.PKG_INFO_DIES_UP (up - 2 ^ k) else d
  let d := setF (setF d (diePg k) DIE.DIE_STAT_STATE 0) (diePg k) DIE.DIE_STAT_STEWARDS 0
  let d := [0, 1].foldl (fun d s => setF d (stewPg k s) STEW.STEW_STAT_ROLE 0) d
  if d.boot.lead != some k then d
  else
    match (upDies d).head? with
    | none => { d with boot := { d.boot with lead := none } }
    | some j =>
      let s := if bit (getF d (diePg j) DIE.DIE_STAT_STEWARDS) 0 then 0 else 1
      let d := setF { d with boot := { d.boot with lead := some j } } pkgPg PKG.PKG_INFO_LEAD j
      let d := setF d (stewPg j s) STEW.STEW_STAT_ROLE 1
      bark d 0x0902 bootPg j 1 none none [BitVec.ofNat 8 j, BitVec.ofNat 8 s]

/-- A steward of a die that is up fails: the other takes over, or the die's units fail. -/
def stewardFails (k s : Nat) (d : Dev) : Dev :=
  let up := getF d (diePg k) DIE.DIE_STAT_STEWARDS
  if !dieUp d k || !bit up s then d
  else
    let role := getF d (stewPg k s) STEW.STEW_STAT_ROLE
    let d := setF d (diePg k) DIE.DIE_STAT_STEWARDS (up - 2 ^ s)
    let d := setF (setF d (stewPg k s) STEW.STEW_STAT_STATE 3) (stewPg k s) STEW.STEW_STAT_ROLE 0
    if bit up (1 - s) then
      if role == 3 then d
      else
        let d := setF d (stewPg k (1 - s)) STEW.STEW_STAT_ROLE role
        if role == 1 then bark d 0x0902 bootPg k 1 none none [BitVec.ofNat 8 k, BitVec.ofNat 8 (1 - s)] else d
    else
      let d := dieDown k d
      let d := if bootPhase d == 9 then muzzleDie k 7 d else d
      if getF d pkgPg PKG.PKG_INFO_PSTATE == 1 then setF d pkgPg PKG.PKG_INFO_PSTATE 2 else d

end Sys2Proof.Machine
end

