-- ==== Sys2Proof/Machine/NartaTrain.lean ====
section
/-!
DEFINITION. Training, width and failure of the Narta ports (R270 to R275, R309).
-/
namespace Sys2Proof.Machine

/-- Fields of a training record (R271). -/
def trKind (r : Word64) : Nat := bits r.toNat 63 60
def trMask (r : Word64) : BitVec 16 := BitVec.ofNat 16 (bits r.toNat 55 40)
def trFull (r : Word64) : Bool := bit r.toNat 39

/-- Is a record whole: its TKIND, no reserved bit, credits of at least 1 (R271)? -/
def recordOk (kind : Nat) (r : Word64) : Bool :=
  let w := r.toNat
  trKind r == kind &&
    (if kind == 1 then bits w 55 0 == 0
     else if kind == 2 then bits w 47 0 == 0
     else if kind == 5 then bits w 28 0 == 0 && bits w 55 47 != 0 && bits w 46 38 != 0
     else bits w 30 0 == 0)

/-- The width chosen from a mask (R272): its code and its lanes; none where no width is covered. -/
def chooseWidth (m : BitVec 16) : Option (Nat × BitVec 16) :=
  let covers (g : BitVec 16) : Bool := m &&& g == g
  if m == 0xFFFF#16 then some (0, 0xFFFF#16)
  else if covers 0x00FF#16 then some (1, 0x00FF#16)
  else if covers 0xFF00#16 then some (1, 0xFF00#16)
  else ([0x000F#16, 0x00F0#16, 0x0F00#16, 0xF000#16].find? covers).map (fun g => (2, g))

/-- Key of a port's saved-settings record (R328). -/
def nartaKey (h : Nat) : Nat := 7000 + h

/-- The settings that a port saves: the preset of each lane's transmitter. -/
def portSettings (n : Narta) : Link := { Link.init with centre := (List.range 16).map (fun k => BitVec.ofNat 16 (mget 0 n.presets k)) }

/-- The Agree phase begins again. -/
def agreeFresh (n : Narta) : Narta := { n with phase := .agree, sentAdv := none, farAdv := none, conf := none }

/-- A training of the port starts at Detect; a fresh one sets FULL (R270, R273). -/
def trainPort (d : Dev) (h : Nat) (kind : TrainKind) : Dev :=
  let n := narta d h
  let full := kind == .fresh
  let kept := (d.saved.find? (fun x => x.1 == nartaKey h)).map (fun x => (x.2.centre.map (·.toNat)))
  let n := match kind, kept with
    | .saved, some ps => { n with presets := ((List.range 16).zip ps).filter (fun x => x.2 != 0) }
    | _, _ => n
  let n := { n with phase := .detect, kind := kind, full := full, tid := (n.tid + 1) % 256, sentAdv := none, farAdv := none,
                    farFull := false, conf := none, restarts := 0, overrun := [], told := false }
  portState (setNarta d h n) h psTraining

/-- A port in service stops for a fresh training, its traffic moving to the other port (R290). -/
def trainFresh (d : Dev) (h : Nat) : Dev :=
  trainPort (if portUp d h then stopPort d h psTraining false else d) h .fresh

/-- A width retrain runs the Agree phase on the current lanes (R274). -/
def widthRetrain (d : Dev) (h : Nat) : Dev :=
  let n := agreeFresh (narta d h)
  portState (setNarta d h { n with kind := .width, full := false, tid := (n.tid + 1) % 256, restarts := 0, told := false }) h psWidth

def inTraining (n : Narta) : Bool := n.st == psTraining || n.st == psWidth

/-- NARTA_DETECT_LOCK: the receiver locks and corrects polarity. -/
def nartaLock (h : Nat) (inverted : BitVec 16) (d : Dev) : Dev :=
  let n := narta d h
  if n.st == psTraining && n.phase == .detect then setNarta d h { n with phase := .lane, inverted := inverted } else d

/-- LANE of a record: the logical lane on which the far end sends it (R271). -/
def trLane (r : Word64) : Nat := bits r.toNat 59 56

/-- TID of an ADV or CONF record. -/
def trTid (r : Word64) : Nat := bits r.toNat 38 31

/-- A LANE record that arrives on a physical lane: its LANE shows the order straight or reversed (R270). Any other LANE is not accepted. -/
def nartaLaneRec (h : Nat) (r : Word64) (lane : Nat) (d : Dev) : Dev :=
  let n := narta d h
  let straight := trLane r == lane
  if n.st == psTraining && n.phase == .lane && recordOk 1 r && (straight || trLane r + lane == 15) then
    setNarta d h { n with reversed := !straight, phase := if n.kind == .fresh then .equalise else .agree }
  else d

/-- An EQ record: the preset the far end asks of this end's transmitter on the lane it names, 0 to 10. The first shows that the lanes carry records;
more may come until this end has sent its ADV (log entry 115). -/
def nartaEqRec (h : Nat) (r : Word64) (d : Dev) : Dev :=
  let n := narta d h
  let p := bits r.toNat 55 52
  let open_ := n.phase == .equalise || (n.phase == .agree && n.kind == .fresh && n.sentAdv.isNone)
  if n.st == psTraining && open_ && recordOk 2 r && p ≤ 10 then
    setNarta d h { n with presets := mput 0 n.presets (trLane r) p, phase := .agree }
  else d

/-- This end's ADV mask (R273). -/
def ownMask (n : Narta) (measured : BitVec 16) : BitVec 16 :=
  if n.full && n.farFull then measured
  else if n.kind == .fresh then measured &&& n.agreed
  else n.usable &&& ~~~n.failed &&& n.agreed

/-- Lanes that a fresh training finds usable again are logged (R425). -/
def lanesBack (d : Dev) (h : Nat) (m : BitVec 16) : Dev :=
  let n := narta d h
  let d := ((List.range 16).filter (fun l => n.failed.getLsbD l && m.getLsbD l)).foldl
    (fun d l => life d 8 0 [BitVec.ofNat 8 (3 + h), 2, BitVec.ofNat 8 l]) d
  setNarta d h { narta d h with failed := 0 }

def barkWidth (d : Dev) (h : Nat) (own adopted : BitVec 16) : Dev :=
  bark d 0x1702 (hlkPg h) (portDie h) 1 none none
    ([BitVec.ofNat 8 h, 0] ++ leBytes 2 own.toNat ++ leBytes 2 adopted.toNat)

/-- The far end began the training: its TID stands (R271). -/
def farStarts (h : Nat) (r : Word64) (d : Dev) : Dev := setNarta d h { narta d h with tid := trTid r }

/-- An ADV record (R272, R273): with both masks known the adopted mask and the width follow, and CONF is sent. -/
def nartaAdvRec (h : Nat) (r : Word64) (measured : BitVec 16) (d : Dev) : Dev :=
  let n := narta d h
  if !recordOk 3 r then d
  else if n.st == psUp && !trFull r then nartaAgree h r measured (farStarts h r (widthRetrain d h))
  else if trFull r && (portUp d h || (n.st == psTraining && n.kind != .fresh)) then farStarts h r (trainFresh d h)
  else nartaAgree h r measured d
where
  /-- The Agree phase takes the far end's ADV. -/
  nartaAgree (h : Nat) (r : Word64) (measured : BitVec 16) (d : Dev) : Dev :=
    let n := narta d h
    if !(inTraining n && n.phase == .agree && n.conf.isNone) then d
    else
      let n := { n with farAdv := some (trMask r), farFull := trFull r, farTid := trTid r }
      let own := ownMask n measured
      let agreed := if n.full && n.farFull then 0xFFFF#16 else n.agreed
      let usable := if n.kind == .fresh then measured else n.usable
      let d := setNarta d h { n with sentAdv := some own, usable := usable, agreed := agreed }
      let d := if n.kind == .fresh then lanesBack d h measured else d
      let m := own &&& trMask r
      let d := if own &&& ~~~m != 0 && !n.told then
        barkWidth (setNarta d h { narta d h with told := true }) h own m else d
      match chooseWidth m with
      | none => failPort d h psFailed
      | some _ => setNarta d h { narta d h with conf := some m }

/-- A CONF record (R272): a match completes the Agree phase, a difference restarts it, and the fourth restart fails the port. One of a training
that neither end is in, by its TID, is not accepted (log entry 115). -/
def nartaConfRec (h : Nat) (r : Word64) (d : Dev) : Dev :=
  let n := narta d h
  match n.conf with
  | none => d
  | some m =>
    if !(inTraining n && n.phase == .agree && recordOk 4 r && (trTid r == n.tid || trTid r == n.farTid)) then d
    else if trMask r != m then
      if n.restarts ≥ 3 then failPort d h psFailed
      else setNarta d h { agreeFresh n with restarts := n.restarts + 1 }
    else
      let (w, ls) := (chooseWidth m).getD (3, 0)
      let n := { n with agreed := m, width := w, lanes := ls, conf := none }
      if n.st == psWidth then
        portState (setNarta d h { n with resend := !n.flits.isEmpty }) h psUp
      else setNarta d h { n with phase := .start }

/-- A START record (R270, R283): sequence numbers, windows and credits restart, and the port is up. -/
def nartaStartRec (h : Nat) (r : Word64) (d : Dev) : Dev :=
  let n := narta d h
  if n.st == psTraining && n.phase == .start && recordOk 5 r then
    let p := bits r.toNat 55 47
    let q := bits r.toNat 46 38
    let c := bits r.toNat 37 29
    let n := { n with txNext := 0, unacked := [], flits := [], resend := false, lastNak := none, expect := 0, ackSent := 0, nak := false,
                      part := [], partSeq := 0, hold := [], owedP := 0, owedN := 0, creditFrom := n.arrivals, code := TxCode.init,
                      advP := p, advN := q, advC := c, heldP := p, heldN := q, heldC := c, overrun := [] }
    let d := portComesUp (setNarta d h n) h
    if n.kind == .fresh then saveSettings d (nartaKey h) (portSettings n) else d
  else d

/-- FULL_TRAIN written to HLK_CMD (R270, R309). -/
def fullTrain (h : Nat) (d : Dev) : Dev × Nat :=
  let only := portUp d h && !portUp d (1 - h)
  if only || (narta d h).st == psDisabled then (notNow d (hlkPg h), stNotNow)
  else (trainFresh d h, stOk)

/-- DISABLE written to HLK_CMD: it takes effect when the command's completion has been sent (R309). -/
def hlkDisable (h : Nat) (d : Dev) : Dev × Nat :=
  if portUp d h && !portUp d (1 - h) then (notNow d (hlkPg h), stNotNow)
  else (setNarta d h { narta d h with stopping := true }, stOk)

/-- A DISABLE takes effect once the completion of its command is sent (R309). -/
def stopPump (d : Dev) : Dev :=
  [0, 1].foldl (fun d h =>
    let n := narta d h
    if n.stopping then
      let d := txPump (setNarta d h { n with stopping := false })
      if portUp d h || n.st == psTraining then failPort d h psDisabled else portState d h psDisabled
    else d) d

/-- ENABLE releases a port held down: it starts again as a failed port does (R275). -/
def hlkEnable (h : Nat) (d : Dev) : Dev × Nat :=
  if (narta d h).st == psDisabled then (portState d h psFailed, stOk) else (d, stOk)

/-- Every 100 ms a failed port with signal trains fresh (R275). -/
def portRetry (h : Nat) (signal : Bool) (d : Dev) : Dev :=
  let d := setNarta d h { narta d h with signal := signal }
  if (narta d h).st == psFailed && signal then trainFresh d h else d

/-- A training or width retrain does not complete in its time (R275). -/
def trainingTimeout (h : Nat) (d : Dev) : Dev :=
  if inTraining (narta d h) then failPort d h psFailed else d

/-- No valid codeword for 2 µs while the port is up (R275). -/
def noCodeword (h : Nat) (d : Dev) : Dev :=
  if (narta d h).st == psUp then failPort d h psFailed else d

/-- A 1 ms window ends (R274): `corrected` gives the symbols corrected on each logical lane. -/
def laneWindow (h : Nat) (corrected : List Nat) (cwUncorr : Nat) (d : Dev) : Dev :=
  if (narta d h).st != psUp then d
  else
    let lim := getF d (hlkPg h) HLK.LANE_LIM
    let d := count d (hlkPg h) HLK.CW_UNCORR cwUncorr
    let d := (List.range 16).foldl (fun d l => count d (hlkPg h) (HLK.LANE_CORR.at l) (corrected.getD l 0)) d
    let n := narta d h
    let overrun := (List.range 16).foldl (fun m l =>
      mput 0 m l (if lim != 0 && corrected.getD l 0 > lim && n.lanes.getLsbD l then mget 0 n.overrun l + 1 else 0)) n.overrun
    let lost := (List.range 16).filter (fun l => mget 0 overrun l ≥ 3)
    let d := setNarta d h { n with overrun := overrun }
    if lost.isEmpty then d
    else
      let d := lost.foldl (fun d l =>
        let n := narta d h
        let n := { n with failed := n.failed ||| BitVec.ofNat 16 (2 ^ l), overrun := mput 0 n.overrun l 0 }
        let d := life (setNarta d h n) 8 0 [BitVec.ofNat 8 (3 + h), 1, BitVec.ofNat 8 l]
        barkWidth d h (n.usable &&& ~~~n.failed &&& n.agreed) n.agreed) d
      widthRetrain d h

end Sys2Proof.Machine
end

