-- ==== Sys2Proof/Machine/Firmware.lean ====
section
/-!
DEFINITION. Firmware selection, host images, slot writes, the broadcast and the trainings that follow it (R323 to R327).
-/
namespace Sys2Proof.Machine

def slotImage (d : Dev) (s : Nat) : List Byte := mget [] d.slots s

def verifyField (s : Nat) : Fld :=
  if s == 0 then BOOT.BOOT_STAT_VERIFY0 else if s == 1 then BOOT.BOOT_STAT_VERIFY1 else BOOT.BOOT_STAT_VERIFYH

/-- An accepted image runs: its header stays with the lead, and its broadcast begins (R323, R441). -/
def runImage (s : Nat) (img : List Byte) (d : Dev) : Dev :=
  let d := { d with boot := { d.boot with header := img.take 4096, slot := s, sources := [], got := [], miss := [] } }
  let d := setF (setF d secPg SEC.SEC_STAT_SLOT s) secPg SEC.SEC_STAT_FW_VER (hdrVer img)
  burnTo (rollbackOf d) (setPhase d 4)

/-- The image of a source is checked, its code recorded, and it runs or raises bark 0x0901. -/
def trySource (s : Nat) (img : List Byte) (d : Dev) : Dev × Bool :=
  let (d, c) := verifyImage d (lead d) img
  let d := setF d bootPg (verifyField s) c
  if c == 1 then (runImage s img d, true)
  else (bark d 0x0901 bootPg (lead d) 1 none none [BitVec.ofNat 8 s, BitVec.ofNat 8 c], false)

def anyPortUp (d : Dev) : Bool := portUp d 0 || portUp d 1

/-- No source is left: the lead waits for a host while a port is up, else PSTATE reads 3 (R324). -/
def sourcesSpent (d : Dev) : Dev :=
  if !d.boot.sources.isEmpty then d
  else if anyPortUp d then setPhase d 3
  else setF (setPhase d 2) pkgPg PKG.PKG_INFO_PSTATE 3

/-- The next source in the order of R323. A host source trains the ports of dies 0 and 7 fresh and waits in PHASE 3; the lead
goes on from it when the host's image was not acceptable, or when no port is up. -/
def firmwareSelect (d : Dev) : Dev :=
  if d.boot.lead.isNone || !(bootPhase d == 2 || bootPhase d == 3) then d
  else
    match d.boot.sources with
    | [] => if bootPhase d == 3 && getF d bootPg BOOT.BOOT_CMD_STAT_BUSY == 0 then sourcesSpent d else d
    | s :: rest =>
      let next (d : Dev) : Dev := { d with boot := { d.boot with sources := rest } }
      if s < 2 then
        let (d, ok) := trySource s (slotImage d s) d
        if ok then d else sourcesSpent (next d)
      else if bootPhase d == 2 then
        let d := [0, 1].foldl (fun d h => if dieUp d (portDie h) && (narta d h).st == psDown then trainFresh d h else d) d
        setPhase d 3
      else if getF d bootPg BOOT.BOOT_CMD_STAT_BUSY == 1 then d
      else if getF d bootPg BOOT.BOOT_STAT_VERIFYH != 0 || !anyPortUp d then sourcesSpent (setPhase (next d) 2)
      else d

/-! ## Host images (R324, R326) -/

def bootBusy (v : Nat) (d : Dev) : Dev := setF d bootPg BOOT.BOOT_CMD_STAT_BUSY v
def bootStatus (st : Nat) (d : Dev) : Dev := setF (bootBusy 0 d) bootPg BOOT.BOOT_CMD_STAT_STATUS st

def readHostImage (slot : Option Nat) (d : Dev) : Dev :=
  let d := bootBusy 1 { d with boot := { d.boot with writeSlot := slot } }
  newJob d .image true sysWho (getF d bootPg BOOT.BOOT_HOST_ADDR) (getF d bootPg BOOT.BOOT_HOST_LEN)

/-- LOAD_HOST written to BOOT_CMD (R324, R345). -/
def loadHost (d : Dev) : Dev × Nat :=
  if bootPhase d != 3 || getF d bootPg BOOT.BOOT_CMD_STAT_BUSY == 1 then (notNow d bootPg, stNotNow)
  else (readHostImage none d, stOk)

/-- Is a slot the one the running image came from? -/
def slotRuns (d : Dev) (s : Nat) : Bool := !d.boot.header.isEmpty && d.boot.slot == s

/-- WRITE_SLOT written to BOOT_CMD (R326). -/
def writeSlot (s : Nat) (d : Dev) : Dev × Nat :=
  if slotRuns d s || getF d bootPg BOOT.BOOT_CMD_STAT_BUSY == 1 then (notNow d bootPg, stNotNow)
  else (readHostImage (some s) d, stOk)

/-- The image has been read: it is written to its slot, or runs. -/
def imageRead (img : List Byte) (d : Dev) : Dev :=
  let slot := d.boot.writeSlot
  let d := { d with boot := { d.boot with writeSlot := none } }
  match slot with
  | some s =>
    let (d, c) := verifyImage d (lead d) img
    if c == 1 then
      count (bootStatus stOk { d with slots := mput [] d.slots s (img.take (hdrLength img)) }) bootPg BOOT.SLOT_WRITES 1
    else bootStatus stMalformed d
  | none =>
    let (d, ok) := trySource 2 img d
    bootStatus (if ok then stOk else stMalformed) d

def imageReadFails (st : Nat) (d : Dev) : Dev := bootStatus st { d with boot := { d.boot with writeSlot := none } }

/-! ## The broadcast (R325) -/

/-- Receiver codes: the acting steward of die k, and the base die of tower t. -/
def rcvDie (rcv : Nat) : Nat := if rcv < 16 then rcv else (rcv - 16) / 4

/-- Whistle station of a receiver. -/
def rcvStation (d : Dev) (rcv : Nat) : Nat := if rcv < 16 then stewardStation d rcv else stationAt (rcv - 16) 4 4

/-- Receivers of a section kind: up dies for steward code and known-answer programs, their towers for base-die code. -/
def receivers (d : Dev) (kind : Nat) : List Nat :=
  if kind == 2 then (List.range 32).filterMap (fun t =>
    if dieUp d (t / 4) && !d.boot.badRcv.contains (16 + t) then some (16 + t) else none)
  else upDies d

/-- Every receiver holds every section that goes to it. -/
def broadcastDone (d : Dev) : Bool :=
  let h := d.boot.header
  (List.range (hdrSections h)).all (fun i => (receivers d (hdrSect h i).kind).all (fun r => d.boot.got.contains (r, i)))

/-- Regions that may come up: their die is up, a clock bond of their tower is good (R26), their base die holds its code, and nothing names
them bad (R338). -/
def regionStarts (d : Dev) (r : Nat) : Bool :=
  dieUp d (regionDie r) && (tower d r).clockBad != 3#2 && !d.boot.badRcv.contains (16 + r) && !(badEntries d).contains (entRegion r)

/-- Key of the optical base's own saved settings. -/
def baseKey : Nat := 6999
def baseValid (d : Dev) : Bool := savedValid d baseKey (fun e => entKind e == 10)

/-- The combs that are good light, sharing the load where both do (R210). -/
def lightCombs (d : Dev) : Dev :=
  let bad (c : Nat) : Bool := (badEntries d).contains (entComb c)
  [0, 1].foldl (fun d c =>
    let st := if bad c then 3 else if bad (1 - c) then 2 else 1
    let b := if st == 3 then 0 else if st == 2 then (Config.combBase c true).toNat else (Config.combBase c false).toNat
    setAllOpt (setAllOpt d (combField c) st) (combBias c) b) d

/-- Every link that is not already up is trained (R327). -/
def trainAll (d : Dev) : Dev :=
  let full := !baseValid d || getF d bootPg BOOT.BOOT_CFG_FRESH == 1
  let d := lightCombs { d with boot := { d.boot with full := full, fresh := getF d bootPg BOOT.BOOT_CFG_FRESH == 1 } }
  let one (d : Dev) (r v : Nat) : Dev :=
    if (link d r v).st != .down then d
    else startJoint d r v (if !full && savedValid d (saveKey r v) (laneOf r v) then .saved else .fresh)
  let d := (List.range 32).foldl (fun d r =>
    if !regionStarts d r then d
    else
      let d := (List.range 136).foldl (fun d b => one d r (64 + b)) d
      (List.range 32).foldl (fun d j => if r < j && regionStarts d j then one d r j else d) d) d
  [0, 1].foldl (fun d h =>
    if dieUp d (portDie h) && (narta d h).st == psDown then
      trainPort d h (if d.boot.warm && !full && savedValid d (nartaKey h) (fun _ => false) then .saved else .fresh)
    else d) d

/-- A complete broadcast: the stewards run firmware, and training begins. -/
def broadcastEnds (d : Dev) : Dev :=
  if bootPhase d == 4 && broadcastDone d then
    let d := (upDies d).foldl (fun d k => [0, 1].foldl (fun d s =>
      if bit (getF d (diePg k) DIE.DIE_STAT_STEWARDS) s then setF d (stewPg k s) STEW.STEW_STAT_STATE 2 else d) d) d
    trainAll (setPhase d 5)
  else d

/-- A receiver that twice failed a section is bad: its die goes down, or its region is not brought up. -/
def receiverBad (rcv : Nat) (d : Dev) : Dev :=
  let d := { d with boot := { d.boot with badRcv := d.boot.badRcv ++ [rcv] } }
  if rcv < 16 then dieDown rcv { d with boot := { d.boot with downDies := d.boot.downDies ++ [rcv] } } else d

/-- A receiver holds a section. The known-answer programs stay with the acting steward, which loads them into the cores when they run (R325). -/
def takeSection (rcv sec kind : Nat) (data : List Byte) (d : Dev) : Dev :=
  let d := { d with boot := { d.boot with got := d.boot.got ++ [(rcv, sec)] } }
  if kind == 3 then { d with boot := { d.boot with kat := mput [] d.boot.kat rcv data } } else d

/-- A section reaches a receiver, which checks its digest. A die whose fused root digest is another takes nothing (R440). -/
def firmwareBlock (rcv sec : Nat) (data : List Byte) (d : Dev) : Dev :=
  let h := d.boot.header
  if bootPhase d != 4 || sec ≥ hdrSections h || !(receivers d (hdrSect h sec).kind).contains rcv ||
      d.boot.got.contains (rcv, sec) then d
  else
  let d := wServed d (stewardStation d (lead d)) (rcvStation d rcv) wtFirmware
  if Config.rootDigest (rcvDie rcv) != Config.rootDigest (lead d) then broadcastEnds (receiverBad (rcvDie rcv) d)
  else if sha512 data == (hdrSect h sec).digest then
    broadcastEnds (takeSection rcv sec (hdrSect h sec).kind data d)
  else if d.boot.miss.contains (rcv, sec) then broadcastEnds (receiverBad rcv d)
  else { d with boot := { d.boot with miss := d.boot.miss ++ [(rcv, sec)] } }

end Sys2Proof.Machine
end

