-- ==== Sys2Proof/Machine/MapBuild.lean ====
section
/-!
DEFINITION. Checker self-tests, the start-up test and known-answer runs (R330 to R334, R347), kennel settlement (R338), and the
map build (R340, R341).
-/
namespace Sys2Proof.Machine

def katPg : Nat := KAT.page.pg 0

/-! ## Units that fail a test (R331, R334, R335) -/

/-- A unit that neither fuses nor kennel name is added to the kennel; the start keeps it bad in any case. -/
def unitBad (ent cause : Nat) (d : Dev) : Dev :=
  let d := { d with boot := { d.boot with failed := (d.boot.failed ++ [ent]).eraseDups } }
  if (badEntries d).contains ent then d else kennelAdd d ent cause

/-- A unit that failed in this start or RUN: FAILS_LAST and the last ENTRY (R347). -/
def noteFail (ent : Nat) (d : Dev) : Dev :=
  setF (setF d katPg KAT.KAT_STAT_FAILS_LAST (getF d katPg KAT.KAT_STAT_FAILS_LAST + 1)) katPg KAT.KAT_LAST_ENTRY ent

/-- A failed check or run is noted, with bark 0x1101 (R344). -/
def testFails (ent cause : Nat) (d : Dev) : Dev :=
  bark (unitBad ent cause (noteFail ent d)) 0x1101 katPg (lead d) 2 none none (leBytes 4 ent)

def starting (d : Dev) : Bool := 5 ≤ bootPhase d && bootPhase d ≤ 7


/-- The SRAM march and the frame test of a cold start (R332). -/
def startUpTest (failed : List Nat) (d : Dev) : Dev :=
  if !starting d || d.boot.warm then d
  else failed.foldl (fun d e => if entOk e then unitBad e 1 (noteFail e d) else d) (setPhase d 7)

/-- The die of a unit. -/
def entDie (e : Nat) : Nat :=
  match entKind e with
  | 3 => bits e 20 16 / 4
  | 10 => 0
  | _ => (entDies e).headD 0

/-- A lane of a link that fails in loop-back is declared failed, and the link acts under R226; a lane that carries nothing is
bad alone. -/
def laneEntFails (ent cause : Nat) (d : Dev) : Dev :=
  let go (r v : Nat) (p : Option Nat) : Dev :=
    match p with
    | some p => if (link d r v).st == .lost then unitBad ent cause d else laneFails r v p cause d
    | none => unitBad ent cause d
  if entKind ent == 5 then
    let t := bits ent 21 17
    let b := bits ent 16 9
    go t (64 + b) (lanePos (link d t (64 + b)) t (64 + b) (bits ent 8 0))
  else
    let i := bits ent 13 9
    let j := bits ent 8 4
    go i j (peerPos (link d i j) i j (bits ent 3 0))

/-- ENTRY word of the unit that a checker guards, none for a die or a port; the kinds are those of the last column of Table — checker
self-tests, and for a CRC the unit of the station or the lane of the link. -/
def checkerEnt : Checker → Option (Nat × List Nat)
  | .port e => some (e.toNat, [2, 7, 8])
  | .vertical e => some (e.toNat, [1])
  | .decoder e => some (e.toNat, [8])
  | .secDed e => some (e.toNat, [1, 7, 8])
  | .crc e => some (e.toNat, [1, 5, 6, 8, 9])
  | .slotTable e => some (e.toNat, [8])
  | .trunkTable _ => none
  | .narta _ => none

def checkerOk (c : Checker) : Bool := match checkerEnt c with | some (e, ks) => entOk e && ks.contains (entKind e) | none => true

/-- A checker that fails makes its unit bad: a lane fails its link's lane, a die goes down (no ENTRY word names one, log entry 118), a
port trains fresh and is not up until that passes. -/
def checkerFails (c : Checker) (d : Dev) : Dev :=
  match c with
  | .trunkTable k =>
    let d := bark (noteFail 0 d) 0x1101 katPg (lead d) 2 none none (leBytes 4 0)
    dieDown k.val { d with boot := { d.boot with downDies := d.boot.downDies ++ [k.val] } }
  | .narta h =>
    let d := bark (noteFail 0 d) 0x1101 katPg (lead d) 2 none none (leBytes 4 0)
    trainFresh d h.val
  | c =>
    match checkerEnt c with
    | none => d
    | some (e, _) =>
      if entKind e == 5 || entKind e == 6 then
        laneEntFails e 3 (bark (noteFail e d) 0x1101 katPg (lead d) 2 none none (leBytes 4 e))
      else testFails e 3 d

/-- A checker has been driven with its patterns (R330): one that passes leaves no trace. -/
def checkerSelfTest (c : Checker) (pass : Bool) (d : Dev) : Dev :=
  if !starting d || !checkerOk c || bootPhase d > 6 then d
  else
    let d := setPhase d 6
    if pass then d else checkerFails c d

/-- The quadrant of a die runs at OP0 for its runs (R333), until the map build sets its first ramp ceiling. -/
def katClocks (k : Nat) (d : Dev) : Dev :=
  let q := quad d k
  if q.run == 0 then d
  else setQuad (setF (sendVout k (setVolts k 0 d)) (clkPg k) CLK.CLK_STAT_POINT 0) k { q with run := 0, fast := 0 }

/-- The known-answer programs that the steward of die `k` holds, in the step memory of a core (R325). -/
def katLoaded (d : Dev) (k : Nat) (c : Core) : Core :=
  let img := mget [] d.boot.kat k
  let n := (Config.katSteps img).val
  { c with steps := (List.range n).foldl (fun m i => mput 0 m i (Config.katStep img i)) [], loaded := n, badStep := [] }

/-- The steward loads the known-answer programs into a core site: the logical core that stands on it, or the site alone (R325). What a run
leaves in the other stores of the site the spec does not give (log entry 118). -/
def katLoad (k s : Nat) (d : Dev) : Dev :=
  match (List.range 32).find? (fun c => siteOf d (32 * k + c) == some s) with
  | some c => setCore d (32 * k + c) (katLoaded d (k / 16) (core d (32 * k + c)))
  | none => setSpare d k s (katLoaded d (k / 16) (spare d k s))

/-- A lane's run writes the first good frame of its bank column that no page holds, whose E bits are cleared afterwards (R333, log entry
118). -/
def katFrame (t b : Nat) (d : Dev) : Dev := match freeInCol d t b with | some f => clearE d t f | none => d

/-- What the run of a unit does, beside its outcome. -/
def katRuns (ent : Nat) (d : Dev) : Dev :=
  match entKind ent with
  | 1 => katLoad (4 * (4 * bits ent 12 10 + bits ent 9 8) + bits ent 7 6) (bits ent 5 0) d
  | 2 => katFrame (bits ent 12 8) (bits ent 7 0) d
  | _ => d

/-- One unit's known-answer run (R333, R334). A bad unit is given none. -/
def katUnit (ent : Nat) (pass : Bool) (d : Dev) : Dev :=
  if (badEntries d).contains ent then d
  else
    let d := katRuns ent (count (katClocks (entDie ent) d) katPg KAT.KAT_RUNS 1)
    if pass then d
    else
      let d := count (count d katPg KAT.KAT_FAILS 1) (diePg (entDie ent)) DIE.KAT_FAILS 1
      if entKind ent == 5 || entKind ent == 6 then
        laneEntFails ent 2 (bark (noteFail ent d) 0x1101 katPg (lead d) 2 none none (leBytes 4 ent))
      else testFails ent 2 d

def katKind (ent : Nat) : Bool := entOk ent && (entKind ent == 1 || entKind ent == 2 || entKind ent == 5 || entKind ent == 6)

def knownAnswerRun (ent : Nat) (pass : Bool) (d : Dev) : Dev :=
  if !starting d || !katKind ent then d else katUnit ent pass (setPhase d 7)

/-! ## Kennel settlement (R338) -/

def kennelOk (r : BitVec 256) : Bool :=
  let b := leBytes 32 r.toNat
  crc32c (b.take 28) == leNat (b.drop 28)

/-- Record `i` of both copies: one that fails its CRC is restored from the other; one that fails in both is lost. -/
def settleRecord (d : Dev) (i : Nat) : Dev :=
  let a := mget 0 d.kenl i
  let b := mget 0 d.kenl (131072 + i)
  if kennelOk a then
    if kennelOk b then d else count { d with kenl := mput 0 d.kenl (131072 + i) a } kenlPg KENL.COPY_REPAIRS 1
  else if kennelOk b then count { d with kenl := mput 0 d.kenl i b } kenlPg KENL.COPY_REPAIRS 1
  else if a == 0 && b == 0 then d
  else
    bark { d with kenl := mput 0 (mput 0 d.kenl i 0) (131072 + i) 0 } 0x0A02 kenlPg (lead d) 2 none none
      [1, BitVec.ofNat 8 (lead d)]

def settleKennel (d : Dev) : Dev :=
  let d := (List.range (kennelRecords d)).foldl settleRecord d
  let miss := (((List.range 8).map (fuseBank d)).flatten).eraseDups.filter (fun e => !(kennelEntries d).contains e)
  let d := miss.foldl (fun d e => kennelFlash d e 0) d
  setF (setF d kenlPg KENL.KENL_STAT_COPY0_OK 1) kenlPg KENL.KENL_STAT_COPY1_OK 1

/-! ## The page maps (R158, R253, R341) -/

/-- Lowest free good frame of a bank column, or of the next that has one. -/
def takeFrame (cols : List (List Nat)) (b : Nat) : Option (Nat × List (List Nat)) :=
  match (List.range 136).find? (fun i => !(cols.getD ((b + i) % 136) []).isEmpty) with
  | none => none
  | some i =>
    let c := (b + i) % 136
    match cols.getD c [] with
    | [] => none
    | f :: r => some (f, cols.set c r)

/-- Pages from `k` in ascending order; the two ledger pages give the host reads alone. -/
def mapGo (p : Part) : Nat → Nat → List (List Nat) → Map MapEntry → Map MapEntry
  | 0, _, _, acc => acc.reverse
  | n + 1, k, cols, acc =>
    match takeFrame cols (k % 136) with
    | none => acc.reverse
    | some (f, cols) => mapGo p n (k + 1) cols ((k, mkEntry meFresh 0 (if ledgerPage p k then 8 else 15) 0 0 f) :: acc)

def colFrames (p : Part) (b : Nat) : List Nat := (List.range (Config.framesPerCol p)).map (256 * b + ·)

/-- Is a frame named bad, or does it lie in a failed column or layer? -/
def frameBad (bad : List Nat) (t f : Nat) : Bool :=
  bad.contains (entFrame t f) || bad.contains (entColumn t (frameCol f)) || bad.contains (entLayer t (frameLayer f))

/-- A tower at a cold start: its pages on good frames, the others on the retired list. -/
def buildTower (bad : List Nat) (t : Nat) (d : Dev) : Dev :=
  let mine := bad.filter (fun e => (entKind e == 2 && bits e 12 8 == t) || (entKind e == 3 && bits e 20 16 == t) ||
    (entKind e == 4 && bits e 8 4 == t))
  let isBad (f : Nat) : Bool := !mine.isEmpty && frameBad mine t f
  let cols := (List.range 136).map (fun b => (colFrames d.kind b).filter (fun f => !isBad f))
  let gone := if mine.isEmpty then [] else (List.range 136).flatMap (fun b => (colFrames d.kind b).filter isBad)
  let d := setTower d t { tower d t with map := mapGo d.kind (Config.pages d.kind) 0 cols [], retired := gone, badAtBuild := gone }
  let d := setF d (twrPg t) TWR.FRAMES_RETIRED gone.length
  (List.range 16).foldl (fun d l =>
    let n := (gone.filter (fun f => frameLayer f == l)).length
    if n == 0 then d else setF d (lyrPg t l) LYR.LYR_STAT_FRAMES_RETIRED n) d

/-- A tower at a warm start: its map stands, and frames named bad since are retired (R176, R341). -/
def mendTower (bad : List Nat) (t : Nat) (d : Dev) : Dev :=
  let new := (bad.filter (fun e => entKind e == 3 && bits e 20 16 == t)).map (fun e => bits e 15 0)
  let new := (new.filter (fun f => !(tower d t).retired.contains f)).eraseDups
  let d := new.foldl (retireBare t) d
  setTower d t { tower d t with badAtBuild := (tower d t).retired }

/-- Bank columns and layers that are named bad. -/
def failedParts (bad : List Nat) (t : Nat) (d : Dev) : Dev :=
  let d := (List.range 136).foldl (fun d b =>
    if bad.contains (entColumn t b) && !colFailed d t b then
      if d.boot.warm then failColumn d t b else setColumn d t b { column d t b with failed := true }
    else d) d
  (List.range 16).foldl (fun d l =>
    if bad.contains (entLayer t l) && getF d (lyrPg t l) LYR.LYR_STAT_FAILED == 0 then
      if d.boot.warm then failLayer d t l else setF d (lyrPg t l) LYR.LYR_STAT_FAILED 1
    else d) d

/-! ## The logical map (R340, R341) -/

/-- Good sites of a pack, from the units named bad. -/
def goodSites (bad : List Nat) (k : Nat) : Nat :=
  let mine := bad.filter (fun e => entKind e == 1)
  (List.range 34).foldl (fun m s =>
    if mine.contains (entSite (k / 16) (k / 4 % 4) (k % 4) s) then m else m + 2 ^ s) 0

/-- Weights of a region's stations at the map build: 1 for a site that holds a logical core, 0 for every other, and firmware's
own (R341). -/
def startWeights (r : Nat) (d : Dev) : Dev :=
  let d := (List.range 4).foldl (fun d q =>
    let k := 4 * r + q
    let used := (List.range 32).filterMap (fun c => siteOf d (32 * k + c))
    setWeight (used.foldl (fun d s => setWeight d r q s 1 0) d) r q 34 1 0) d
  [4, 5, 6].foldl (fun d t => setWeight d r 4 t 1 2) d

/-- Firmware's weights on the trunk: 6 for each of its 20 leaves beside the 64 of the regions, which gives each of them, the Narta stations and the
page stations among them, at least 8 slots of a frame (R294, log entry 98). -/
def trunkWeights (d : Dev) : Dev :=
  (List.range 20).foldl (fun d i => setWeight d 32 7 (32 + i) 6 2) d

/-- A site that comes to hold a logical core brings what its stores hold. -/
def takeSites (k : Nat) (d : Dev) : Dev :=
  (List.range 32).foldl (fun d c =>
    match siteOf d (32 * k + c) with
    | some s => if spare d k s == Core.init then d else setSpare (setCore d (32 * k + c) (spare d k s)) k s Core.init
    | none => d) d

/-- A region that comes up: its packs' logical cores, slices, columns, pages and weights. -/
def buildRegion (bad : List Nat) (r : Nat) (d : Dev) : Dev :=
  let d := setF d (rgnPg r) RGN.RGN_STAT_STATE 1
  let d := (List.range 4).foldl (fun d q =>
    let k := 4 * r + q
    takeSites k (writeMap k (placeSites (siteGood d k) (Config.coresPerPack d.kind) some) d)) d
  let sl := (List.range 32).foldl (fun m s => if bad.contains (entSlice r s) then m else m + 2 ^ s) 0
  let d := setF (setF d (xbarPg r) XBAR.XBAR_STAT_SLICE_GOOD sl) (xbarPg r) XBAR.XBAR_STAT_TPORT_GOOD 15
  let d := failedParts bad r d
  let d := if d.boot.warm then mendTower bad r d else buildTower bad r d
  startWeights r d

/-- A die that is up takes its table voltages at OP6 with its first ramp ceiling (R318, R383). -/
def startClocks (k : Nat) (d : Dev) : Dev :=
  decide1 k (sendVout k (setVolts k 6 (setF d (clkPg k) CLK.CLK_STAT_RC 6)))

/-- Is every unit of the part up (R341): dies with both stewards, combs, regions with full packs, slices, bank columns, layers and pages, and
every link? A Narta port, which needs a host to come up, is not counted (log entry 119). -/
def allUp (d : Dev) : Bool :=
  getF d pkgPg PKG.PKG_INFO_DIES_UP == 255 && getF d pkgPg PKG.PKG_UNITS_REGIONS_UP == 2 ^ 32 - 1 &&
    (List.range 2).all (fun c => combState d c == 1) &&
    (List.range 8).all (fun k => getF d (diePg k) DIE.DIE_UNITS_REDUCED == 0 && getF d (diePg k) DIE.DIE_STAT_STEWARDS == 3) &&
    (List.range 32).all (fun r =>
      getF d (xbarPg r) XBAR.XBAR_STAT_SLICE_GOOD == 2 ^ 32 - 1 && pagesUnbacked d r == 0 &&
        (List.range 136).all (fun b => !colFailed d r b) &&
        (List.range 16).all (fun l => getF d (lyrPg r l) LYR.LYR_STAT_FAILED == 0) &&
        (List.range 200).all (fun v => !linkOk r v || (32 ≤ v && v < 64) || (link d r v).st == .up))

/-- Saved settings of every link that is up, of the ports, and of the optical base after a full start (R329). -/
def saveAll (d : Dev) : Dev :=
  let d := (List.range 32).foldl (fun d r => (List.range 200).foldl (fun d v =>
    if linkOk r v && linkNear r v && !(32 ≤ v && v < 64) && (link d r v).st == .up then
      saveSettings d (saveKey r v) (link d r v) else d) d) d
  let d := [0, 1].foldl (fun d h => if portUp d h then saveSettings d (nartaKey h) (portSettings (narta d h)) else d) d
  saveSettings d baseKey Link.init

/-- The start record (R425). -/
def startRecord (d : Dev) : Dev :=
  let b := d.boot
  life d 9 0 ([BitVec.ofNat 8 (if b.full then 2 else 1), if b.warm then 4 else 5, BitVec.ofNat 8 b.cause,
    BitVec.ofNat 8 (lead d)] ++ leBytes 4 (getF d bootPg BOOT.BOOT_STAT_START_TIME) ++
    leBytes 4 (getF d secPg SEC.SEC_STAT_FW_VER) ++
    [BitVec.ofNat 8 (getF d pkgPg PKG.PKG_INFO_PSTATE), BitVec.ofNat 8 (getF d secPg SEC.SEC_STAT_SLOT)])

/-- The start ends: PSTATE, BOOT_STAT, keys, the commissioning baseline of the first full start (R421), and the start record. -/
def startEnds (d : Dev) : Dev :=
  let full := d.boot.full
  let d := setF (setPhase d 9) bootPg BOOT.BOOT_STAT_START_TIME (min 65535 (d.boot.ticks / 10 ^ 6))
  let d := setF d bootPg BOOT.BOOT_STAT_KIND (if full then 2 else 1)
  let d := count d bootPg (if full then BOOT.STARTS_FULL else BOOT.STARTS_FAST) 1
  let d := if d.boot.fresh then setF d bootPg BOOT.BOOT_CFG_FRESH 0 else d
  let d := if d.boot.hostNext then setF d bootPg BOOT.BOOT_CFG_HOST_NEXT 0 else d
  let d := setF d pkgPg PKG.PKG_INFO_PSTATE (if d.heat.stopped then 4 else if allUp d then 1 else 2)
  let d := startKeys d
  let d := if full && d.ageing.base.isNone then { d with ageing := ⟨[], some (powered d (lead d)), none⟩ } else d
  let d := if full then saveAll d else d
  let d := if d.boot.warm then count d pkgPg PKG.WARM_RESETS 1 else { d with series := d.series + 1 }
  let d := startRecord d
  let d := if d.boot.warm then reissueReceipts d else d
  if alertCause d then assertAlert d else d

/-- The map build, which ends the start (R338, R340, R341). -/
def mapBuild (d : Dev) : Dev :=
  if !(5 ≤ bootPhase d && bootPhase d < 9) || (upDies d).isEmpty then d
  else
    let d := settleKennel (setPhase d 8)
    let bad := badEntries d ++ d.boot.failed
    let d := (List.range 128).foldl (fun d k => packSpare (setF d (packPg k) PACK.PACK_INV_SITE_GOOD (goodSites bad k)) k) d
    let up := (List.range 32).filter (fun r => regionStarts d r && !bad.contains (entRegion r))
    let d := up.foldl (fun d r => buildRegion bad r d) d
    let d := setF d pkgPg PKG.PKG_UNITS_REGIONS_UP (sumOf (up.map (2 ^ ·)))
    let d := (upDies d).foldl (fun d k => startClocks k (setF d (diePg k) DIE.DIE_STAT_STATE 2)) d
    let d := (takeTables none (trunkWeights d) (allRings.filter (fun x => x.1 == 32 || up.contains x.1))).1
    startEnds d

/-! ## RUN and KENL_ADD (R346, R347) -/

/-- RUN written to KAT_CMD; `failed` names the units that fail it. -/
def katRun (r : Nat) (failed : List Nat) (d : Dev) : Dev × Nat :=
  if (partOf d r).isSome || getF d katPg KAT.KAT_STAT_BUSY == 1 || getF d (rgnPg r) RGN.RGN_STAT_STATE != 1 then
    (notNow d katPg, stNotNow)
  else
    let mine (e : Nat) : Bool := entOk e && (match entKind e with
      | 1 => 4 * bits e 12 10 + bits e 9 8 == r
      | 2 => bits e 12 8 == r
      | 3 => bits e 20 16 == r && frameFree d r (bits e 15 0)
      | 5 => bits e 21 17 == r
      | 6 => (bits e 13 9 == r && (partOf d (bits e 8 4)).isNone) || (bits e 8 4 == r && (partOf d (bits e 13 9)).isNone)
      | _ => false)
    let fs := (failed.eraseDups).filter (fun e => mine e && !(badEntries d).contains e)
    let d := setF d katPg KAT.KAT_STAT_FAILS_LAST 0
    let pairs := ((List.range 32).filter (fun j => j != r && (partOf d j).isNone && (link d r j).st == .up)).length
    let units := sumOf ((List.range 4).map (fun q =>
        ((List.range 34).filter (fun s => siteGood d (4 * r + q) s)).length)) +
      ((List.range 136).filter (fun b => !colFailed d r b)).length +
      ((List.range 136).filter (fun b => (link d r (64 + b)).st == .up)).length + pairs
    let d := count d katPg KAT.KAT_RUNS units
    let d := (List.range 4).foldl (fun d q => ((List.range 34).filter (siteGood d (4 * r + q))).foldl (fun d s => katLoad (4 * r + q) s d) d) d
    let d := ((List.range 136).filter (fun b => !colFailed d r b)).foldl (fun d b => katFrame r b d) d
    let d := fs.foldl (fun d e =>
      let d := noteFail e d
      let d := if entKind e == 3 then d
        else bark (count (count d katPg KAT.KAT_FAILS 1) (diePg (entDie e)) DIE.KAT_FAILS 1) 0x1101 katPg (lead d) 2 none none
          (leBytes 4 e)
      match entKind e with
      | 1 =>
        let k := 4 * r + bits e 7 6
        let g := getF d (packPg k) PACK.PACK_INV_SITE_GOOD
        let s := bits e 5 0
        packSpare (setF (kennelAdd d e 2) (packPg k) PACK.PACK_INV_SITE_GOOD (if bit g s then g - 2 ^ s else g)) k
      | 2 => kennelAdd (failColumn d r (bits e 7 0)) e 2
      | 3 =>
        let f := bits e 15 0
        retireLimits (kennelAdd (retireBare r d f) e 1) r f
      | _ => laneEntFails e 2 d) d
    let (d, moved) := rebuildPacks ((List.range 4).map (4 * r + ·)) d
    (if moved then epochRegion (showHeld r d) r else d, stOk)

/-- A frame named in KENL_ADD is retired at once under R176; its record has cause 8. -/
def retireNamed (t f : Nat) (d : Dev) : Dev :=
  if (tower d t).retired.contains f || f / 256 ≥ 136 || f % 256 ≥ Config.framesPerCol d.kind then d
  else
    retireLimits (retireBare t d f) t f

/-- ENTRY written to KENL_ADD. -/
def kenlAdd (ent : Nat) (d : Dev) : Dev × Nat :=
  if !entOk ent then (d, stMalformed)
  else
    let d := kennelAdd d ent 8
    (if entKind ent == 3 then retireNamed (bits ent 20 16) (bits ent 15 0) d else d, stOk)

end Sys2Proof.Machine
end

