-- ==== Sys2Proof/Machine/Life.lean ====
section
/-!
DEFINITION. Calendar notes and summaries of the life log (R316, R425, R429), bucket leaks, SRAM scrubs and the patrol scrubber
(R413 to R419), the spare inventories (R349), and the ageing indicators with their predictions (R420 to R422).
-/
namespace Sys2Proof.Machine

/-! ## Summaries and notes -/

/-- The summary records written every 60 s and in a drain (R425). -/
def lifeSummary (d : Dev) : Dev :=
  let m (f : Fld) : List Byte := leBytes 8 (getF d metrPg f)
  let sec := (List.range 8).flatMap (fun k => leBytes 4 (powered d k))
  let tot := leBytes 8 (lifeJoules d) ++ m METR.ACCT_MEASURED ++ m METR.ACCT_IDLE ++ m METR.ACCT_RECEIPTED
  let seq := m METR.ACCT_RESIDUE ++ leBytes 4 (getF d metrPg METR.METR_SEQ_ROOT_SEQ) ++
    leBytes 4 (getF d metrPg METR.METR_SEQ_RECEIPT_SEQ) ++ leBytes 4 d.series
  let cyc (s : Nat) : List Byte := (List.range 8).flatMap (fun i => leBytes 4 (getF d (zonPg (8 * s + i)) TZON.CYCLES))
  let d' := life (life (life d 1 0 sec) 1 1 tot) 1 2 seq
  (List.range 5).foldl (fun e s => life e 10 s (cyc s)) d'

/-- The 60 s summary of a device whose lead runs firmware. -/
def summaryTick (d : Dev) : Dev := if bootPhase d == 9 then lifeSummary d else d

def noteCap : Nat := 1048576

/-- The accepted note becomes durable, and NOTE_IDX names it (R429). -/
def noteDurable (d : Dev) : Dev :=
  match d.note with
  | none => d
  | some v =>
    let i := noteIdx d + 1
    let k := lead d
    let at_ := d.noteAt.getD 0
    let stamp := (stampOf d k + 2 ^ 48 - (mget 0 d.ticks k - at_) % 2 ^ 48) % 2 ^ 48
    let body := leBytes 8 v.toNat ++ leBytes 6 stamp ++ [BitVec.ofNat 8 k, 0] ++ leBytes 8 (at_ / 10 ^ 8) ++ leBytes 4 i
    let r : BitVec 256 := BitVec.ofNat 256 (leNat (body ++ leBytes 4 (crc32c body)))
    let full := d.notes.length ≥ noteCap
    let d := { d with note := none, notes := (if full then d.notes.drop 1 else d.notes) ++ [r] }
    let d := if full then count d flshPg FLSH.NOTES_OVERWRITTEN 1 else d
    let d := count (setF d lifePg LIFE.LIFE_STAT_NOTE_IDX i) lifePg LIFE.NOTES 1
    if i ≤ noteCap || i % 8192 != 1 then d
    else setF (count d flshPg FLSH.ERASES 1) flshPg FLSH.FLSH_STAT_WEAR (flashWear d.erases i)

/-- A write to NOTE_TIME (R316): one within 1 s of the previous note's is refused. -/
def noteTime (utc : Word64) (d : Dev) : Dev × Nat :=
  let now := mget 0 d.ticks (lead d)
  let soon : Bool := match d.noteAt with
    | some t => decide (now < t + 10 ^ 8)
    | none => false
  if soon then (notNow d lifePg, stNotNow)
  else ({ setF (noteDurable d) lifePg LIFE.NOTE_TIME utc.toNat with note := some utc, noteAt := some now }, stOk)

/-- The note record of an index that the region holds. -/
def noteRecord (d : Dev) (i : Nat) : Nat :=
  let last := noteIdx d
  if i == 0 || last < i || d.notes.length ≤ last - i then 0
  else (d.notes.getD (d.notes.length - 1 - (last - i)) 0).toNat

/-! ## Buckets and SRAM words (R413 to R416) -/

def bucketLeak (d : Dev) : Dev :=
  (List.range 40).foldl (fun d i =>
    let f := ECC.ECC_BUCKET_LEVEL.at i
    setF d eccPg f (getF d eccPg f - 1)) d

def sramKind : SramStore → Nat
  | .stepMemory _ => 0 | .scratch _ => 1 | .accMemory _ => 2 | .slice _ _ => 3 | .floorStore _ => 4 | .blockBitmap _ => 5
  | .pageMap _ => 6 | .housekeeping _ => 7 | .steward _ _ => 8 | .linkBuffer _ _ => 9

/-- The page of the unit a store belongs to, its die, and its bucket. -/
def sramUnit : SramStore → Nat × Nat × Nat
  | .stepMemory n => (corePg n.val, coreDie n.val, 32 + coreDie n.val)
  | .scratch n => (corePg n.val, coreDie n.val, 32 + coreDie n.val)
  | .accMemory n => (corePg n.val, coreDie n.val, 32 + coreDie n.val)
  | .slice r s => (SLC.page.pg (32 * r.val + s.val), regionDie r.val, 32 + regionDie r.val)
  | .floorStore t => (flrPg t.val, regionDie t.val, t.val)
  | .blockBitmap t => (twrPg t.val, regionDie t.val, t.val)
  | .pageMap t => (twrPg t.val, regionDie t.val, t.val)
  | .housekeeping t => (twrPg t.val, regionDie t.val, t.val)
  | .steward k s => (stewPg k.val s.val, k.val, 32 + k.val)
  | .linkBuffer r _ => (optPg r.val, regionDie r.val, 32 + regionDie r.val)

/-- An uncorrectable page map entry is written RETIRED with the one frame that nothing names (R416). -/
def mapEntryLost (t k : Nat) (d : Dev) : Dev :=
  let e := entry d t k
  let named := meState e == meFresh || meState e == meValid
  if meState e == meAbsent then d
  else if !named then setEntry d t k (mkEntry meRetired 0 0 0 0 0)
  else
    let f := meFrame e
    let d := setEntry d t k (mkEntry meRetired 0 0 0 0 f)
    retireLimits (retireBare t d f) t f

/-- Several entries lost at once: every frame that none names is retired, and each entry is written RETIRED with FRAME 0 (R416). -/
def mapEntriesLost (t : Nat) (ks : List Nat) (d : Dev) : Dev :=
  let ks := ks.filter (fun k => meState (entry d t k) != meAbsent)
  let fs := ks.filterMap (fun k =>
    let e := entry d t k
    if meState e == meFresh || meState e == meValid then some (meFrame e) else none)
  let d := ks.foldl (fun d k => setEntry d t k (mkEntry meRetired 0 0 0 0 0)) d
  fs.foldl (fun d f => retireLimits (retireBare t d f) t f) d

/-- A word of the block bitmap is lost: the page that owns its frame is retired, and the frame's E bits are cleared (R415). -/
def bitmapLost (t w : Nat) (d : Dev) : Dev :=
  let f := w / 16
  match (tower d t).map.find? (fun x => meFrame x.2 == f && (meState x.2 == meFresh || meState x.2 == meValid)) with
  | some (k, _) => clearE (retirePage d t k 0) t f
  | none => clearE d t f

/-- Outcomes of Table — uncorrectable SRAM words. -/
def sramLost (st : SramStore) (w : Nat) (d : Dev) : Dev :=
  let upd (n : Nat) (f : Core → Core) : Dev := setCore d n (f (core d n))
  match st with
  | .stepMemory n => upd n.val (fun c => { c with badStep := (c.badStep ++ [w / 2]).eraseDups })
  | .scratch n => upd n.val (fun c => { c with badScratch := (c.badScratch ++ [w]).eraseDups })
  | .accMemory n => upd n.val (fun c => { c with badAcc := (c.badAcc ++ [w]).eraseDups })
  | .slice r s =>
    count { d with badSlice := mupd [] d.badSlice (32 * r.val + s.val) (fun l => (l ++ [w]).eraseDups) }
      (SLC.page.pg (32 * r.val + s.val)) SLC.UNCORRECTED 1
  | .floorStore t =>
    let d := { d with sramBad := (d.sramBad ++ [(4, t.val, w)]).eraseDups }
    let f := floor d t.val
    let cw := fWord d t.val
    if (f.st == .run || f.st == .wait) && f.running && floorReads f.cmd (fMask d t.val cw) cw w then
      floorFault d t.val 8 255 stUncorr
    else d
  | .blockBitmap t => bitmapLost t.val w d
  | .pageMap t => mapEntryLost t.val w d
  | .housekeeping t =>
    if (tower d t.val).hold || getF d (rgnPg t.val) RGN.RGN_STAT_STATE != 1 then d else towerGo t.val d
  | .steward k s => stewardFails k.val s.val d
  | .linkBuffer r l => if linkOk r.val l.val then dropLink d r.val l.val 3 0xFF else d

/-- The store's controller corrects a word: its bucket rises by one (R413). -/
def wordCorrected (st : SramStore) (d : Dev) : Dev :=
  let d := match st with
    | .slice r s => count d (SLC.page.pg (32 * r.val + s.val)) SLC.CORRECTED 1
    | _ => d
  bucketAdd d (sramUnit st).2.2

/-- An uncorrectable word counts, and its bark names the store and the word (R415). -/
def wordBark (st : SramStore) (w : Nat) (d : Dev) : Dev :=
  let (pg, die, _) := sramUnit st
  bark (count d eccPg ECC.UNCORR_SRAM 1) 0x0F02 eccPg die 2 none (some stUncorr)
    ([Config.storeCode (sramKind st)] ++ leBytes 2 pg ++ [0] ++ leBytes 4 w)

/-- The store's controller reads every word and finds those given in error (R413, R415). -/
def sramScrub (st : SramStore) (ws : List Nat) (uncorrectable : Bool) (d : Dev) : Dev :=
  if !uncorrectable then ws.foldl (fun d _ => wordCorrected st d) d
  else
    match st, ws with
    | .pageMap t, _ :: _ :: _ => mapEntriesLost t.val ws.eraseDups (ws.eraseDups.foldl (fun d w => wordBark st w d) d)
    | _, _ => ws.foldl (fun d w => sramLost st w (wordBark st w d)) d

/-! ## The patrol scrubber (R417 to R419) -/

def scrbPg (t : Nat) : Nat := SCRB.page.pg t
def scrub (d : Dev) (t : Nat) : Scrub := (tower d t).scrub
def setScrub (d : Dev) (t : Nat) (s : Scrub) : Dev := setTower d t { tower d t with scrub := s }

/-- Does a pass visit page `k`? -/
def scrubVisits (d : Dev) (t k : Nat) : Bool :=
  let e := entry d t k
  (meState e == meFresh || meState e == meValid) && !meSweep e

/-- The next page from `k` that a pass visits; the number of pages where there is none. -/
def scrubNext (d : Dev) (t : Nat) : Nat → Nat → Nat
  | 0, k => k
  | f + 1, k => if k ≥ Config.pages d.kind || scrubVisits d t k then k else scrubNext d t f (k + 1)

/-- May the scrubber work in a column now (R418)? -/
def scrubNow (d : Dev) (t b : Nat) : Bool :=
  let swept := match (tower d t).sweep with
    | some s => frameCol (meFrame (entry d t s.page)) == b
    | none => false
  if (scrub d t).behind then fetchNow d t b else backgroundNow d t b && !swept

/-- One block of the running pass; at the end of a page, LOW takes the GEN recorded at its start. -/
def scrubBlock (t : Nat) (d : Dev) : Dev :=
  let s := scrub d t
  let k := if s.block == 0 then scrubNext d t (Config.pages d.kind) s.page else s.page
  if !s.running then d
  else if k ≥ Config.pages d.kind then setScrub d t { s with page := k, block := 0 }
  else if !scrubVisits d t k then setScrub d t { s with page := k + 1, block := 0 }
  else if !scrubNow d t (frameCol (meFrame (entry d t k))) then setScrub d t { s with page := k }
  else
    let g0 := if s.block == 0 then meGen (entry d t k) else s.g0
    let had := eBit d t (meFrame (entry d t k)) s.block
    let (d, ok) := reworkBlock d t k s.block true
    let d := if had then count d (scrbPg t) SCRB.BLOCKS 1 else d
    if !ok then count (setScrub d t { s with page := k + 1, block := 0 }) (scrbPg t) SCRB.SCRUB_UNCORR 1
    else if s.block + 1 == 1024 then
      setScrub (setEntry d t k (meSet (entry d t k) 50 47 g0)) t { s with page := k + 1, block := 0, g0 := g0 }
    else setScrub d t { s with page := k, block := s.block + 1, g0 := g0 }

/-- The frame of a layer that a retention measure uses: the lowest-numbered free good one (log entry 122). -/
def marginFrame (d : Dev) (t l : Nat) : Option Nat :=
  (List.range 2176).map (fun i => 256 * (i / 16) + 16 * l + i % 16) |>.find? (fun f => !colFailed d t (f / 256) && frameFree d t f)

/-- A layer's retention margin is measured in a free good frame, whose E bits are then cleared; with none it keeps its last one (R419). -/
def measureLayer (t : Nat) (margins : List (BitVec 3)) (d : Dev) (l : Nat) : Dev :=
  match marginFrame d t l with
  | some f =>
    if getF d (lyrPg t l) LYR.LYR_STAT_FAILED == 0 then
      clearE (setF d (lyrPg t l) LYR.LYR_STAT_RET_MARGIN (margins.getD l 0).toNat) t f
    else d
  | none => d

/-- A pass ends, with the retention margins it measured, and the next one starts. -/
def scrubPass (t : Nat) (margins : List (BitVec 3)) (d : Dev) : Dev :=
  let s := scrub d t
  let now := mget 0 d.ticks (regionDie t)
  let fresh : Scrub := { Scrub.init with running := true, start := now, last := s.last }
  if (tower d t).hold || getF d (rgnPg t) RGN.RGN_STAT_STATE != 1 then d
  else if !s.running then setScrub d t fresh
  else if scrubNext d t (Config.pages d.kind) s.page < Config.pages d.kind || s.block != 0 then d
  else
    let d := count (setScrub d t { fresh with last := (now - s.start) / 10 ^ 8 }) (scrbPg t) SCRB.PASSES 1
    (List.range (Config.layers d.kind)).foldl (measureLayer t margins) d

/-- A pass falls more than an hour behind (R418). -/
def scrubBehind (t : Nat) (d : Dev) : Dev :=
  let s := scrub d t
  if !s.running || s.behind then d
  else
    bark (setScrub d t { s with behind := true }) 0x2801 (scrbPg t) (regionDie t) 1 none none
      ([BitVec.ofNat 8 t] ++ leBytes 2 s.page)

/-! ## Spare inventories (R349) -/

/-- INV and USED of sites, frames, bundle lanes and peer channel lanes. -/
def sprSites (d : Dev) : Nat × Nat :=
  (sumOf ((List.range 128).map (fun k => getF d (packPg k) PACK.PACK_INV_SPARE_INV)),
    sumOf ((List.range 128).map (fun k => getF d (packPg k) PACK.PACK_INV_SPARE_USED)))
def sprFrames (d : Dev) : Nat × Nat :=
  (32 * Config.spareFrames d.kind, sumOf ((List.range 32).map (fun t => spareUsed d t)))
def sprBundle (d : Dev) : Nat × Nat :=
  (34816, sumOf ((List.range 32).map (fun t => sumOf ((List.range 136).map (fun b =>
    sumOf ((List.range 8).map (fun g => (bypassOf (link d t (64 + b)) t (64 + b) g).isSome.toNat)))))))
def sprPeer (d : Dev) : Nat × Nat :=
  (992, sumOf ((List.range 32).map (fun i => sumOf ((List.range 32).map (fun j =>
    if i == j then 0
    else (bypassOf (link d i j) i j 0).isSome.toNat)))))

/-! ## Ageing (R420 to R422) -/

/-- CREEP of a comb against the baseline of its mode, 0.1 %. -/
def combCreep (d : Dev) (c : Nat) : Nat :=
  let b := if combState d c == 2 then (Config.combBase c true).toNat else (Config.combBase c false).toNat
  if combState d c == 0 || combState d c == 3 || b == 0 then 0 else getF d (optPg 0) (combBias c) * 1000 / b

def lasrPg (c : Nat) : Nat := LASR.page.pg c

/-- CREEP is shown and, at 130 %, barked. -/
def showCreep (c : Nat) (d : Dev) : Dev :=
  let v := combCreep d c
  let was := getF d (lasrPg c) LASR.LASR_STAT_CREEP
  let d := setF d (lasrPg c) LASR.LASR_STAT_CREEP v
  if v ≥ 1300 && was < 1300 then
    bark d 0x1801 (lasrPg c) (lead d) 1 none none ([BitVec.ofNat 8 c, 0] ++ leBytes 2 v)
  else d

/-- Least near-via slack of the 128 pairs measured, with what the ageing guard adds removed (R420); pairs 16k to 16k + 15 stand on die k. -/
def pathSample (d : Dev) (slacks : List Int) : Int :=
  let ss := ((List.range slacks.length).zip slacks).map (fun x =>
    x.2 - (getF d (clkPg (x.1 / 16)) CLK.CLK_VOLT_G : Int) * (Config.slackPerMv (x.1 / 16) : Int))
  ss.foldl min (ss.headD 0)

/-- Least margin of the bundles' lanes at their last Measure phase, % (R420); 100 where none has been measured (log entry 122). -/
def bundleEye (d : Dev) : Nat :=
  ((List.range 4352).map (fun i =>
    let l := link d (i / 136) (64 + i % 136)
    (lowestMargin l.near.margins l.far.margins).2)).foldl min 255 |> fun m => if m == 255 then 100 else m

/-- Least receive margin over both ports' lanes, % (R420). -/
def nartaEye (a b : List (BitVec 8)) : Nat := (a ++ b).foldl (fun m x => min m x.toNat) 255

/-- Samples of the ten indicators by code, less 1. -/
def ageValues (d : Dev) (slacks : List Int) (a b : List (BitVec 8)) : List Int :=
  let free (x : Nat × Nat) : Int := (x.1 : Int) - (x.2 : Int)
  let margins := (List.range 32).flatMap (fun t => (List.range (Config.layers d.kind)).map (fun l =>
    getF d (lyrPg t l) LYR.LYR_STAT_RET_MARGIN))
  let v := sprBundle d
  let o := sprPeer d
  let lanes := if free v * (o.1 : Int) ≤ free o * (v.1 : Int) then free v else free o
  [pathSample d slacks, (margins.foldl min 7 : Nat), (max (combCreep d 0) (combCreep d 1) : Nat), bundleEye d, nartaEye a b, free (sprSites d),
    free (sprFrames d), lanes, (lifeCycles d : Nat), (lifeJoules d : Nat)]

/-- End values. -/
def ageEnds (d : Dev) : List Int :=
  let b := sprBundle d
  let o := sprPeer d
  let free (x : Nat × Nat) : Int := (x.1 : Int) - (x.2 : Int)
  let lanes := if free b * (o.1 : Int) ≤ free o * (b.1 : Int) then b.1 else o.1
  [10 * (getF d (clkPg (lead d)) CLK.CLK_AGE_SLACK_MIN : Int) - 25 * (Config.slackPerMv (lead d) : Int), 1, 1500,
    (getF d (optPg 0) OPT.MARGIN_THR : Nat), 10, ((sprSites d).1 / 4 : Nat), ((sprFrames d).1 / 4 : Nat), (lanes / 4 : Nat),
    40000, 900000000000]

def agesUp (code : Nat) : Bool := code == 3 || code == 9 || code == 10
def agesByUse (code : Nat) : Bool := code ≥ 6

/-- The largest number of days up to 65,535 that satisfies a test which holds of 0 and once false stays false. -/
def lastDay (ok : Nat → Bool) : Nat → Nat → Nat → Nat
  | 0, lo, _ => lo
  | f + 1, lo, hi =>
    let m := (lo + hi) / 2
    if hi ≤ lo + 1 then lo else if ok m then lastDay ok f m hi else lastDay ok f lo m

def daysWhile (ok : Nat → Bool) : Nat := lastDay ok 20 0 65536

def natRat (n : Nat) : Rat := (n : Rat)
def intRat (n : Int) : Rat := (n : Rat)

/-- Whole days at a rate towards the end value. -/
def daysAt (rem rate : Rat) : Nat := daysWhile (fun m => decide (natRat m * rate ≤ rem))

/-- Least squares over samples in powered days: slope, and the square of its standard error. -/
def fitLine (xs : List (Rat × Rat)) : Rat × Rat :=
  let n := natRat xs.length
  let mx := sumRat (xs.map (·.1)) / n
  let my := sumRat (xs.map (·.2)) / n
  let sxx := sumRat (xs.map (fun p => (p.1 - mx) * (p.1 - mx)))
  let sxy := sumRat (xs.map (fun p => (p.1 - mx) * (p.2 - my)))
  let syy := sumRat (xs.map (fun p => (p.2 - my) * (p.2 - my)))
  if sxx == 0 then (0, 0)
  else
    let s := sxy / sxx
    (s, (syy - s * sxy) / ((n - 2) * sxx))

/-- DAYS, LOW and HIGH of a trend (R421): a bound m (s ± 2e) ≤ remaining is tested without the root in e. -/
def trendDays (rem s e2 : Rat) : Nat × Nat × Nat :=
  let gap (m : Nat) : Rat := rem - natRat m * s
  let err (m : Nat) : Rat := (4 : Rat) * e2 * natRat m * natRat m
  (daysAt rem s, daysWhile (fun m => decide (0 ≤ gap m) && decide (err m ≤ gap m * gap m)),
    daysWhile (fun m => decide (0 ≤ gap m) || decide (gap m * gap m ≤ err m)))

/-- DAYS, LOW and HIGH of a use. -/
def useDays (rem rAll r30 : Rat) : Nat × Nat × Nat :=
  (daysAt rem rAll, daysAt rem (max rAll r30), daysAt rem (min rAll r30))

/-- Prediction of an indicator from its samples, oldest first, at a powered second (R421). -/
def predict (code : Nat) (ends : Int) (base now : Nat) (xs : List (Nat × Int)) : Nat × Nat × Nat :=
  let vs := xs.map (fun x => (natRat x.1 / (86400 : Rat), intRat (if agesUp code then x.2 else - x.2)))
  let last := (vs.getLast?.map (·.2)).getD 0
  let lim := intRat (if agesUp code then ends else - ends)
  let rem := if lim ≤ last then (0 : Rat) else lim - last
  if xs.length < 8 || now < base + 2592000 then (65535, 65535, 65535)
  else if agesByUse code then
    let day := natRat (now - base) / (86400 : Rat)
    let first := (vs.head?.map (·.2)).getD 0
    let then_ := ((vs.filter (fun v => decide (v.1 + 30 ≤ natRat now / (86400 : Rat)))).getLast?.map (·.2)).getD first
    useDays rem ((last - first) / day) ((last - then_) / (30 : Rat))
  else
    let (s, e2) := fitLine vs
    trendDays rem s e2

/-- AGEING_SAMPLE (R420): each indicator is sampled into the life log with its prediction, and the weakest is named. -/
def ageingSample (slacks : List Int) (a b : List (BitVec 8)) (d : Dev) : Dev :=
  if bootPhase d != 9 then d
  else
    let d := showCreep 1 (showCreep 0 d)
    let now := powered d (lead d)
    let vals := ageValues d slacks a b
    let ends := ageEnds d
    let base := d.ageing.base
    let add (m : Map (List (Nat × Int))) (c : Nat) : Map (List (Nat × Int)) :=
      mupd [] m c (· ++ [(now, vals.getD (c - 1) 0)])
    let codes := (List.range 10).map (· + 1)
    let d := { d with ageing := { d.ageing with samples := codes.foldl add d.ageing.samples } }
    let preds := codes.map (fun c =>
      (c, match base with
        | some b => predict c (ends.getD (c - 1) 0) b now (mget [] d.ageing.samples c)
        | none => (65535, 65535, 65535)))
    let d := preds.foldl (fun d p =>
      life d 2 0 ([BitVec.ofNat 8 p.1, 0, 0, 0] ++ leBytes 8 ((vals.getD (p.1 - 1) 0) % 2 ^ 64).toNat ++ leBytes 2 p.2.1 ++
        leBytes 2 p.2.2.1 ++ leBytes 2 p.2.2.2)) d
    let some_ : Bool := match base with
      | some b => decide ((mget [] d.ageing.samples 1).length ≥ 8) && decide (now ≥ b + 2592000)
      | none => false
    let w := preds.foldl (fun (m : Nat × Nat × Nat × Nat) p => if p.2.1 < m.2.1 then p else m) (preds.headD (0, 65535, 65535, 65535))
    let w := if some_ then w else (0, 65535, 65535, 65535)
    let d := setF d lifePg LIFE.LIFE_STAT_WEAKEST w.1
    let d := setF (setF (setF d lifePg LIFE.LIFE_PRED_DAYS w.2.1) lifePg LIFE.LIFE_PRED_LOW w.2.2.1) lifePg
      LIFE.LIFE_PRED_HIGH w.2.2.2
    let due : Bool := match d.ageing.barked with
      | some t => decide (now ≥ t + 86400)
      | none => true
    if w.2.1 < 365 && due then
      bark { d with ageing := { d.ageing with barked := some now } } 0x0801 lifePg (lead d) 1 none none
        ([BitVec.ofNat 8 w.1, 0] ++ leBytes 2 w.2.1 ++ leBytes 2 w.2.2.1)
    else if w.2.1 < 365 then d
    else { d with ageing := { d.ageing with barked := none } }

end Sys2Proof.Machine
end

