-- ==== Sys2Proof/Machine/Drain.lean ====
section
/-!
DEFINITION. The package warm and cold resets: the request, the drain and its end, the pins, and the watchdog (R351 to R353,
R365, R366, R401, R470, R471).
-/
namespace Sys2Proof.Machine

/-- Does any compute die read above 85 °C (R401)? -/
def diesHot (d : Dev) : Bool := (List.range 8).any (fun k => decide (zoneTemp d k > 1360))

/-- A package reset with a drain is requested: it waits for smaller scopes (R353). A warm start is counted from the request
(R342). -/
def startDrain (cold : Bool) (cause : Nat) (d : Dev) : Dev :=
  { d with drain := some ⟨cold, cause, none, false, false, false, d.heat.stopped, (0, 0)⟩, boot := { d.boot with ticks := 0 } }

def mayDrain (d : Dev) : Bool := d.drain.isNone && bootPhase d == 9

/-- WARM written to RST_CMD, or WARM_REQ on the PKG page: `pg` is the page written. -/
def warmReset (pg : Nat) (d : Dev) : Dev × Nat :=
  if !mayDrain d || diesHot d then (notNow d pg, stNotNow) else (startDrain false 5 d, stOk)

/-- COLD written to RST_XCMD (R366): while a warm reset runs it waits until that has ended, the start of the dies included (R353). -/
def coldReset (d : Dev) : Dev × Nat :=
  match d.drain with
  | some x => if x.cold || x.thenCold then rstRefused d else ({ d with drain := some { x with thenCold := true } }, stOk)
  | none => if bootPhase d == 9 then (startDrain true 4 d, stOk) else rstRefused d

/-- A start has ended, and a cold reset that waited for it goes on (R353). -/
def coldPump (d : Dev) : Dev :=
  if d.boot.coldNext && mayDrain d then startDrain true 4 { d with boot := { d.boot with coldNext := false } } else d

/-- The firmware watchdog requests a warm reset. -/
def watchdog (d : Dev) : Dev := if mayDrain d then startDrain false 6 d else d

/-- A plan load that a package reset meets fails with RESET. -/
def stopLoads (d : Dev) : Dev :=
  d.jobs.foldl (fun d x =>
    match x.2 with
    | some j =>
      match j.kind with
      | .plan p => planReadFails { d with jobs := mput none d.jobs x.1 none } p stReset
      | _ => d
    | none => d) d

/-- Steps 1 and 2 of R365: every partition is quiesced, and its live records fail. -/
def drainBegins (x : Drain) (d : Dev) : Dev :=
  let ps := (List.range 8).filter (planLoaded d)
  let s := ps.foldl (fun (s : Dev × Nat × Nat) p =>
    let (d, a, b) := quiesce p s.1
    (failRecords d p stReset, s.2.1 + a, s.2.2 + b)) (stopLoads d, 0, 0)
  { s.1 with drain := some { x with begun := true, reconciled := false, tally := s.2 } }

/-- Every ring fails what has not started, reading its SQ up to the tail. -/
def drainRings (d : Dev) : Dev :=
  ringsPump ((d.rqs.map (·.1)).foldl (fun d k => abortRing d (k / 64) (k % 64) stReset) d)

def ringEmpty (r : RingQ) : Bool := r.order.isEmpty && r.held.isEmpty && (!rqOn r || (!r.reading && r.head == r.tail))

/-- No host request of a port is left without its LAST completion, beside the one that waits for the drain itself. -/
def portEmpty (x : Drain) (h : Nat) (d : Dev) : Bool :=
  let n := narta d h
  n.rx.isEmpty && n.flushes.isEmpty &&
    n.tags.all (fun t => t.2.isNone || cplQueued d h t.1 || (match x.cpl with | some (g, tag) => g == h && tag == t.1 | none => false))

/-- Is the drain complete: completions written, host requests completed, energy reconciled, accounts and batches closed
(R365, R455)? -/
def drainDone (x : Drain) (d : Dev) : Bool :=
  d.rqs.all (fun r => ringEmpty r.2) && portEmpty x 0 d && portEmpty x 1 d &&
    (List.range 32).all (fun t => (hostWaiting d t).isEmpty && (walkWaiting d (t * 2 ^ 36) (2 ^ 36)).isEmpty) &&
    x.reconciled && (terminalAccts d).isEmpty && d.batch.isEmpty && (d.batches.isEmpty || !canSign d true)

/-- Every record still live as the walkers restart fails with RESET; no ring is enabled, so its mirror waits under PENDING (R260). R365 has already
failed those of loaded partitions in the drain (log entry 111). -/
def walkersRestart (d : Dev) : Dev := (List.range 8).foldl (fun d p => failRecords d p stReset) d

/-- The drain ends: the log is written, the reset is reported, its CPL is sent, and the dies start again. -/
def drainEnds (x : Drain) (d : Dev) : Dev :=
  let d := logResidues (lifeSummary (noteDurable d))
  let d := pumpBarks (resetEnds (if x.cold then 5 else 4) 0 x.tally.1 x.tally.2 none d)
  let d := match x.cpl with
    | some (h, tag) => sendCpl d h tag 0 stOk true []
    | none => d
  if x.cold then bootDies (coldState x.cause d)
  else
    let d := walkersRestart (bootDies (warmState x.cause d))
    { d with boot := { d.boot with coldNext := x.thenCold } }

/-- A package reset goes on as far as it can. -/
def drainPump (d : Dev) : Dev :=
  let d := coldPump d
  match d.drain with
  | none => d
  | some x =>
    if !x.begun then
      if (List.range 32).any (fun t => (tower d t).hold) || !d.rstWait.isEmpty then d else drainRings (drainBegins x d)
    else
      let d := drainRings d
      if drainDone x d then drainEnds x d else d

/-- A completion that has found no place for 1 s is sent as bark 0x0E02 (R365). -/
def cplAsBark (p q : Nat) (c : Cpl) (d : Dev) : Dev :=
  let d := count d rstPg RST.CPL_AS_BARK 1
  bark d 0x0E02 rstPg (lead d) 2 (some p) (some c.status)
    (leBytes 4 c.seq ++ [BitVec.ofNat 8 q] ++ leBytes 2 c.sqIdx ++ [BitVec.ofNat 8 c.stream.toNat] ++ leBytes 3 c.record ++
      [BitVec.ofNat 8 (c.old % 16 * 16 + c.new % 16)])

/-- The held completions of a ring go as barks, and descriptors it cannot read are given up. -/
def drainTimeout (p q : Nat) (d : Dev) : Dev :=
  match d.drain with
  | none => d
  | some x =>
    if !x.begun then d
    else
      let r := rq d p q
      let d := r.held.foldl (fun d c => cplAsBark p q c d) d
      let r' := r.held.foldl endItem r
      let d := { d with jobs := d.jobs.filter (fun y => match y.2 with
        | some j => j.kind != .desc p q
        | none => false) }
      setRq d p q { r' with held := [], reading := false, tail := r.head, abortN := 0 }

/-! ## Pins (R317, R470, R471) -/

/-- Does a low pulse of `ns` act? Below 100 ns never, from 1 µs always, between the two as it may. -/
def pulseActs (ns : Nat) (d : Dev) : Dev × Bool :=
  if ns < 100 then (d, false)
  else if ns ≥ 1000 then (d, true)
  else ({ d with freeN := d.freeN + 1 }, Config.freeBit d.freeN)

/-- COLD_RST_N is asserted: it alone releases THERMTRIP_N (R472). -/
def coldPin (ns : Nat) (d : Dev) : Dev :=
  match pulseActs ns d with
  | (d, true) => { pinReset 1 d with thermtrip := false }
  | (d, false) => d

/-- The reference is lost. -/
def refclkLost (d : Dev) : Dev := pinReset 3 d

end Sys2Proof.Machine
end

