-- ==== Sys2Proof/Machine/Pages.lean ====
section
/-!
DEFINITION. The control pages: the common header, what each register reads, reserved codes, the lock, PAGE_STATE, and what a
write does (R296 to R316, and the register tables of every chapter).
-/
namespace Sys2Proof.Machine

/-! ## The common header (R297) -/

def pageInst (t : PageType) (pg : Nat) : Nat := pg - t.first
/-- LEVEL: the trunk's WHS page stands at the package (R303). -/
def pageLevel (t : PageType) (i : Nat) : Nat := if t.code == 0x2A && i == 32 then 5 else t.level
def pageId (t : PageType) (i : Nat) : Nat := t.code * 2 ^ 24 + pageLevel t i * 2 ^ 20 + i
def pageCaps (t : PageType) : Nat := t.table.toNat * 2 + t.expert.toNat
def pageKey (t : PageType) (i : Nat) : Nat := Nat.xor (pageId t i) 0xA5A5
def remainOf (d : Dev) (pg : Nat) : Nat := mget 0 d.guards pg
def pageUnlocked (d : Dev) (pg : Nat) : Bool := remainOf d pg > 0

/-- Region or tower of an instance, for the pages of a region. -/
def pageRegion (code i : Nat) : Option Nat :=
  match code with
  | 0x22 | 0x23 | 0x24 | 0x25 | 0x26 | 0x27 | 0x28 | 0x29 => some i
  | 0x2A => if i < 32 then some i else none
  | 0x2B => some (i / 4)
  | 0x2C => some (i / 16)
  | 0x2D => some (i / 32)
  | 0x2E => some (i / 128)
  | _ => none

/-- Compute die of an instance. -/
def pageDie (code i : Nat) : Option Nat :=
  match code with
  | 0x19 | 0x1B | 0x1C | 0x1D | 0x1E => some i
  | 0x1F => some (i / 2)
  | 0x20 => if i < 40 then some (i % 8) else none
  | 0x21 => if i < 8 then some i else if i < 40 then some ((i - 8) / 4) else none
  | _ => (pageRegion code i).map regionDie

/-- PAGE_STATE of a page (R297, R318, R338, R359, R368): 0 ABSENT, 1 ACTIVE, 2 HEEL, 3 MUZZLED, 4 RESET, 5 TEST_ONLY. -/
def pageState (d : Dev) (code i : Nat) : Nat :=
  let early := code == 0x01 || code == 0x07 || code == 0x08 || code == 0x09
  let dieSt := ((pageDie code i).map (fun k => getF d (diePg k) DIE.DIE_STAT_STATE)).getD 2
  let rgn := ((pageRegion code i).map (fun r => getF d (rgnPg r) RGN.RGN_STAT_STATE)).getD 1
  let held := ((pageRegion code i).map (fun r => (tower d r).hold)).getD false
  if bootPhase d != 9 && !early then 4
  else if dieSt == 3 then 5
  else if code == 0x2C && decide (i % 16 ≥ Config.layers d.kind) then 0
  else if code == 0x2E && (siteOf d i).isNone then 0
  else if code == 0x2D && !bit (getF d (xbarPg (i / 32)) XBAR.XBAR_STAT_SLICE_GOOD) (i % 32) then 0
  else if rgn == 0 && code != 0x22 then 4
  else if held && (code == 0x23 || code == 0x24 || code == 0x28 || code == 0x2C) then 4
  else if rgn == 3 && (code == 0x22 || code == 0x24) then 3
  else if code == 0x2E then
    match (core d i).st with
    | .muzzled => 3
    | .heel => 2
    | _ => 1
  else if code == 0x24 then (if (floor d i).st == .heel then 2 else 1)
  else 1

/-! ## What registers read -/

/-- A word with some of its fields replaced. -/
def withFields (w : Word64) (fs : List (Fld × Nat)) : Word64 := fs.foldl (fun w x => withField w x.1 x.2) w
def word64 (fs : List (Fld × Nat)) : Word64 := withFields 0 fs
/-- Two's complement in `w` bits. -/
def bitsOfInt (w : Nat) (v : Int) : Nat := (v % (2 ^ w : Int)).toNat
/-- Whole degrees of a temperature in 1/16 °C, rounded down. -/
def degrees (v : Int) : Nat := bitsOfInt 8 (v / 16)
def maxNat (l : List Nat) : Nat := l.foldl max 0
def maxInt (l : List Int) : Int := match l with | [] => 0 | x :: r => r.foldl max x
/-- Bytes of a word in a register of bytes. -/
def byteWord (f : Nat → Nat) (first : Nat) : Word64 := BitVec.ofNat 64 (leNat ((List.range 8).map (fun j => BitVec.ofNat 8 (f (first + j)))))

def coresPresent (d : Dev) (ns : List Nat) : Nat := (ns.filter (fun n => (siteOf d n).isSome)).length

def readPkg (d : Dev) (off : Nat) (w : Word64) : Word64 :=
  if off == 0x110 then withFields w [(PKG.PKG_UNITS_LOGICAL_CORES, coresPresent d (List.range 4096))]
  else if off == 0x118 then
    withFields w [(PKG.PKG_MEM_PAGES_UNBACKED, sumOf ((List.range 32).map (pagesUnbacked d)))]
  else w

def readThm (d : Dev) (off : Nat) (w : Word64) : Word64 :=
  if off == 0x100 then
    withFields w [(THM.THM_STAT_DIE_MAX, degrees (maxInt ((List.range 8).map (zoneTemp d)))),
      (THM.THM_STAT_TWR_MAX, degrees (maxInt ((List.range 32).map (fun t => zoneTemp d (8 + t))))),
      (THM.THM_STAT_OB_MAX, degrees (zoneTemp d 40)),
      (THM.THM_STAT_BAND_MAX, maxNat ((List.range 32).map (fun t => getF d (twrPg t) TWR.TWR_STAT_BAND))),
      (THM.THM_STAT_TIER_MAX, maxNat ((List.range 32).map (fun t => getF d (twrPg t) TWR.TWR_STAT_TIER))),
      (THM.THM_STAT_ALERT, d.alertPin.toNat)]
  else if off == 0x110 then BitVec.ofNat 64 ((List.range 1680).filter (fun n => (sensor d n).suspect)).length
  else if off == 0x600 then
    let s := sensor d (getF d thmPg THM.SENS_SEL_SENSOR)
    word64 [(THM.SENS_VAL_SUSPECT, s.suspect.toNat), (THM.SENS_VAL, bitsOfInt 16 s.val)]
  else w

def readEvt (d : Dev) (off : Nat) (w : Word64) : Word64 :=
  if off == 0x100 then
    word64 [(EVT.EVT_STAT_TAIL, d.evt.tail), (EVT.EVT_STAT_PHASE, d.evt.phase.toNat), (EVT.EVT_STAT_ENABLED, (evtOn d).toNat),
      (EVT.EVT_STAT_QUEUED, d.evt.queue.length)]
  else w

def readLedg (d : Dev) (off : Nat) (w : Word64) : Word64 :=
  if off == 0x100 then
    let n := getF d ledgPg LEDG.LEDG_SEL_RECORD
    let h := hkOf d n
    if (tower d (recTower n)).hold then 0
    else word64 [(LEDG.LEDG_REC_RING, h.ring), (LEDG.LEDG_REC_PART, h.part), (LEDG.LEDG_REC_PENDING, h.pending.toNat),
      (LEDG.LEDG_REC_BUSY, h.busy.toNat), (LEDG.LEDG_REC_STATE, h.state)]
  else if off == 0x108 then
    word64 [(LEDG.LEDG_SUM_PENDING_CNT, (d.hk.filter (fun x => x.2.pending)).length),
      (LEDG.LEDG_SUM_LIVE, (d.hk.filter (fun x => liveState x.2.state)).length)]
  else w

def readMetr (d : Dev) (off : Nat) (w : Word64) : Word64 :=
  if off == 0x100 then
    word64 [(METR.RCPT_STAT_TAIL, d.rcptTail), (METR.RCPT_STAT_PHASE, d.rcptPhase.toNat),
      (METR.RCPT_STAT_ENABLED, (rcptOn d).toNat)]
  else w

def readSec (d : Dev) (off : Nat) (w : Word64) : Word64 :=
  if off == 0x100 then withFields w [(SEC.SEC_STAT_ROLLBACK, rollbackOf d)]
  else if 0x140 ≤ off && off < 0x180 then BitVec.ofNat 64 (idWord ((off - 0x140) / 8))
  else if 0x180 ≤ off && off < 0x1C0 && !d.mkBanks.isEmpty then BitVec.ofNat 64 (mkWord ((off - 0x180) / 8))
  else w

def readLife (d : Dev) (off : Nat) (w : Word64) : Word64 :=
  if off == 0x110 then BitVec.ofNat 64 (powered d (getF d lifePg LIFE.LIFE_SEL_DIE))
  else if off == 0x118 then BitVec.ofNat 64 (lifeCycles d)
  else if off == 0x120 then BitVec.ofNat 64 (lifeJoules d)
  else w

def readKenl (d : Dev) (off : Nat) (w : Word64) : Word64 :=
  if 0x108 ≤ off && off < 0x128 then
    let n := getF d kenlPg KENL.KENL_SEL_RECORD
    if n < kennelRecords d then BitVec.ofNat 64 ((mget 0 d.kenl n).toNat / 2 ^ (8 * (off - 0x108)))
    else 0
  else w

/-- LOG_SEL counts back from the newest record. -/
def readFlsh (d : Dev) (off : Nat) (w : Word64) : Word64 :=
  if 0x108 ≤ off && off < 0x128 then
    BitVec.ofNat 64 (noteRecord d (getF d flshPg FLSH.NOTE_SEL_NOTE_IDX) / 2 ^ (8 * (off - 0x108)))
  else if 0x140 ≤ off && off < 0x180 then
    let n := getF d flshPg FLSH.LOG_SEL
    if n < d.log.length then BitVec.ofNat 64 ((d.log.getD (d.log.length - 1 - n) 0).toNat / 2 ^ (8 * (off - 0x140))) else 0
  else w

/-- Bit s of RUNNING stands while a reset of scope s runs. -/
def readRst (d : Dev) (off : Nat) (w : Word64) : Word64 :=
  if off == 0x100 then
    let holds := if (List.range 32).any (fun t => (tower d t).hold) then 4 else 0
    let parts := if d.rstWait.isEmpty then 0 else 8
    let pkg := match d.drain with
      | some x => if x.cold then 32 else 16
      | none => if bootPhase d == 9 then 0 else if d.boot.warm then 16 else 32
    withFields w [(RST.RST_STAT_RUNNING, holds + parts + pkg)]
  else w

def readRsa (d : Dev) (off : Nat) (w : Word64) : Word64 :=
  if off == 0x100 then withFields w [(RSA.RSA_STAT_WAITING, d.batches.length + d.report.isSome.toNat),
    (RSA.RSA_STAT_ENGINE, if bootPhase d == 9 then engineNow d else 0)] else w

/-- INV, USED and FREE of a kind of spare, in fields of 20 bits (R349). -/
def spareWord (x : Nat × Nat) : Word64 :=
  word64 [(SPR.SPR_SITES_INV, x.1), (SPR.SPR_SITES_USED, x.2), (SPR.SPR_SITES_FREE, x.1 - x.2)]
def readSpr (d : Dev) (off : Nat) (w : Word64) : Word64 :=
  if off == 0x100 then spareWord (sprSites d)
  else if off == 0x108 then spareWord (sprFrames d)
  else if off == 0x110 then spareWord (sprBundle d)
  else if off == 0x118 then spareWord (sprPeer d)
  else w

def readHlk (d : Dev) (h off : Nat) (w : Word64) : Word64 :=
  let n := narta d h
  if off == 0x040 then
    word64 [(HLK.HLK_CTL_SYS_PORT, homeOf d sysWho), (HLK.HLK_CTL_HOME, getF d (hlkPg 0) HLK.HLK_CTL_HOME)]
  else if off == 0x100 then
    word64 [(HLK.HLK_STAT_AGREED, n.agreed.toNat), (HLK.HLK_STAT_WIDTH, n.width), (HLK.HLK_STAT_STATE, n.st),
      (HLK.HLK_STAT_NEXT_SEQ, n.txNext), (HLK.HLK_STAT_ACCEPTED, accepted n)]
  else if off == 0x108 then
    word64 [(HLK.HLK_LANES_USABLE, (n.usable &&& ~~~n.failed).toNat), (HLK.HLK_LANES_FAILED, n.failed.toNat),
      (HLK.HLK_LANES_REVERSED, n.reversed.toNat)]
  else if off == 0x110 then
    word64 [(HLK.HLK_CREDIT_HELD_P, n.heldP), (HLK.HLK_CREDIT_HELD_N, n.heldN), (HLK.HLK_CREDIT_ADV_P, n.advP),
      (HLK.HLK_CREDIT_ADV_N, n.advN)]
  else if off == 0x118 then
    word64 [(HLK.HLK_TAGS_HOST_TAGS, (n.tags.filter (fun x => x.2.isSome)).length),
      (HLK.HLK_TAGS_DEV_TAGS, (n.reads.filter (fun x => x.2.isSome)).length)]
  else w

def readDie (d : Dev) (k off : Nat) (w : Word64) : Word64 :=
  let packs := (List.range 16).map (16 * k + ·)
  if off == 0x100 then (if d.boot.reset then withFields w [(DIE.DIE_STAT_STATE, 4)] else w)
  else if off == 0x108 then
    withFields w [(DIE.DIE_UNITS_LOGICAL, coresPresent d ((List.range 512).map (512 * k + ·)))]
  else if off == 0x110 then
    let sum (f : Fld) : Nat := sumOf (packs.map (fun p => getF d (packPg p) f))
    word64 [(DIE.DIE_SPARES_SPARE_INV, sum PACK.PACK_INV_SPARE_INV), (DIE.DIE_SPARES_SPARE_USED, sum PACK.PACK_INV_SPARE_USED),
      (DIE.DIE_SPARES_SPARE_FREE, sum PACK.PACK_INV_SPARE_FREE)]
  else if off == 0x118 then word64 [(DIE.DIE_FUSE_FIELD_FREE, 512 - (fuseBank d k).length)]
  else if 0xC00 ≤ off && off < 0xC40 then
    let base := 512 * k + 8 * (off - 0xC00)
    BitVec.ofNat 64 (sumOf ((List.range 64).map (fun j => if (siteOf d (base + j)).isSome then 2 ^ j else 0)))
  else w

def readPart (d : Dev) (p off : Nat) (w : Word64) : Word64 :=
  let r := rq d p (getF d (partPg p) PART.RING_SEL_RING)
  if off == 0x060 then r.cfg
  else if off == 0x068 then r.sqBase
  else if off == 0x070 then r.cqBase
  else if off == 0x118 then
    word64 [(PART.RING_STAT_CQ_TAIL, r.cqTail), (PART.RING_STAT_SQ_HEAD, r.head), (PART.RING_STAT_PHASE, r.phase.toNat),
      (PART.RING_STAT_ENABLED, (rqOn r).toNat)]
  else if off == 0x808 then BitVec.ofNat 64 r.issued
  else if off == 0x810 then BitVec.ofNat 64 r.completed
  else if off == 0x818 then BitVec.ofNat 64 r.failed
  else if off == 0x820 then BitVec.ofNat 64 (outstanding r)
  else if off == 0x828 then BitVec.ofNat 64 r.streamCpl
  else if 0x140 ≤ off && off < 0x180 && !planLoaded d p then 0
  else w

def readFuse (d : Dev) (k off : Nat) (w : Word64) : Word64 :=
  let bank := fuseBank d k
  if off == 0x100 then
    withFields w [(FUSE.FUSE_STAT_FACTORY_BAD, (fuseUnits d k).length),
      (FUSE.FUSE_STAT_FIELD_USED, bank.length)]
  else if 0xC00 ≤ off then
    let i := (off - 0xC00) / 4
    BitVec.ofNat 64 (bank.getD (i + 1) 0 * 2 ^ 32 + bank.getD i 0)
  else w

def readTzon (d : Dev) (z off : Nat) (w : Word64) : Word64 :=
  let x := zoneOf d z
  if off == 0x100 then withFields w [(TZON.TZON_STAT_HOLD, x.hold.toNat), (TZON.TZON_STAT_HIDDEN, x.hidden.toNat)]
  else if 0xC00 ≤ off then
    let i := (off - 0xC00) / 8
    let entry (m : Int) (a b : Sensor) (sus : Nat) : Word64 :=
      word64 [(TZON.ZONE_ENTRY_SUSPECT.at 0, sus), (TZON.ZONE_ENTRY_MODEL.at 0, bitsOfInt 16 m),
        (TZON.ZONE_ENTRY_S1.at 0, bitsOfInt 16 b.val), (TZON.ZONE_ENTRY_S0.at 0, bitsOfInt 16 a.val)]
    if z < 8 && i < 8 then
      let a := sensor d (twin z i 0)
      let b := sensor d (twin z i 1)
      entry (x.model.getD i 0) a b (a.suspect.toNat + 2 * b.suspect.toNat)
    else if 8 ≤ z && z < 40 && i < Config.layers d.kind then
      let s := 512 + 36 * (z - 8) + 2 * i
      entry (x.model.getD (1 + i) 0) (sensor d s) (sensor d (s + 1)) 0
    else 0
  else w

def readTwr (d : Dev) (t off : Nat) (w : Word64) : Word64 :=
  let x := tower d t
  if off == 0x100 then
    withFields w [(TWR.TWR_STAT_DEBT_MAX, bitsOfInt 5 (debtMax d t)), (TWR.TWR_STAT_PLAN, (x.place.any (fun y => y.2.isSome)).toNat)]
  else if off == 0x108 then
    word64 [(TWR.TWR_SPARE_SPARE_INV, Config.spareFrames d.kind), (TWR.TWR_SPARE_SPARE_USED, spareUsed d t),
      (TWR.TWR_SPARE_SPARE_FREE, spareFree d t), (TWR.TWR_SPARE_PAGES_UNBACKED, pagesUnbacked d t),
      (TWR.TWR_SPARE_COLS_FAILED, ((List.range 136).filter (colFailed d t)).length)]
  else if off == 0x110 then entry d t (getF d (twrPg t) TWR.MAP_SEL_PAGE)
  else if off == 0x600 then
    match x.sweep with
    | some s => word64 [(TWR.SWEEP_STAT_ACTIVE, 1), (TWR.SWEEP_STAT_BLOCK, s.block), (TWR.SWEEP_STAT_PAGE, s.page)]
    | none => 0
  else if off == 0x608 then word64 [(TWR.SUSPECT_CNT, x.suspect.length)]
  else if 0xC00 ≤ off && off < 0xD10 then
    let b := (off - 0xC00) / 2
    let col (b : Nat) : Nat :=
      (colFailed d t b).toNat * 2 ^ 15 + bitsOfInt 5 (column d t b).debt * 2 ^ 9 + colFree d t b
    BitVec.ofNat 64 (sumOf ((List.range 4).map (fun j => col (b + j) * 2 ^ (16 * j))))
  else w

def floorStCode : FloorSt → Nat
  | .heel => 0 | .run => 1 | .wait => 2 | .fault => 3

def readFlr (d : Dev) (t off : Nat) (w : Word64) : Word64 :=
  let f := floor d t
  if off == 0x100 then
    word64 [(FLR.FLR_STAT_CMD, f.cmd), (FLR.FLR_STAT_WAIT, f.wait), (FLR.FLR_STAT_TIER, f.tier),
      (FLR.FLR_STAT_STATE, floorStCode f.st)]
  else if off == 0x108 then
    word64 [(FLR.FLR_FAULT_COLUMN, f.faultCol), (FLR.FLR_FAULT_CMD, f.faultCmd), (FLR.FLR_FAULT_CODE, f.faultCode)]
  else if off == 0x110 then word64 [(FLR.FLR_SEQ_ENTRY, f.entry)]
  else w

/-- The list a port shows: a bank column with none serves host turns alone, a channel between partitions one END (R130). -/
def listOfPort (d : Dev) (r p : Nat) : Option (List (BitVec 32)) :=
  let x := port d r p
  let j := if p < 204 then p - 172 else p - 204
  if getF d (rgnPg r) RGN.RGN_STAT_STATE == 0 || p ≥ 236 then none
  else if p < 136 then some (portList p x)
  else if x.list.isSome then x.list
  else if p < 172 || noChannel r p then none
  else if (partOf d r).isNone || partOf d r != partOf d j then some stopList
  else none

/-- TOKEN of ORD_STAT: where the token of the port's list stands; in a join, that of the port which stands for it. A vertical channel has no list:
it reads 7 also while it is halted (DESIGN CHOICE, log entry 96: codes 6 and 7 both describe it). -/
def tokenCode (d : Dev) (r p : Nat) : Nat :=
  let x := port d r p
  let y := port d r (x.lead.getD p)
  let placed := match y.place with
    | .atPort => 0
    | .granting | .releasing => 1
    | .parked => 2
    | .held => 3
    | .joinWait => 4
  if (listOfPort d r p).isNone then 7
  else if x.halted then 6
  else if x.ended || (p ≥ 172 && x.list.isNone) then 5
  else placed

def readOrd (d : Dev) (r off : Nat) (w : Word64) : Word64 :=
  let p := getF d (ordPg r) ORD.ORD_SEL_PORT
  let x := port d r p
  let es := (listOfPort d r p).getD []
  if off == 0x100 then
    let e := (es[x.ent]?).getD 0
    word64 [(ORD.ORD_STAT_TURN, x.turn), (ORD.ORD_STAT_ENTRY, x.ent), (ORD.ORD_STAT_TOKEN, tokenCode d r p),
      (ORD.ORD_STAT_USER, if oeKind e == oeCore then oeUser e else 0), (ORD.ORD_STAT_KIND, oeKind e)]
  else if off == 0x110 then word64 [(ORD.ORD_OUT, ordOut d r)]
  else if 0xC00 ≤ off then
    let i := getF d (ordPg r) ORD.ORD_WIN_FIRST + (off - 0xC00) / 4
    BitVec.ofNat 64 ((es.getD (i + 1) 0).toNat * 2 ^ 32 + (es.getD i 0).toNat)
  else w

def linkStCode : LinkSt → Nat
  | .down => 0 | .training => 1 | .up => 2 | .widthRetrain => 3 | .loopBack => 4 | .lost => 5

/-- Frames of an outbound channel, or slots of a bundle, that this end has sent and not seen acknowledged. -/
def linkUnacked (d : Dev) (r v : Nat) : Nat :=
  if v < 32 then (chan d r v).unacked.length
  else if v < 64 then 0
  else (bundle d r (v - 64) true).unacked.length

/-- LAT: A-cycles per crossing of a bundle, 4 or at half width 8 (R222); the one-way latency of a channel. -/
def linkLatency (l : Link) (r v : Nat) : Nat :=
  if v < 64 then (Config.linkLat (linkKey r v)).toNat else if l.width == 0 then 4 else 8

def readOpt (d : Dev) (r off : Nat) (w : Word64) : Word64 :=
  let v := optLink d r
  let l := link d r v
  let e := getEnd l (!linkNear r v)
  if off == 0x100 then
    let spare := if v < 64 then (bypassOf l r v 0).isSome.toNat
      else sumOf ((List.range 8).map (fun g => if (bypassOf l r v g).isSome then 2 ^ g else 0))
    word64 [(OPT.LINK_STAT_LAT, linkLatency l r v), (OPT.LINK_STAT_SPARE_USED, spare),
      (OPT.LINK_STAT_AGREED, e.agreed.toNat), (OPT.LINK_STAT_WIDTH, l.width), (OPT.LINK_STAT_STATE, linkStCode l.st),
      (OPT.LINK_STAT_UNACKED, linkUnacked d r v)]
  else if off == 0x108 then
    word64 [(OPT.LINK_LANES_WEAKEST, l.weakest), (OPT.LINK_LANES_MARGIN_MIN, l.margin),
      (OPT.LINK_LANES_FAILED, ((getEnd l (laneFar r v)).failed.filter (·.2)).length)]
  else if off == 0x600 then
    word64 [(OPT.LOOP_STAT_RUNNING, (l.st == .loopBack).toNat), (OPT.LOOP_STAT_FRAMES, l.loopFrames)]
  else if 0xC00 ≤ off && off < 0xCC8 then
    let one (v : Nat) : Nat :=
      let l := link d r v
      if !linkOk r v then 0
      else l.width * 64 + (getEnd l (!linkNear r v)).agreed.toNat * 16 + linkStCode l.st
    byteWord one (off - 0xC00)
  else w

def readScrb (d : Dev) (t off : Nat) (w : Word64) : Word64 :=
  let s := scrub d t
  if off == 0x100 then
    let sec := if s.running then (mget 0 d.ticks (regionDie t) - s.start) / 10 ^ 8 else 0
    word64 [(SCRB.SCRB_STAT_BEHIND, s.behind.toNat), (SCRB.SCRB_STAT_PAGE, s.page), (SCRB.SCRB_STAT_ELAPSED, sec)]
  else if off == 0x108 then word64 [(SCRB.SCRB_LAST, s.last)]
  else w

def readWhs (d : Dev) (i off : Nat) (w : Word64) : Word64 :=
  let k := ringSel d i
  let x := ring d i k
  if off == 0x100 then BitVec.ofNat 64 (whsStat d i)
  else if off == 0x208 then word64 [(WHS.WHS_PEND_CRC, x.pendCrc.toNat)]
  else if off == 0x600 then word64 [(WHS.WHS_CHECK_AT, x.at_), (WHS.WHS_CHECK_RESULT, x.result)]
  else if off == 0x808 then BitVec.ofNat 64 x.frames
  else if off == 0x810 then BitVec.ofNat 64 x.used
  else if off == 0x818 then BitVec.ofNat 64 x.idle
  else if 0xC00 ≤ off && off < 0xD00 then byteWord (fun j => (mget (0 : BitVec 8) x.pend j).toNat) (off - 0xC00)
  else if 0xD00 ≤ off && off < 0xE00 then byteWord (fun j => (x.active.getD j 0).toNat) (off - 0xD00)
  else if 0xE00 ≤ off && off < 0xE40 then byteWord (weightByte d i k) (off - 0xE00)
  else w

def coreStCode : CoreSt → Nat
  | .heel => 0 | .run => 1 | .wait => 2 | .fault => 3 | .muzzled => 4

def readCore (d : Dev) (n off : Nat) (w : Word64) : Word64 :=
  let c := core d n
  let pg := corePg n
  if off == 0x100 then
    word64 [(CORE.CORE_STAT_PHASE, c.phase), (CORE.CORE_STAT_STEP, c.pc), (CORE.CORE_STAT_WAIT, c.wait),
      (CORE.CORE_STAT_STATE, coreStCode c.st)]
  else if off == 0x108 then
    match siteOf d n with
    | some s => word64 [(CORE.CORE_SITE_VALID, 1), (CORE.CORE_SITE_D, coreDie n), (CORE.CORE_SITE_G, coreRegion n % 4),
        (CORE.CORE_SITE_P, corePack n % 4), (CORE.CORE_SITE_S, s)]
    | none => 0
  else if off == 0x110 then word64 [(CORE.CORE_FAULT_STEP, c.faultStep), (CORE.CORE_FAULT_CODE, c.faultCode)]
  else if off == 0x118 then word64 [(CORE.CORE_PROG_ENTRY, c.entry), (CORE.CORE_PROG_DEPTH, c.loops.length)]
  else if off == 0x600 then
    let l := getF d pg CORE.LEASH_SEL_LINK
    let b := elasticHeld d n l
    word64 [(CORE.LEASH_STAT_DEPTH, elasticDepth l), (CORE.LEASH_STAT_BUFFERED, b), (CORE.LEASH_STAT_HELD, elasticDepth l - b)]
  else if off == 0x608 then
    let y := mget SyncLink.none c.sync (getF d pg CORE.SYNC_SEL_LINK)
    word64 [(CORE.SYNC_STAT_FAR_CORE, y.farCore), (CORE.SYNC_STAT_FAR_LINK, y.farLink), (CORE.SYNC_STAT_DEPTH, y.depth),
      (CORE.SYNC_STAT_HELD, y.held)]
  else if off == 0x610 then
    BitVec.ofNat 64 (sumOf ((List.range 8).map (fun h => if (mget none c.toks h).isSome then 2 ^ h else 0)))
  else if off == 0x618 then BitVec.ofNat 64 (mget 0 c.addr (getF d pg CORE.ADDR_SEL_REG)).toNat
  else w

/-- The value a register of a page shows; a register that only stores reads what it holds. -/
def readReg (d : Dev) (code i pg off : Nat) : Word64 :=
  let w := getReg d pg off
  match code with
  | 0x01 => readPkg d off w
  | 0x03 => readThm d off w
  | 0x04 => readEvt d off w
  | 0x05 => readLedg d off w
  | 0x06 => readMetr d off w
  | 0x07 => readSec d off w
  | 0x08 => readLife d off w
  | 0x0A => readKenl d off w
  | 0x0B => readFlsh d off w
  | 0x0E => readRst d off w
  | 0x12 => readRsa d off w
  | 0x15 => readSpr d off w
  | 0x17 => readHlk d i off w
  | 0x19 => readDie d i off w
  | 0x1A => readPart d i off w
  | 0x1C => readFuse d i off w
  | 0x21 => readTzon d i off w
  | 0x23 => readTwr d i off w
  | 0x24 => readFlr d i off w
  | 0x25 => readOrd d i off w
  | 0x26 => readOpt d i off w
  | 0x28 => readScrb d i off w
  | 0x2A => readWhs d i off w
  | 0x2E => readCore d i off w
  | _ => w

/-- What a read of an assigned page returns (R297, R300). -/
def pageValue (d : Dev) (t : PageType) (pg off : Nat) : Word64 :=
  let i := pageInst t pg
  let st := pageState d t.code i
  if off == 0x000 then BitVec.ofNat 64 (pageId t i)
  else if off == 0x008 then 0x10000#64
  else if off == 0x010 then BitVec.ofNat 64 (pageCaps t)
  else if off == 0x018 then BitVec.ofNat 64 ((pageUnlocked d pg).toNat * 2 ^ 11 + remainOf d pg)
  else if off == 0x020 then BitVec.ofNat 64 st
  else if off < 0x040 then 0
  else if st == 0 then 0
  else readReg d t.code i pg off

/-! ## Writes -/

/-- Bits of a register that a write stores (R299). -/
def rwMask (fs : List Fld) (off : Nat) : Nat :=
  match fs with
  | [] => 0
  | f :: r =>
    let here := f.acc == .rw && (if f.cnt == 1 then f.off == off
      else f.stride ≥ 8 && f.off ≤ off && off < f.off + f.stride * f.cnt && (off - f.off) % f.stride == 0)
    Nat.lor (if here then (2 ^ f.w - 1) * 2 ^ f.lo else 0) (rwMask r off)

/-- The fields of a register that store take their new values; the others stand. -/
def storeRw (pg off : Nat) (v : Word64) (d : Dev) : Dev :=
  match pageTypeOf pg with
  | none => d
  | some t =>
    let m := BitVec.ofNat 64 (rwMask t.fields off)
    setReg d pg off ((getReg d pg off &&& ~~~m) ||| (v &&& m))

/-- Reserved codes and reserved values of the control registers (R300). -/
def reservedCode (d : Dev) (code i off : Nat) (v : Word64) : Bool :=
  let n := v.toNat
  let op := bits n 63 60
  let log2 (lo : Nat) : Bool := let l := bits n (lo + 4) lo; l < 4 || l > 16
  let nibbles (p : Nat → Bool) : Bool := (List.range 16).any (fun j => p (bits n (4 * j + 3) (4 * j)))
  match code, off with
  | 0x02, 0x040 => nibbles (· > 4)
  | 0x04, 0x040 => log2 4
  | 0x06, 0x040 => bits n 4 0 == 0 || bits n 4 0 > 20
  | 0x06, 0x048 => log2 4
  | 0x07, 0x040 => op > 1
  | 0x09, 0x048 => op > 2
  | 0x0A, 0x200 => !entOk (n % 2 ^ 32)
  | 0x0E, 0x040 => op > 2
  | 0x0E, 0x200 => op > 4
  | 0x0F, 0x200 => bits n 11 0 == 0 || bits n 11 0 > 3600
  | 0x11, 0x200 => op > 1
  | 0x14, 0x200 => bits n 15 0 > 150 || bits n 31 16 > 300
  | 0x16, 0x200 => bits n 7 0 < 15 || bits n 7 0 > 40 || bits n 11 8 == 0 || bits n 11 8 > 8
  | 0x17, 0x208 => n % 2 ^ 32 < 1000
  | 0x17, 0x210 => op > 3
  | 0x1A, 0x040 => op > 2
  | 0x1A, 0x060 => bits n 18 17 == 3 || log2 10 || log2 5
  | 0x20, 0x200 => let l := getF d (railPg i) RAIL.RAIL_STAT_LIMIT; bits n 15 0 > l || 2 * bits n 15 0 < l
  | 0x22, 0x200 => op > 1
  | 0x23, 0x040 => op > 3
  | 0x23, 0x200 => op > 1
  | 0x26, 0x200 => op > 5
  | 0x02, _ => 0x200 ≤ off && off < 0x240 && nibbles (· > 8)
  | _, _ => false

/-- Run an operation that answers a status, and keep the written value if it is OK. -/
def acting (pg off : Nat) (v : Word64) (r : Dev × Nat) : Dev × Nat :=
  if r.2 == stOk then (storeRw pg off v r.1, stOk) else r

/-- The status of an operation that counts its refusals on a page. -/
def counted (pg : Nat) (f : Dev → Dev) (d : Dev) : Dev × Nat :=
  let d' := f d
  (d', if getF d' pg notNowCnt == getF d pg notNowCnt then stOk else stNotNow)

def stored (pg off : Nat) (v : Word64) (d : Dev) : Dev × Nat := (storeRw pg off v d, stOk)
def refused (pg : Nat) (d : Dev) : Dev × Nat := (notNow d pg, stNotNow)

/-- W1S bits of a register, each with the action it starts, in ascending order of the bits. -/
def starting1 (v : Word64) (acts : List (Nat × (Dev → Dev × Nat))) (d : Dev) : Dev × Nat :=
  acts.foldl (fun s x =>
    if bit v.toNat x.1 then
      let (d, st) := x.2 s.1
      (d, if s.2 == stOk then st else s.2)
    else s) (d, stOk)

def writeThm (pg off : Nat) (v : Word64) (d : Dev) : Dev × Nat :=
  if off == 0x040 then starting1 v [(0, fun d => (alertAck d, stOk))] d
  else if off == 0x200 then starting1 v [(0, rebase)] d
  else if off == 0x208 && bits v.toNat 10 0 > 1679 then refused pg d
  else stored pg off v d

/-- EVT_CFG and EVT_BASE, or RCPT_CFG and RCPT_BASE: not while enabled; the tail and PHASE restart when ENABLE is set. -/
def writeRingCfg (pg off : Nat) (on : Bool) (restart : Dev → Dev) (cfg : Bool) (v : Word64) (d : Dev) : Dev × Nat :=
  if on then refused pg d
  else
    let d := storeRw pg off v d
    (if cfg && bit v.toNat 0 then restart d else d, stOk)

def writeEvt (pg off : Nat) (v : Word64) (d : Dev) : Dev × Nat :=
  if off == 0x040 || off == 0x048 then
    writeRingCfg pg off (evtOn d) (fun d => { d with evt := { d.evt with tail := 0, phase := true } }) (off == 0x040) v d
  else stored pg off v d

def writeMetr (pg off : Nat) (v : Word64) (d : Dev) : Dev × Nat :=
  if off == 0x048 || off == 0x050 then
    writeRingCfg pg off (rcptOn d) (fun d => { d with rcptTail := 0, rcptPhase := true }) (off == 0x048) v d
  else stored pg off v d

def writeBoot (pg off : Nat) (v : Word64) (d : Dev) : Dev × Nat :=
  if off == 0x048 then
    match bits v.toNat 63 60 with
    | 1 => acting pg off v (loadHost d)
    | 2 => acting pg off v (writeSlot (bits v.toNat 0 0) d)
    | _ => stored pg off v d
  else stored pg off v d

def writeRst (pg off : Nat) (v : Word64) (d : Dev) : Dev × Nat :=
  let op := bits v.toNat 63 60
  let target := bits v.toNat 11 0
  if off == 0x040 then
    match op with
    | 1 => acting pg off v (resetPartition (bits v.toNat 2 0) d)
    | 2 => acting pg off v (warmReset pg d)
    | _ => stored pg off v d
  else if off == 0x200 then
    match op with
    | 1 => acting pg off v (resetOneCore target d)
    | 2 => acting pg off v (resetPack target d)
    | 3 => acting pg off v (resetTower target d)
    | 4 => acting pg off v (coldReset d)
    | _ => stored pg off v d
  else stored pg off v d

def writeHlk (h pg off : Nat) (v : Word64) (d : Dev) : Dev × Nat :=
  if off == 0x040 then hlkCtl (bits v.toNat 7 0) (bits v.toNat 8 8) pg d
  else if off == 0x210 then
    match bits v.toNat 63 60 with
    | 1 => acting pg off v (fullTrain h d)
    | 2 => acting pg off v (hlkDisable h d)
    | 3 => acting pg off v (hlkEnable h d)
    | _ => stored pg off v d
  else stored pg off v d

def writePart (p pg off : Nat) (v : Word64) (d : Dev) : Dev × Nat :=
  if off == 0x040 then
    match bits v.toNat 63 60 with
    | 1 => acting pg off v (planLoad p d)
    | 2 => acting pg off v (planUnload p d)
    | _ => if getF d pg PART.PLAN_STAT_BUSY == 1 then refused pg d else stored pg off v d
  else if off == 0x060 then ringConfig p v d
  else if off == 0x068 then ringBase p false v d
  else if off == 0x070 then ringBase p true v d
  else if off == 0x078 then starting1 v [(0, fun d => (ringAbort p d, stOk))] d
  else if 0xC00 ≤ off then
    let q := (off - 0xC00) / 16
    if off % 16 == 0 then sqDoorbell p q (bits v.toNat 15 0) d else cqDoorbell p q (bits v.toNat 15 0) d
  else stored pg off v d

def writeTwr (t pg off : Nat) (v : Word64) (d : Dev) : Dev × Nat :=
  let n := v.toNat
  let op := bits n 63 60
  if off == 0x040 then
    if op == 0 then stored pg off v d
    else acting pg off v (twrCommand t op (bits n 14 0) (bits n 59 56) (bits n 55 53) d)
  else if off == 0x058 then starting1 v [(0, fun d => (latRestart t d, stOk))] d
  else if off == 0x200 then
    if op == 0 then stored pg off v d else acting pg off v (twrMigrate t (bits n 14 0) d)
  else stored pg off v d

def writeOpt (r pg off : Nat) (v : Word64) (d : Dev) : Dev × Nat :=
  if off == 0x200 then
    match bits v.toNat 63 60 with
    | 1 => acting pg off v (optRetrain r false d)
    | 2 => acting pg off v (optRetrain r true d)
    | 3 => acting pg off v (optLoop r false d)
    | 4 => acting pg off v (optLoop r true d)
    | 5 => acting pg off v (optLoopEnd r d)
    | _ => stored pg off v d
  else if off == 0x040 && !linkOk r (bits v.toNat 7 0) then refused pg d
  else stored pg off v d

/-- What a check found no longer holds of the selected ring (log entry 13). -/
def voidCheck (w : Nat) (d : Dev) : Dev := setRing d w (ringSel d w) { ring d w (ringSel d w) with result := 0, at_ := 0 }

/-- Eight bytes of a pending slot table. -/
def writePend (w first : Nat) (v : Word64) (d : Dev) : Dev :=
  let k := ringSel d w
  let x := ring d w k
  setRing d w k { x with pend := (List.range 8).foldl (fun m j =>
    mput (0 : BitVec 8) m (first + j) (BitVec.ofNat 8 (v.toNat / 2 ^ (8 * j)))) x.pend }

/-- Weights and reaches of eight stations. -/
def writeWeightWord (w first : Nat) (v : Word64) (d : Dev) : Dev :=
  let k := ringSel d w
  (List.range 8).foldl (fun d j =>
    let b := bits v.toNat (8 * j + 7) (8 * j)
    setWeight d w k (first + j) (b / 16) (b / 4)) d

def writeWhs (i pg off : Nat) (v : Word64) (d : Dev) : Dev × Nat :=
  if off == 0x040 then (if ringLegal i (bits v.toNat 2 0) then stored pg off v d else refused pg d)
  else if off == 0x200 then starting1 v [(0, whsCheck i), (1, whsTake i)] d
  else if off == 0x208 then
    let k := ringSel d i
    (voidCheck i (setRing d i k { ring d i k with pendCrc := BitVec.ofNat 32 v.toNat }), stOk)
  else if 0xC00 ≤ off && off < 0xD00 then (voidCheck i (writePend i (off - 0xC00) v d), stOk)
  else if 0xE00 ≤ off && off < 0xE40 then (voidCheck i (writeWeightWord i (off - 0xE00) v d), stOk)
  else (d, stOk)

/-- What a write that the page's state and lock allow does. -/
def writeReg (code i pg off : Nat) (v : Word64) (d : Dev) : Dev × Nat :=
  let n := v.toNat
  let op := bits n 63 60
  match code with
  | 0x01 => if off == 0x040 then starting1 v [(0, warmReset pg)] d else stored pg off v d
  | 0x02 =>
    let d := storeRw pg off v d
    ((List.range 8).foldl (fun d k => decide1 k d) d, stOk)
  | 0x03 => writeThm pg off v d
  | 0x04 => writeEvt pg off v d
  | 0x06 => writeMetr pg off v d
  | 0x07 =>
    if off == 0x040 && op == 1 then acting pg off v (attest d)
    else if off == 0x200 then starting1 v [(0, advanceRollback)] d
    else stored pg off v d
  | 0x08 => if off == 0x040 then noteTime v d else stored pg off v d
  | 0x09 => writeBoot pg off v d
  | 0x0A => if off == 0x200 then kenlAdd (n % 2 ^ 32) d else stored pg off v d
  | 0x0E => writeRst pg off v d
  | 0x10 => if off == 0x200 then starting1 v [(0, fun d => (setF d pg JTAG.JTAG_STAT_LOCKED 1, stOk))] d else stored pg off v d
  | 0x11 => if off == 0x200 && op == 1 then acting pg off v (katRun (bits n 4 0) [] d) else stored pg off v d
  | 0x14 => (coolantCheck (storeRw pg off v d), stOk)
  | 0x17 => writeHlk i pg off v d
  | 0x1A => writePart i pg off v d
  | 0x22 => if off == 0x200 && op == 1 then acting pg off v (muzzleUser i (bits n 6 0) d) else stored pg off v d
  | 0x23 => writeTwr i pg off v d
  | 0x24 =>
    if off == 0x040 then starting1 v [(0, counted pg (floorHeel i)), (1, counted pg (floorResume i))] d else stored pg off v d
  | 0x25 => if off == 0x040 && bits n 8 0 > 371 then refused pg d else stored pg off v d
  | 0x26 => writeOpt i pg off v d
  | 0x2A => writeWhs i pg off v d
  | 0x2E =>
    if off == 0x040 then starting1 v [(0, counted pg (coreHeel i)), (1, counted pg (coreResumeAt i))] d else stored pg off v d
  | _ => stored pg off v d

/-- May a register of this page be written at this offset: basic and expert control, and block tables (R296)? -/
def writable (off : Nat) : Bool := (0x040 ≤ off && off < 0x100) || (0x200 ≤ off && off < 0x600) || 0xC00 ≤ off

/-- Is an offset written only while the page is unlocked: expert control, and the block tables of a WHS page (R150, R296)? -/
def guarded (t : PageType) (off : Nat) : Bool := (0x200 ≤ off && off < 0x600) || (t.code == 0x2A && 0xC00 ≤ off)

/-- A write free of reserved codes against the page's state and lock; one that they allow does `act` (R298, R300). -/
def writeAllowed (t : PageType) (pg off : Nat) (v : Word64) (act : Dev → Dev × Nat) (d : Dev) : Dev × Nat :=
  let i := pageInst t pg
  let st := pageState d t.code i
  if st == 0 || st == 3 then refused pg d
  else if off == 0x018 then
    ({ d with guards := mput 0 d.guards pg (if v.toNat == pageKey t i then 1024 else 0) }, stOk)
  else if st == 4 then refused pg d
  else if guarded t off && !pageUnlocked d pg then refused pg d
  else if writable off then act d
  else (d, stOk)

def writeChecked (t : PageType) (pg off : Nat) (v : Word64) (d : Dev) : Dev × Nat :=
  writeAllowed t pg off v (writeReg t.code (pageInst t pg) pg off v) d

/-- An access to any offset but PAGE_GUARD lowers REMAIN (R298). -/
def lowerRemain (pg off : Nat) (d : Dev) : Dev :=
  if off == 0x018 then d else { d with guards := mput 0 d.guards pg (remainOf d pg - 1) }

/-- A write of a register from any source: the outcome, and the device after it. -/
def ctlWrite (pg off : Nat) (v : Word64) (d : Dev) : Dev × Nat :=
  match pageTypeOf pg with
  | none => (d, stMalformed)
  | some t =>
    let (d, st) :=
      if writable off && reservedCode d t.code (pageInst t pg) off v then (d, stMalformed) else writeChecked t pg off v d
    (lowerRemain pg off d, st)

/-- A read of a register from any source: what it returns. -/
def ctlRead (pg off : Nat) (d : Dev) : Dev × Nat × Word64 :=
  match pageTypeOf pg with
  | none => (d, stMalformed, 0)
  | some t => (lowerRemain pg off d, stOk, pageValue d t pg off)

end Sys2Proof.Machine
end

