-- ==== Sys2Proof/Machine/Sideband.lean ====
section
/-!
DEFINITION. The sideband: the SMBus target, the JTAG port and the pins PG_AUX and TRST_N (R232, R475 to R479, R481).
-/
namespace Sys2Proof.Machine

def smbPg : Nat := SMB.page.pg 0
def jtagPg : Nat := JTAG.page.pg 0

/-- Address of a register in the control window (R31). -/
def ctlAddr (pg off : Nat) : Nat := 0xF0000000000 + 4096 * pg + off

/-- Does a lead serve pages (R318, R321)? -/
def served (d : Dev) : Bool := d.boot.lead.isSome

/-- Reserved for a control access: no such page, or not one aligned word of it (R33, R34). -/
def ctlReserved (pg off : Nat) : Bool := (pageTypeOf pg).isNone || off % 8 != 0 || off ≥ 4096

/-- A read through the sideband, with the bark of R305 where its address is reserved. -/
def sideRead (src pg off : Nat) (shut : Bool) (d : Dev) : Dev × Nat × Word64 :=
  if ctlReserved pg off then (if served d then barkReserved d src (ctlAddr pg off) else d, stMalformed, 0)
  else if shut then (d, stMalformed, 0)
  else if !served d then (d, stNotNow, 0)
  else ctlRead pg off d

/-! ## SMBus target (R475, R476) -/

/-- Pages that the target reads whole; of the others it reads the common header (R301). -/
def smbShut (pg off : Nat) : Bool := off ≥ 0x040 && !(pg == 0 || pg == 1 || pg == 2 || pg == 7)

/-- Does the target acknowledge its address? It does while PG_AUX is asserted, which gave it the address (R467, R475). -/
def smbOn (d : Dev) : Bool := getF d smbPg SMB.SMB_STAT_ADDR != 0

/-- A transaction on the SMBus: one that the target does not acknowledge does nothing. -/
def smbBus (f : Dev → Dev) (d : Dev) : Dev := if smbOn d then f d else d

def smbCount (st : Nat) (d : Dev) : Dev := if st == stOk then d else count d smbPg SMB.SMB_REFUSED 1

/-- SET_ADDR: the register is read once, which SMB_READS counts, and the value kept for READ. -/
def smbSetAddr (pg off : Nat) (pec : Bool) (d : Dev) : Dev :=
  if !pec then count d smbPg SMB.SMB_PEC_FAILS 1
  else
    let (d, st, v) := sideRead smbPg pg off (smbShut pg off) d
    let d := { d with smb := some (st, v) }
    if st == stOk then count d smbPg SMB.SMB_READS 1 else count d smbPg SMB.SMB_REFUSED 1

/-- What READ returns: a status and the value last read. -/
def smbAnswer (d : Dev) : Nat × Word64 := d.smb.getD (stMalformed, 0)

def smbRead (pec : Bool) (d : Dev) : Dev :=
  if !pec then count d smbPg SMB.SMB_PEC_FAILS 1
  else smbCount (smbAnswer d).1 d

def smbStatus (pec : Bool) (d : Dev) : Dev := if pec then d else count d smbPg SMB.SMB_PEC_FAILS 1
def smbTimeout (d : Dev) : Dev := count d smbPg SMB.SMB_TIMEOUTS 1

/-- PG_AUX is asserted: the straps give the target's address. -/
def pgAux (a1 a0 : Bool) (d : Dev) : Dev := setF d smbPg SMB.SMB_STAT_ADDR (0x58 + 2 * a1.toNat + a0.toNat)

/-- A power-good input falls: with PG_AUX the target goes too (R471, R475). -/
def pinFalls (pin : PgPin) (ns : Nat) (d : Dev) : Dev :=
  match pulseActs ns d with
  | (d, true) =>
    let d := pinReset 2 d
    if pin == .aux then setF d smbPg SMB.SMB_STAT_ADDR 0 else d
  | (d, false) => d

/-! ## JTAG (R478, R479) -/

def jtagLocked (d : Dev) : Bool := getF d jtagPg JTAG.JTAG_STAT_LOCKED == 1

/-- An instruction is loaded: the port has left Test-Logic-Reset. -/
def jtagLoad (ir dr : Nat) (drive : Bool) (d : Dev) : Dev :=
  setF { d with jtag := { d.jtag with ir := ir, dr := dr, drive := drive } } jtagPg JTAG.JTAG_STAT_ACTIVE 1

/-- BYPASS: one bit, captured as 0. -/
def jtagBypass (code : Nat) (d : Dev) : Dev := jtagLoad code 0 false d

/-- The value of IDCODE. -/
def idcodeWord (d : Dev) : Nat :=
  getF d pkgPg PKG.PKG_INFO_REV % 16 * 2 ^ 28 + getF d pkgPg PKG.PKG_INFO_PART * 2 ^ 12 + 0x4D5 * 2 + 1

/-- EXTEST: the cells drive the sideband pins. -/
def extest (cells : BitVec 20) (d : Dev) : Dev :=
  let d := jtagLoad 0x00 d.jtag.cells.toNat true d
  { d with jtag := { d.jtag with cells := cells } }

/-- SAMPLE/PRELOAD: the pins are captured, and the cells take the values shifted in. -/
def samplePreload (sampled preload : BitVec 20) (d : Dev) : Dev :=
  let d := jtagLoad 0x01 sampled.toNat false d
  { d with jtag := { d.jtag with cells := preload } }

def jtagIdcode (d : Dev) : Dev := jtagLoad 0x02 (idcodeWord d) false d

/-- DIE_SEL: die 0 to 7, or 8 for the optical base. -/
def dieSel (sel : Nat) (d : Dev) : Dev :=
  if jtagLocked d then jtagBypass 0x10 d
  else
    let d := jtagLoad 0x10 d.jtag.sel false d
    { d with jtag := { d.jtag with sel := sel } }

/-- PAGE_READ: a read like any other, and of the DBG page of the selected die always. -/
def jtagPageRead (pg off : Nat) (d : Dev) : Dev :=
  if jtagLocked d then jtagBypass 0x11 d
  else
    let own := decide (d.jtag.sel < 8) && pg == dbgPg d.jtag.sel && !ctlReserved pg off
    let (d, st, v) := if own then ctlRead pg off d else sideRead jtagPg pg off false d
    count (jtagLoad 0x11 (st * 2 ^ 28 + v.toNat * 2 ^ 32) false d) jtagPg JTAG.PAGE_READS 1

/-- A die enters the stand-alone mode: one that is up leaves service as a unit that fails after start (R367). -/
def enterAlone (k : Nat) (d : Dev) : Dev :=
  let on := getF d jtagPg JTAG.JTAG_STAT_STANDALONE
  let d := if bit on k then d else setF d jtagPg JTAG.JTAG_STAT_STANDALONE (on + 2 ^ k)
  let d := setF d (dbgPg k) DBG.DBG_MODE_STANDALONE 1
  if !dieUp d k then d
  else
    let d := dieDown k d
    let d := if bootPhase d == 9 then muzzleDie k 7 d else d
    if getF d pkgPg PKG.PKG_INFO_PSTATE == 1 then setF d pkgPg PKG.PKG_INFO_PSTATE 2 else d

def standAlone (b : Bool) (d : Dev) : Dev :=
  if jtagLocked d then jtagBypass 0x12 d
  else
    let d := jtagLoad 0x12 0 false d
    if b && decide (d.jtag.sel < 8) then enterAlone d.jtag.sel d else d

/-- LOCK written to JTAG_XCTL. -/
def jtagLock (d : Dev) : Dev × Nat := ctlWrite jtagPg 0x200 1 d

/-- TRST_N: Test-Logic-Reset, which selects IDCODE. -/
def testReset (d : Dev) : Dev := { d with jtag := { d.jtag with ir := 0x02, dr := idcodeWord d, drive := false } }

end Sys2Proof.Machine
end

