-- ==== Sys2Proof/Machine/Stations.lean ====
section
/-!
DEFINITION. Stations of the whistle network that stop answering, and the stations at which pages and stewards stand (R143, R301,
R358, R362, R367).
-/
namespace Sys2Proof.Machine

/-- A tower base die that does not answer: firmware resets its tower, which is up and not in reset already (R358). -/
def towerSilent (t : Nat) (d : Dev) : Dev :=
  if d.drain.isSome || (tower d t).hold || getF d (rgnPg t) RGN.RGN_STAT_STATE != 1 then d else towerGo t d

/-- A station that does not answer is a unit that fails after start (R143): a core site is muzzled, the tower base die is reset (R358), a
region whose crossbar is silent is muzzled, a steward or a port fails (R322, R275). The controllers of the optical base and of the
flash have no form in which they fail (log entry 100). -/
def muzzleStation (d : Dev) (a : Nat) : Dev :=
  let r := stRegion a
  let k := stRing a
  let s := stStation a
  if k < 4 then (if s < 34 then muzzleSite d (4 * r + k) s 7 else d)
  else if k == 4 then (if s == 4 then towerSilent r d else if s == 5 then muzzleRegion d r 7 else d)
  else if k == 7 && 32 ≤ s && s < 48 then stewardFails ((s - 32) / 2) (s % 2) d
  else if k == 7 && (s == 48 || s == 49) && portUp d (s - 48) then failPort d (s - 48) psDown
  else d

/-- Does a message wait at the trunk for a tower in reset, its resends not counted (R362)? -/
def waitsAtTrunk (d : Dev) (dst : Nat) : Bool := stRing dst == 4 && stStation dst == 4 && (tower d (stRegion dst)).hold

/-- A message with no acknowledge is sent again, 8 times; then its destination has failed (R143). -/
def wResend (src dst seq : Nat) (d : Dev) : Dev :=
  let hit := fun (m : WMsg) => m.src == src && m.dst == dst && m.seq == seq
  match d.wmsgs.find? hit with
  | none => d
  | some m =>
    if waitsAtTrunk d dst then d
    else if m.resends < 8 then
      count (carry { d with wmsgs := d.wmsgs.map (fun m => if hit m then { m with resends := m.resends + 1 } else m) } src dst m.typ)
        (whsOf src) WHS.MSG_RESENDS 1
    else muzzleStation { d with wmsgs := d.wmsgs.filter (fun m => !hit m) } dst

/-! ## Stations of pages (R141, R301; log entry 100) -/

/-- Station of a Narta port. -/
def portStation (h : Nat) : Nat := stationAt 32 7 (48 + h)

/-- Station at which a page is served: a core's page at its site, a tower's own pages at its base die, the other pages of a region
at its crossbar, a die's at its acting steward, a port's at the port, those of the combs and the flash at their controllers, and
the rest at the lead's steward. -/
def pageStation (d : Dev) (pg : Nat) : Nat :=
  match pageTypeOf pg with
  | none => stewardStation d (lead d)
  | some t =>
    let i := pg - t.first
    if t.code == 0x2E then stationOf d i
    else if t.code == 0x23 || t.code == 0x24 || t.code == 0x28 then stationAt i 4 4
    else if t.code == 0x2C then stationAt (i / 16) 4 4
    else if t.code == 0x17 then portStation i
    else if t.code == 0x18 then stationAt 32 7 50
    else if t.code == 0x0B then stationAt 32 7 51
    else if 0x22 ≤ t.code && t.code ≤ 0x29 then stationAt i 4 5
    else if t.code == 0x2A then (if i < 32 then stationAt i 4 5 else stewardStation d (lead d))
    else if t.code == 0x2B then stationAt (i / 4) 4 5
    else if t.code == 0x2D then stationAt (i / 32) 4 5
    else if t.code == 0x19 || t.code == 0x1B || t.code == 0x1C || t.code == 0x1D || t.code == 0x1E then stewardStation d i
    else if t.code == 0x1F then stationAt 32 7 (32 + i)
    else stewardStation d (lead d)

end Sys2Proof.Machine
end

