-- ==== Sys2Proof/Machine/Requests.lean ====
section
/-!
DEFINITION. Host requests for control registers and host messages: CRD, CWR and the doorbells (R33, R34, R279, R284, R286).
-/
namespace Sys2Proof.Machine

/-- A control access that arrives at an address: the page and offset, or none where the address is reserved, not a control
page, or not one aligned word (R33, R34). -/
def ctlPlace (d : Dev) (a : Nat) : Option (Nat × Nat) :=
  match addrKind d.kind a with
  | .page pg off => if ctlReserved pg off then none else some (pg, off)
  | _ => none

/-- CRD, carried to its page's station as a page read message: one CPL, with 8 bytes of data when OK. -/
def crd (h : Nat) (d : Dev) : Dev :=
  match firstOf (narta d h) (fun x => tlpType x == tCrd) with
  | none => d
  | some r =>
    let d := takeRx d h r
    let x := r.tlp
    if badHeader x then sendCpl (count d (hlkPg h) HLK.BAD_REQ 1) h (tlpTag x) 0 stMalformed true []
    else
      match ctlPlace d (tlpAddr x) with
      | none => sendCpl (count (barkReserved d (hlkPg h) (tlpAddr x)) (hlkPg h) HLK.BAD_REQ 1) h (tlpTag x) 0 stMalformed true []
      | some (pg, off) =>
        let d := wServed d (portStation h) (pageStation d pg) wtPageRead
        let (d, st, v) := ctlRead pg off d
        sendCpl d h (tlpTag x) 0 st true (if st == stOk then leBytes 8 v.toNat else [])

/-- CWR, carried to its page's station as a page write message: after every earlier MWR of the port is performed. The CPL of a write that begins a package reset follows the drain. -/
def cwr (h : Nat) (d : Dev) : Dev :=
  match firstOf (narta d h) (fun x => tlpType x == tCwr) with
  | none => d
  | some r =>
    if !performed d h r.idx then d
    else
      let d := takeRx d h r
      let x := r.tlp
      if badHeader x then sendCpl (count d (hlkPg h) HLK.BAD_REQ 1) h (tlpTag x) 0 stMalformed true []
      else
        match ctlPlace d (tlpAddr x) with
        | none => sendCpl (count (barkReserved d (hlkPg h) (tlpAddr x)) (hlkPg h) HLK.BAD_REQ 1) h (tlpTag x) 0 stMalformed true []
        | some (pg, off) =>
          let d := wServed d (portStation h) (pageStation d pg) wtPageWrite
          let was := d.drain
          let (d, st) := ctlWrite pg off (BitVec.ofNat 64 (leNat x.data)) d
          match was, d.drain with
          | none, some y => { d with drain := some { y with cpl := some (h, tlpTag x) } }
          | _, _ => sendCpl d h (tlpTag x) 0 st true []

/-- A doorbell message acts as a write to the register of its ring. -/
def doorbell (mc off h : Nat) (d : Dev) : Dev :=
  match firstOf (narta d h) (fun x => tlpType x == tMsg && x.w1.toNat % 256 == mc) with
  | none => d
  | some r =>
    if !performed d h r.idx then d
    else
      let d := takeRx d h r
      let w := r.tlp.w1.toNat
      (ctlWrite (partPg (bits w 18 16)) (off + 16 * bits w 24 19) (BitVec.ofNat 64 (bits w 40 25)) d).1

def sqMessage (h : Nat) (d : Dev) : Dev := doorbell mcSq 0xC00 h d
def cqMessage (h : Nat) (d : Dev) : Dev := doorbell mcCq 0xC08 h d

end Sys2Proof.Machine
end

