-- ==== Sys2Proof/Machine/Settle.lean ====
section
/-!
DEFINITION. What follows every command of itself: events of units, reads that have finished, rings, receipts and completions that
find a place, port changes, resets that wait, and last the barks; and the reference tick of an idle device.
-/
namespace Sys2Proof.Machine

def jobDone (j : Job) : Bool := j.fail.isSome || (j.left == 0 && !j.busy)

/-- Reads that have failed or have brought all their bytes. -/
def doneJobs (d : Dev) : List Nat :=
  d.jobs.filterMap (fun x => match x.2 with
    | some j => if jobDone j then some x.1 else none
    | none => none)

/-- A finished read is given to what it was made for; a plan image may ask for more. -/
def finishJob (d : Dev) (id : Nat) : Dev :=
  match mget none d.jobs id with
  | none => d
  | some j =>
    if !jobDone j then d
    else
      let d := { d with jobs := mput none d.jobs id none }
      match j.kind, j.fail with
      | .desc p q, some s => descRead d p q (.error s)
      | .desc p q, none => descRead d p q (.ok j.buf)
      | .plan p, some s => planReadFails d p s
      | .plan p, none =>
        let (d, more) := planRead d p j.buf
        if more == 0 then d else { d with jobs := mput none d.jobs id (some { j with left := more }) }
      | .table i, some s => tableCame d i (.error s)
      | .table i, none => tableCame d i (.ok j.buf)
      | .walk i, some s => walkCame d i (.error s)
      | .walk i, none => walkCame d i (.ok j.buf)
      | .kv i, some s => kvCame d i (.error s)
      | .kv i, none => kvCame d i (.ok j.buf)
      | .image, some s => imageReadFails s d
      | .image, none => imageRead j.buf d

/-- Reads are issued and finished until none is finished. -/
def jobsGo : Nat → Dev → Dev
  | 0, d => jobsIssue d
  | f + 1, d =>
    let d := jobsIssue d
    match doneJobs d with
    | [] => d
    | ids => jobsGo f (ids.foldl finishJob d)

def jobsFuel : Nat := 64

/-- Everything that follows a command. -/
def settle (d : Dev) : Dev :=
  let d := jobsGo jobsFuel (processEvents (towersPump (clearSent d)))
  let d := flushPump (ringsPump (ledgersLost d))
  let d := rcptPump (failoverPump (stopPump d))
  let d := processEvents (drainPump (partitionPump d))
  txPump (pumpBarks (wearCheck (jobsIssue d)))

/-! ## The reference (R25, R304, R317, R424) -/

/-- The started steps of every core run on by the A-cycles of one reference cycle at the operating point of its quadrant; then what waited
for their claims and marks goes on. While the gated clocks are stopped (R398) none does. -/
def agePrograms (d : Dev) : Dev :=
  if d.heat.stopped then d
  else
    let busy := (d.cores.filter (fun x => !x.2.q.isEmpty)).map (·.1)
    busy.foldl (fun d n =>
      let c := core d n
      let k := clockOf d (coreDie n)
      pump (count (setCore d n { c with q := c.q.map (ageStep k.1 k.2.1) }) (corePg n) CORE.ARRAY_BUSY (busyCycles k.1 k.2.1 c)) n) d

/-- Floors whose commands run, or have rows still to open, go on by one reference cycle. -/
def ageFloors (d : Dev) : Dev :=
  if d.heat.stopped then d
  else
    let busy := (d.towers.filter (fun x => x.2.floor.st == .run || x.2.floor.st == .wait || x.2.floor.time != FloorTime.init)).map (·.1)
    busy.foldl (fun d t =>
      let k := clockOf d (regionDie t)
      if (tower d t).hold then d else floorTimes t (clocksM d (regionDie t)) (floorTick k.1 k.2.2 t d)) d

/-- Ports that stand at an entry they may act on go on: a port that skips more turns of lost users than one command carries on skipping
(R135). -/
def portsGo (d : Dev) : Dev :=
  d.ports.foldl (fun d x => if x.2.place == .atPort && x.1 % 512 < 236 then serve d (x.1 / 512) (x.1 % 512) serveFuel else d) d

/-- One cycle of the 100 MHz reference on every die that is powered and out of reset. The time a host takes to provide an image
is not counted in a start (R342). -/
def tick (d : Dev) : Dev :=
  if d.boot.reset then d
  else
    let d := (List.range 8).foldl (fun d k =>
      let d := count d (diePg k) DIE.DIE_STAMP_STAMP 1
      { d with ticks := mupd 0 d.ticks k (· + 1) }) d
    let d := ageGates (ageFloors (agePrograms (countWaits (portsGo d))))
    if d.boot.on && bootPhase d != 3 then { d with boot := { d.boot with ticks := d.boot.ticks + 1 } } else d

end Sys2Proof.Machine
end

