-- ==== Sys2Proof/Machine/Acting.lean ====
section
/-!
DEFINITION. How a command acts on the device: its effect, then what follows of itself; and a command that is a write of a control
register.
-/
namespace Sys2Proof.Machine

/-- A command's effect on the device, and what follows it. -/
def on (s : State) (f : Dev → Dev) : Host.Outcome State Fault Refusal := .next { s with dev := settle (f s.dev) }

/-- A command of a device that is out of reset; held in reset (R317), the device does nothing. -/
def live (s : State) (f : Dev → Dev) : Host.Outcome State Fault Refusal := on s (fun d => if d.boot.reset then d else f d)

/-- OP in bits 63:60 of a command register. -/
def command (op operand : Nat) : Word64 := BitVec.ofNat 64 (op * 2 ^ 60 + operand)

/-- A write of a control register that reaches its page: by the lead's steward where no host request carries it (R301). -/
def control (pg off : Nat) (v : Word64) (d : Dev) : Dev :=
  if !served d then d
  else if ctlReserved pg off then barkReserved d (stewPg (lead d) (actingOf d (lead d))) (ctlAddr pg off)
  else (ctlWrite pg off v d).1

/-- RUN written to KAT_CMD, with the units that the run finds failed. -/
def katWrite (r : Nat) (failed : List Nat) (d : Dev) : Dev :=
  let v := command 1 r
  if !served d then d
  else
    (lowerRemain katPg 0x200 (writeAllowed KAT.page katPg 0x200 v
      (fun d => acting katPg 0x200 v (katRun r failed d)) d).1)

/-- Receivers of firmware blocks: acting stewards 0 to 7, tower base dies 16 + t. -/
def receiverNo : Receiver → Nat
  | .steward d => d.val
  | .towerBase t => 16 + t.val

/-- User number of who presents a unit: the floor sequencer stands beside the cores 0 to 127. -/
def userOf : PortUser → Nat
  | .core u => u.val
  | .floor => floorUser

def unitOf (a : UnitAccess) : PortUnit := ⟨userOf a.user, a.step, a.tok, a.write⟩

end Sys2Proof.Machine
end

