-- ==== Sys2Proof/Machine/Control.lean ====
section
/-!
DEFINITION. The meanings of commands. Control pages (chapter 11).
-/
namespace Sys2Proof.Machine

/-- PAGE_GUARD (R298). -/
def execPageGuard (pg : PageIdx) (key : Word64) (s : State) : Host.Outcome State Fault Refusal :=
  live s (control pg.toNat 0x018 key)

/-- REGISTER_WRITE (R300). -/
def execRegisterWrite (pg : PageIdx) (off : BitVec 12) (v : Word64) (s : State) : Host.Outcome State Fault Refusal :=
  live s (control pg.toNat off.toNat v)

/-- EVT_HEAD (R306). -/
def execEvtHead (v : BitVec 16) (s : State) : Host.Outcome State Fault Refusal :=
  live s (control evtPg 0x050 (v.setWidth 64))

/-- RCPT_HEAD (R314). -/
def execRcptHead (v : BitVec 16) (s : State) : Host.Outcome State Fault Refusal :=
  live s (control metrPg 0x058 (v.setWidth 64))

/-- WARM_REQ (R307). -/
def execWarmReq (s : State) : Host.Outcome State Fault Refusal := live s (control pkgPg 0x040 1)

/-- NOTE_TIME (R316). -/
def execNoteTime (utc : Word64) (s : State) : Host.Outcome State Fault Refusal := live s (control lifePg 0x040 utc)

/-- NOTE_DURABLE (R429). -/
def execNoteDurable (s : State) : Host.Outcome State Fault Refusal := live s noteDurable

/-- ATTEST (R444). -/
def execAttest (s : State) : Host.Outcome State Fault Refusal := live s (control secPg 0x040 (command 1 0))

/-- REPORT_SIGNED (R444). -/
def execReportSigned (s : State) : Host.Outcome State Fault Refusal := live s reportSigned

/-- ADVANCE (R441). -/
def execAdvance (s : State) : Host.Outcome State Fault Refusal := live s (control secPg 0x200 1)

/-- ALERT_ACK (R313). -/
def execAlertAck (s : State) : Host.Outcome State Fault Refusal := live s (control thmPg 0x040 1)

/-- REBASE (R399). -/
def execRebase (s : State) : Host.Outcome State Fault Refusal := live s (control thmPg 0x200 1)

end Sys2Proof.Machine
end

