-- ==== Sys2Proof/Machine/CoreSteps.lean ====
section
/-!
DEFINITION. The meanings of commands. The steps of a core program and what happens to a core (chapters 2 to 4).
-/
namespace Sys2Proof.Machine

/-- MOVE_COPY (R100). -/
def execMoveCopy (n : CoreId) (s : State) : Host.Outcome State Fault Refusal := live s (issue (isOp clsMove 0x00) n.val)

/-- LOAD_T (R100). -/
def execLoadT (n : CoreId) (s : State) : Host.Outcome State Fault Refusal := live s (issue (isOp clsMove 0x01) n.val)

/-- STORE_T (R100). -/
def execStoreT (n : CoreId) (s : State) : Host.Outcome State Fault Refusal := live s (issue (isOp clsMove 0x02) n.val)

/-- MOVE_LOAD_X (R100). -/
def execMoveLoadX (n : CoreId) (s : State) : Host.Outcome State Fault Refusal := live s (issue (isOp clsMove 0x03) n.val)

/-- STORE_X (R100). -/
def execStoreX (n : CoreId) (s : State) : Host.Outcome State Fault Refusal := live s (issue (isOp clsMove 0x04) n.val)

/-- T_TO_X (R128). -/
def execTToX (n : CoreId) (s : State) : Host.Outcome State Fault Refusal := live s (issue (isOp clsMove 0x05) n.val)

/-- X_TO_T (R128). -/
def execXToT (n : CoreId) (s : State) : Host.Outcome State Fault Refusal := live s (issue (isOp clsMove 0x06) n.val)

/-- SEND_O (R214). -/
def execSendO (n : CoreId) (s : State) : Host.Outcome State Fault Refusal := live s (issue (isOp clsMove 0x07) n.val)

/-- RECV_O (R104). -/
def execRecvO (n : CoreId) (s : State) : Host.Outcome State Fault Refusal := live s (issue (isOp clsMove 0x08) n.val)

/-- FEED_T (R106). -/
def execFeedT (n : CoreId) (s : State) : Host.Outcome State Fault Refusal := live s (issue (isOp clsMove 0x09) n.val)

/-- FEED_O (R106). -/
def execFeedO (n : CoreId) (s : State) : Host.Outcome State Fault Refusal := live s (issue (isOp clsMove 0x0A) n.val)

/-- GATHER_T (R105). -/
def execGatherT (n : CoreId) (s : State) : Host.Outcome State Fault Refusal := live s (issue (isOp clsMove 0x0B) n.val)

/-- GATHER_X (R105). -/
def execGatherX (n : CoreId) (s : State) : Host.Outcome State Fault Refusal := live s (issue (isOp clsMove 0x0C) n.val)

/-- LOAD_N (R45). -/
def execLoadN (n : CoreId) (s : State) : Host.Outcome State Fault Refusal := live s (issue (isOp clsArray 0x00) n.val)

/-- ARRAY_LOAD_X (R47). -/
def execArrayLoadX (n : CoreId) (s : State) : Host.Outcome State Fault Refusal := live s (issue (isOp clsArray 0x01) n.val)

/-- STREAM (R51). -/
def execStream (n : CoreId) (s : State) : Host.Outcome State Fault Refusal := live s (issue (isOp clsArray 0x02) n.val)

/-- ACC_CLEAR (R80). -/
def execAccClear (n : CoreId) (s : State) : Host.Outcome State Fault Refusal := live s (issue (isOp clsAcc 0x00) n.val)

/-- DRAIN_V (R110). -/
def execDrainV (n : CoreId) (s : State) : Host.Outcome State Fault Refusal := live s (issue (isOp clsAcc 0x01) n.val)

/-- DRAIN_S (R85). -/
def execDrainS (n : CoreId) (s : State) : Host.Outcome State Fault Refusal := live s (issue (isOp clsAcc 0x02) n.val)

/-- SAVE (R89). -/
def execSave (n : CoreId) (s : State) : Host.Outcome State Fault Refusal := live s (issue (isOp clsAcc 0x03) n.val)

/-- RESTORE (R90). -/
def execRestore (n : CoreId) (s : State) : Host.Outcome State Fault Refusal := live s (issue (isOp clsAcc 0x04) n.val)

/-- MERGE (R90). -/
def execMerge (n : CoreId) (s : State) : Host.Outcome State Fault Refusal := live s (issue (isOp clsAcc 0x05) n.val)

/-- VEC_ADD (R111). -/
def execVecAdd (n : CoreId) (s : State) : Host.Outcome State Fault Refusal := live s (issue (isOp clsVec 0x00) n.val)

/-- VEC_SUB (R111). -/
def execVecSub (n : CoreId) (s : State) : Host.Outcome State Fault Refusal := live s (issue (isOp clsVec 0x01) n.val)

/-- VEC_MUL (R111). -/
def execVecMul (n : CoreId) (s : State) : Host.Outcome State Fault Refusal := live s (issue (isOp clsVec 0x02) n.val)

/-- FMA (R111). -/
def execFma (n : CoreId) (s : State) : Host.Outcome State Fault Refusal := live s (issue (isOp clsVec 0x03) n.val)

/-- VEC_MIN (R111). -/
def execVecMin (n : CoreId) (s : State) : Host.Outcome State Fault Refusal := live s (issue (isOp clsVec 0x04) n.val)

/-- VEC_MAX (R111). -/
def execVecMax (n : CoreId) (s : State) : Host.Outcome State Fault Refusal := live s (issue (isOp clsVec 0x05) n.val)

/-- CMPLT (R111). -/
def execCmplt (n : CoreId) (s : State) : Host.Outcome State Fault Refusal := live s (issue (isOp clsVec 0x06) n.val)

/-- CMPEQ (R111). -/
def execCmpeq (n : CoreId) (s : State) : Host.Outcome State Fault Refusal := live s (issue (isOp clsVec 0x07) n.val)

/-- CVT_TO (R114). -/
def execCvtTo (n : CoreId) (s : State) : Host.Outcome State Fault Refusal := live s (issue (isOp clsVec 0x08) n.val)

/-- CVT_FROM (R114). -/
def execCvtFrom (n : CoreId) (s : State) : Host.Outcome State Fault Refusal := live s (issue (isOp clsVec 0x09) n.val)

/-- RCP (R58). -/
def execRcp (n : CoreId) (s : State) : Host.Outcome State Fault Refusal := live s (issue (isOp clsVec 0x0A) n.val)

/-- RSQRT (R58). -/
def execRsqrt (n : CoreId) (s : State) : Host.Outcome State Fault Refusal := live s (issue (isOp clsVec 0x0B) n.val)

/-- EXP2 (R58). -/
def execExp2 (n : CoreId) (s : State) : Host.Outcome State Fault Refusal := live s (issue (isOp clsVec 0x0C) n.val)

/-- LOG2 (R58). -/
def execLog2 (n : CoreId) (s : State) : Host.Outcome State Fault Refusal := live s (issue (isOp clsVec 0x0D) n.val)

/-- ADD_FOLD (R111). -/
def execAddFold (n : CoreId) (s : State) : Host.Outcome State Fault Refusal := live s (issue (isOp clsVec 0x0E) n.val)

/-- MAX_FOLD (R111). -/
def execMaxFold (n : CoreId) (s : State) : Host.Outcome State Fault Refusal := live s (issue (isOp clsVec 0x0F) n.val)

/-- MIN_FOLD (R111). -/
def execMinFold (n : CoreId) (s : State) : Host.Outcome State Fault Refusal := live s (issue (isOp clsVec 0x10) n.val)

/-- SETK (R111). -/
def execSetk (n : CoreId) (s : State) : Host.Outcome State Fault Refusal := live s (issue (isOp clsVec 0x11) n.val)

/-- SYNC_TAKE (R115). -/
def execSyncTake (n : CoreId) (s : State) : Host.Outcome State Fault Refusal := live s (issue (isOp clsSync 0x00) n.val)

/-- RELEASE (R115). -/
def execRelease (n : CoreId) (s : State) : Host.Outcome State Fault Refusal := live s (issue (isOp clsSync 0x01) n.val)

/-- GIVE (R115). -/
def execGive (n : CoreId) (s : State) : Host.Outcome State Fault Refusal := live s (issue (isOp clsSync 0x02) n.val)

/-- SYNC_WAIT (R115). -/
def execSyncWait (n : CoreId) (s : State) : Host.Outcome State Fault Refusal := live s (issue (isOp clsSync 0x03) n.val)

/-- CTRL_NOP (R117). -/
def execCtrlNop (n : CoreId) (s : State) : Host.Outcome State Fault Refusal := live s (issue (isOp clsCtrl 0x00) n.val)

/-- LOOP (R118). -/
def execLoop (n : CoreId) (s : State) : Host.Outcome State Fault Refusal := live s (issue (isOp clsCtrl 0x01) n.val)

/-- BRANCH (R119). -/
def execBranch (n : CoreId) (s : State) : Host.Outcome State Fault Refusal := live s (issue (isOp clsCtrl 0x02) n.val)

/-- PHASE (R120). -/
def execPhase (n : CoreId) (s : State) : Host.Outcome State Fault Refusal := live s (issue (isOp clsCtrl 0x03) n.val)

/-- SETA (R117). -/
def execSeta (n : CoreId) (s : State) : Host.Outcome State Fault Refusal := live s (issue (isOp clsCtrl 0x04) n.val)

/-- ADDA (R117). -/
def execAdda (n : CoreId) (s : State) : Host.Outcome State Fault Refusal := live s (issue (isOp clsCtrl 0x05) n.val)

/-- SETTLE (R117). -/
def execSettle (n : CoreId) (s : State) : Host.Outcome State Fault Refusal := live s (issue (isOp clsCtrl 0x06) n.val)

/-- CTRL_END (R120). -/
def execCtrlEnd (n : CoreId) (s : State) : Host.Outcome State Fault Refusal := live s (issue (isOp clsCtrl 0x07) n.val)

/-- RESERVED_STEP (R93). -/
def execReservedStep (n : CoreId) (s : State) : Host.Outcome State Fault Refusal :=
  live s (issue (fun w => (usedBits (wCls w) (wOp w)).isNone) n.val)

/-- STEP_COMPLETE (R96). -/
def execStepComplete (n : CoreId) (e : Engine) (s : State) : Host.Outcome State Fault Refusal := live s (stepDone n.val e)

/-- CORE_HEEL_REQ (R64). -/
def execCoreHeelReq (n : CoreId) (s : State) : Host.Outcome State Fault Refusal := live s (control (corePg n.val) 0x040 1)

/-- CORE_RESUME (R64). -/
def execCoreResume (n : CoreId) (s : State) : Host.Outcome State Fault Refusal := live s (control (corePg n.val) 0x040 2)

end Sys2Proof.Machine
end

