-- ==== Sys2Proof/Machine/FloorSeq.lean ====
section
/-!
DEFINITION. The meanings of commands. The commands of the floor sequencers (chapter 7).
-/
namespace Sys2Proof.Machine

/-- MV_ROW (R193). -/
def execMvRow (t : TowerId) (s : State) : Host.Outcome State Fault Refusal := live s (floorStart 0x01 t.val)

/-- REDUCE (R196). -/
def execReduce (t : TowerId) (s : State) : Host.Outcome State Fault Refusal := live s (floorStart 0x02 t.val)

/-- ST_ACC (R194). -/
def execStAcc (t : TowerId) (s : State) : Host.Outcome State Fault Refusal := live s (floorStart 0x03 t.val)

/-- EW_ADD (R197). -/
def execEwAdd (t : TowerId) (s : State) : Host.Outcome State Fault Refusal := live s (floorStart 0x04 t.val)

/-- EW_MUL (R197). -/
def execEwMul (t : TowerId) (s : State) : Host.Outcome State Fault Refusal := live s (floorStart 0x05 t.val)

/-- FILL (R197). -/
def execFill (t : TowerId) (s : State) : Host.Outcome State Fault Refusal := live s (floorStart 0x06 t.val)

/-- FLOOR_COPY (R197). -/
def execFloorCopy (t : TowerId) (s : State) : Host.Outcome State Fault Refusal := live s (floorStart 0x07 t.val)

/-- FLOOR_CLEAR (R198). -/
def execFloorClear (t : TowerId) (s : State) : Host.Outcome State Fault Refusal := live s (floorStart 0x08 t.val)

/-- FLOOR_GATHER (R199). -/
def execFloorGather (t : TowerId) (s : State) : Host.Outcome State Fault Refusal := live s (floorStart 0x09 t.val)

/-- VLOAD (R195). -/
def execVload (t : TowerId) (s : State) : Host.Outcome State Fault Refusal := live s (floorStart 0x0A t.val)

/-- VSTORE (R195). -/
def execVstore (t : TowerId) (s : State) : Host.Outcome State Fault Refusal := live s (floorStart 0x0B t.val)

/-- HOLE (R200). -/
def execHole (t : TowerId) (s : State) : Host.Outcome State Fault Refusal := live s (floorStart 0x0C t.val)

/-- TURN (R188). -/
def execTurn (t : TowerId) (s : State) : Host.Outcome State Fault Refusal := live s (floorStart 0x0D t.val)

/-- FLOOR_END (R187). -/
def execFloorEnd (t : TowerId) (s : State) : Host.Outcome State Fault Refusal := live s (floorStart 0x0E t.val)

/-- FLR_HEEL_REQ (R207). -/
def execFlrHeelReq (t : TowerId) (s : State) : Host.Outcome State Fault Refusal := live s (control (flrPg t.val) 0x040 1)

/-- FLR_RESUME (R207). -/
def execFlrResume (t : TowerId) (s : State) : Host.Outcome State Fault Refusal := live s (control (flrPg t.val) 0x040 2)

/-- CAP_SUBWINDOW (R204). -/
def execCapSubwindow (t : TowerId) (s : State) : Host.Outcome State Fault Refusal := live s (subwindow t.val)

/-- FLOOR_CMD_COMPLETE (R190). -/
def execFloorCmdComplete (t : TowerId) (s : State) : Host.Outcome State Fault Refusal := live s (floorDone t.val)

end Sys2Proof.Machine
end

