-- ==== Sys2Proof/Machine/NartaHost.lean ====
section
/-!
DEFINITION. The meanings of commands. The Narta link (chapter 10).
-/
namespace Sys2Proof.Machine

/-- FLIT_TLP (R268). -/
def execFlitTlp (h : HostPort) (f : Flit) (s : State) : Host.Outcome State Fault Refusal := live s (flitArrives 1 h.val f)

/-- FLIT_IDLE (R267). -/
def execFlitIdle (h : HostPort) (f : Flit) (s : State) : Host.Outcome State Fault Refusal := live s (flitArrives 0 h.val f)

/-- MWR (R278). -/
def execMwr (h : HostPort) (s : State) : Host.Outcome State Fault Refusal := live s (mwr h.val)

/-- MRD (R278). -/
def execMrd (h : HostPort) (s : State) : Host.Outcome State Fault Refusal := live s (mrd h.val)

/-- CRD (R279). -/
def execCrd (h : HostPort) (s : State) : Host.Outcome State Fault Refusal := live s (crd h.val)

/-- CWR (R279). -/
def execCwr (h : HostPort) (s : State) : Host.Outcome State Fault Refusal := live s (cwr h.val)

/-- CPL (R281). -/
def execCpl (h : HostPort) (s : State) : Host.Outcome State Fault Refusal := live s (cpl h.val)

/-- SQ_DOORBELL (R286). -/
def execSqDoorbell (h : HostPort) (s : State) : Host.Outcome State Fault Refusal := live s (sqMessage h.val)

/-- CQ_DOORBELL (R286). -/
def execCqDoorbell (h : HostPort) (s : State) : Host.Outcome State Fault Refusal := live s (cqMessage h.val)

/-- CPL_TIMEOUT (R281). -/
def execCplTimeout (h : HostPort) (tag : BitVec 12) (s : State) : Host.Outcome State Fault Refusal :=
  live s (cplTimeout h.val tag.toNat)

/-- NARTA_NO_CODEWORD (R275). -/
def execNartaNoCodeword (h : HostPort) (s : State) : Host.Outcome State Fault Refusal := live s (noCodeword h.val)

/-- PORT_RETRY (R275). -/
def execPortRetry (h : HostPort) (signal : Bool) (s : State) : Host.Outcome State Fault Refusal :=
  live s (portRetry h.val signal)

/-- TRAINING_TIMEOUT (R275). -/
def execTrainingTimeout (h : HostPort) (s : State) : Host.Outcome State Fault Refusal := live s (trainingTimeout h.val)

/-- LANE_WINDOW (R274). -/
def execLaneWindow (h : HostPort) (corrected : List Nat) (cwUncorr : Nat) (s : State) : Host.Outcome State Fault Refusal :=
  live s (laneWindow h.val corrected cwUncorr)

/-- NARTA_LANE (R270). -/
def execNartaLane (h : HostPort) (record : Word64) (lane : BitVec 4) (s : State) : Host.Outcome State Fault Refusal :=
  live s (nartaLaneRec h.val record lane.toNat)

/-- NARTA_EQ (R270). -/
def execNartaEq (h : HostPort) (record : Word64) (s : State) : Host.Outcome State Fault Refusal :=
  live s (nartaEqRec h.val record)

/-- NARTA_ADV (R273). -/
def execNartaAdv (h : HostPort) (record : Word64) (usable : BitVec 16) (s : State) : Host.Outcome State Fault Refusal :=
  live s (nartaAdvRec h.val record usable)

/-- NARTA_CONF (R272). -/
def execNartaConf (h : HostPort) (record : Word64) (s : State) : Host.Outcome State Fault Refusal :=
  live s (nartaConfRec h.val record)

/-- NARTA_START (R270). -/
def execNartaStart (h : HostPort) (record : Word64) (s : State) : Host.Outcome State Fault Refusal :=
  live s (nartaStartRec h.val record)

/-- FULL_TRAIN (R270). -/
def execFullTrain (h : HostPort) (s : State) : Host.Outcome State Fault Refusal :=
  live s (control (hlkPg h.val) 0x210 (command 1 0))

/-- HLK_DISABLE (R309). -/
def execHlkDisable (h : HostPort) (s : State) : Host.Outcome State Fault Refusal :=
  live s (control (hlkPg h.val) 0x210 (command 2 0))

/-- HLK_ENABLE (R275). -/
def execHlkEnable (h : HostPort) (s : State) : Host.Outcome State Fault Refusal :=
  live s (control (hlkPg h.val) 0x210 (command 3 0))

/-- HLK_CTL (R289). -/
def execHlkCtl (home : BitVec 8) (sysPort : HostPort) (s : State) : Host.Outcome State Fault Refusal :=
  live s (control (hlkPg 0) 0x040 (BitVec.ofNat 64 (sysPort.val * 256 + home.toNat)))

/-- NARTA_DETECT_LOCK (R270). -/
def execNartaDetectLock (h : HostPort) (inverted : BitVec 16) (s : State) : Host.Outcome State Fault Refusal :=
  live s (nartaLock h.val inverted)

end Sys2Proof.Machine
end

