-- ==== Sys2Proof/Machine/Optics.lean ====
section
/-!
DEFINITION. The meanings of commands. Peer channels, bundles and the training of links (chapter 8).
-/
namespace Sys2Proof.Machine

/-- OPT_DATA_FRAME (R215). -/
def execOptDataFrame (i j : RegionId) (f : OptFrame) (s : State) : Host.Outcome State Fault Refusal :=
  live s (frameArrives i.val j.val kData f)

/-- OPT_LAST_FRAME (R214). -/
def execOptLastFrame (i j : RegionId) (f : OptFrame) (s : State) : Host.Outcome State Fault Refusal :=
  live s (frameArrives i.val j.val kLast f)

/-- OPT_IDLE_FRAME (R215). -/
def execOptIdleFrame (i j : RegionId) (f : OptFrame) (s : State) : Host.Outcome State Fault Refusal :=
  live s (frameArrives i.val j.val 0 f)

/-- OPT_FENCED_FRAME (R214). -/
def execOptFencedFrame (i j : RegionId) (f : OptFrame) (s : State) : Host.Outcome State Fault Refusal :=
  live s (frameArrives i.val j.val kFenced f)

/-- OPT_REFUSED_FRAME (R214). -/
def execOptRefusedFrame (i j : RegionId) (f : OptFrame) (s : State) : Host.Outcome State Fault Refusal :=
  live s (frameArrives i.val j.val kRefused f)

/-- BUNDLE_SLOT (R222). -/
def execBundleSlot (t : TowerId) (b : ColId) (up : Bool) (f : BundleSlot) (s : State) : Host.Outcome State Fault Refusal :=
  live s (slotArrives t.val b.val up f)

/-- CRC_WINDOW (R225). -/
def execCrcWindow (r : RegionId) (link : LinkSel) (weak : WeakLane) (s : State) : Host.Outcome State Fault Refusal :=
  live s (windowEnd r.val link.val weak.lane.toNat weak.margin.toNat)

/-- TRAIN_BYPASS (R224). -/
def execTrainBypass (r : RegionId) (link : LinkSel) (far : Bool) (group : BitVec 3) (pos : BitVec 6) (s : State) : Host.Outcome State Fault Refusal :=
  live s (trainArrives r.val link.val far (bypassBits group pos))

/-- TRAIN_ADV (R229). -/
def execTrainAdv (r : RegionId) (link : LinkSel) (far : Bool) (halves : BitVec 2) (joint : Bool) (tid : BitVec 8) (s : State) : Host.Outcome State Fault Refusal :=
  live s (trainArrives r.val link.val far (maskBits 2 halves joint tid))

/-- TRAIN_CONF (R229). -/
def execTrainConf (r : RegionId) (link : LinkSel) (far : Bool) (halves : BitVec 2) (joint : Bool) (tid : BitVec 8) (s : State) : Host.Outcome State Fault Refusal :=
  live s (trainArrives r.val link.val far (maskBits 3 halves joint tid))

/-- COMB_FAIL (R210). -/
def execCombFail (c : Fin 2) (s : State) : Host.Outcome State Fault Refusal := live s (combFails c.val)

/-- RETRAIN (R227). -/
def execRetrain (r : RegionId) (s : State) : Host.Outcome State Fault Refusal :=
  live s (control (optPg r.val) 0x200 (command 1 0))

/-- JOINT_TRAIN (R230). -/
def execJointTrain (r : RegionId) (s : State) : Host.Outcome State Fault Refusal :=
  live s (control (optPg r.val) 0x200 (command 2 0))

/-- LOOP_SELF (R233). -/
def execLoopSelf (r : RegionId) (s : State) : Host.Outcome State Fault Refusal :=
  live s (control (optPg r.val) 0x200 (command 3 0))

/-- LOOP_FAR (R233). -/
def execLoopFar (r : RegionId) (s : State) : Host.Outcome State Fault Refusal :=
  live s (control (optPg r.val) 0x200 (command 4 0))

/-- LOOP_END (R233). -/
def execLoopEnd (r : RegionId) (s : State) : Host.Outcome State Fault Refusal :=
  live s (control (optPg r.val) 0x200 (command 5 0))

/-- LINK_DETECT_LOCK (R227). -/
def execLinkDetectLock (r : RegionId) (link : LinkSel) (eyes : LinkEyes) (centre : List (BitVec 16)) (s : State) : Host.Outcome State Fault Refusal :=
  live s (detectLock r.val link.val eyes.near eyes.far centre)

/-- LINK_TRAINING_TIMEOUT (R231). -/
def execLinkTrainingTimeout (r : RegionId) (link : LinkSel) (s : State) : Host.Outcome State Fault Refusal :=
  live s (trainTimeout r.val link.val)

end Sys2Proof.Machine
end

