-- ==== Sys2Proof/Machine/Orders.lean ====
section
/-!
DEFINITION. The meanings of commands. Order lists, leashes, the whistle network and its slot tables (chapter 5).
-/
namespace Sys2Proof.Machine

/-- TOKEN_GRANT (R131). -/
def execTokenGrant (r : RegionId) (p : LocalPort) (user : Fin 128) (turn : BitVec 14) (crcOk : Bool) (s : State) : Host.Outcome State Fault Refusal :=
  live s (grantArrives r.val p.val user.val turn.toNat crcOk)

/-- TOKEN_RELEASE (R132). -/
def execTokenRelease (r : RegionId) (p : LocalPort) (user : Fin 128) (turn : BitVec 14) (crcOk : Bool) (s : State) : Host.Outcome State Fault Refusal :=
  live s (releaseArrives r.val p.val user.val turn.toNat crcOk)

/-- TOKEN_ACK (R133). -/
def execTokenAck (r : RegionId) (p : LocalPort) (turn : BitVec 14) (crcOk : Bool) (s : State) : Host.Outcome State Fault Refusal :=
  live s (ackArrives r.val p.val turn.toNat crcOk)

/-- TOKEN_RESEND (R133). -/
def execTokenResend (r : RegionId) (p : LocalPort) (s : State) : Host.Outcome State Fault Refusal :=
  live s (resendToken r.val p.val)

/-- TOKEN_STALL (R136). -/
def execTokenStall (r : RegionId) (p : LocalPort) (s : State) : Host.Outcome State Fault Refusal :=
  live s (tokenStalls r.val p.val)

/-- PORT_ACCESS (R137). -/
def execPortAccess (r : RegionId) (p : LocalPort) (a : UnitAccess) (clash : Option UnitAccess) (s : State) : Host.Outcome State Fault Refusal :=
  live s (portAccesses r.val p.val (unitOf a) (clash.map unitOf))

/-- FETCH_TURN_END (R127). -/
def execFetchTurnEnd (t : TowerId) (b : ColId) (s : State) : Host.Outcome State Fault Refusal :=
  live s (fetchTurnEnd t.val b.val)

/-- LEASH (R144). -/
def execLeash (dst src : CoreId) (srcLink : Fin 16) (count : BitVec 8) (seq : BitVec 12) (crcOk : Bool) (s : State) : Host.Outcome State Fault Refusal :=
  live s (leashArrives dst.val src.val srcLink.val count.toNat seq.toNat crcOk)

/-- WHISTLE_ACK (R143). -/
def execWhistleAck (src dst : Station) (seq : BitVec 12) (crcOk : Bool) (s : State) : Host.Outcome State Fault Refusal :=
  live s (wAck src.toNat dst.toNat seq.toNat crcOk)

/-- WHISTLE_RESEND (R143). -/
def execWhistleResend (src dst : Station) (seq : BitVec 12) (s : State) : Host.Outcome State Fault Refusal :=
  live s (wResend src.toNat dst.toNat seq.toNat)

/-- WHS_CHECK (R147). -/
def execWhsCheck (w : Fin 33) (s : State) : Host.Outcome State Fault Refusal := live s (control (whsPg w.val) 0x200 1)

/-- WHS_TAKE (R148). -/
def execWhsTake (w : Fin 33) (s : State) : Host.Outcome State Fault Refusal := live s (control (whsPg w.val) 0x200 2)

/-- SLOT_TABLE_SWITCH (R148). -/
def execSlotTableSwitch (w : Fin 33) (ring : Fin 8) (s : State) : Host.Outcome State Fault Refusal :=
  live s (slotTableSwitch w.val ring.val)

end Sys2Proof.Machine
end

