-- ==== Sys2Proof/Machine/PlanRings.lean ====
section
/-!
DEFINITION. The meanings of commands. Plans, rings, descriptors and the stream ledger (chapter 9).
-/
namespace Sys2Proof.Machine

/-- PLAN_LOAD (R241). -/
def execPlanLoad (p : PartId) (s : State) : Host.Outcome State Fault Refusal :=
  live s (control (partPg p.val) 0x040 (command 1 0))

/-- PLAN_UNLOAD (R242). -/
def execPlanUnload (p : PartId) (s : State) : Host.Outcome State Fault Refusal :=
  live s (control (partPg p.val) 0x040 (command 2 0))

/-- RING_ENABLE (R260). -/
def execRingEnable (p : PartId) (cfg : Word64) (s : State) : Host.Outcome State Fault Refusal :=
  live s (control (partPg p.val) 0x060 cfg)

/-- RING_ABORT (R252). -/
def execRingAbort (p : PartId) (s : State) : Host.Outcome State Fault Refusal := live s (control (partPg p.val) 0x078 1)

/-- SQ_TAIL (R244). -/
def execSqTail (p : PartId) (q : RingId) (v : BitVec 16) (s : State) : Host.Outcome State Fault Refusal :=
  live s (control (partPg p.val) (0xC00 + 16 * q.val) (v.setWidth 64))

/-- CQ_HEAD (R249). -/
def execCqHead (p : PartId) (q : RingId) (v : BitVec 16) (s : State) : Host.Outcome State Fault Refusal :=
  live s (control (partPg p.val) (0xC08 + 16 * q.val) (v.setWidth 64))

/-- RUN (R240). -/
def execRun (p : PartId) (q : RingId) (s : State) : Host.Outcome State Fault Refusal := live s (runDesc p.val q.val)

/-- BATCH_STEP (R259). -/
def execBatchStep (p : PartId) (q : RingId) (s : State) : Host.Outcome State Fault Refusal :=
  live s (batchStepDesc p.val q.val)

/-- STREAM_OPEN (R256). -/
def execStreamOpen (p : PartId) (q : RingId) (s : State) : Host.Outcome State Fault Refusal :=
  live s (streamOpenDesc p.val q.val)

/-- STREAM_ABORT (R257). -/
def execStreamAbort (p : PartId) (q : RingId) (s : State) : Host.Outcome State Fault Refusal :=
  live s (streamAbortDesc p.val q.val)

/-- STREAM_RELEASE (R257). -/
def execStreamRelease (p : PartId) (q : RingId) (s : State) : Host.Outcome State Fault Refusal :=
  live s (streamReleaseDesc p.val q.val)

/-- NOP (R245). -/
def execNop (p : PartId) (q : RingId) (s : State) : Host.Outcome State Fault Refusal := live s (nopDesc p.val q.val)

end Sys2Proof.Machine
end

