-- ==== Sys2Proof/Machine/PowerHeat.lean ====
section
/-!
DEFINITION. The meanings of commands. Power, heat and coolant (chapter 14).
-/
namespace Sys2Proof.Machine

/-- CURRENT_ESTIMATE (R384). -/
def execCurrentEstimate (d : DieId) (s : State) : Host.Outcome State Fault Refusal := live s (currentEstimate d.val)

/-- LIMITER_STEP_DOWN (R386). -/
def execLimiterStepDown (d : DieId) (s : State) : Host.Outcome State Fault Refusal := live s (limiterDown d.val)

/-- LIMITER_STEP_UP (R386). -/
def execLimiterStepUp (d : DieId) (s : State) : Host.Outcome State Fault Refusal := live s (limiterUp d.val)

/-- PROTECTION_STEP (R387). -/
def execProtectionStep (d : DieId) (s : State) : Host.Outcome State Fault Refusal := live s (protectionDown d.val)

/-- PROTECTION_RELEASE (R387). -/
def execProtectionRelease (d : DieId) (s : State) : Host.Outcome State Fault Refusal := live s (protectionUp d.val)

/-- UNLIMITED_RAIL_OVER (R378). -/
def execUnlimitedRailOver (rail : RailId) (s : State) : Host.Outcome State Fault Refusal := live s (unlimitedOver rail.val)

/-- RECONCILIATION (R449). -/
def execReconciliation (eout : List Eout) (s : State) : Host.Outcome State Fault Refusal := live s (reconcile eout)

/-- POWER_CEIL_RELEASE (R388). -/
def execPowerCeilRelease (s : State) : Host.Outcome State Fault Refusal := live s powerCeilUp

/-- RAMP_UPDATE (R382). -/
def execRampUpdate (d : DieId) (s : State) : Host.Outcome State Fault Refusal := live s (rampUpdate d.val)

/-- VOLTAGE_CONFIRM (R383). -/
def execVoltageConfirm (d : DieId) (confirmed : Bool) (s : State) : Host.Outcome State Fault Refusal :=
  live s (voltageConfirm d.val confirmed)

/-- SLEW_END (R383). -/
def execSlewEnd (d : DieId) (s : State) : Host.Outcome State Fault Refusal := live s (slewEnds d.val)

/-- QUADRANT_IDLE (R381). -/
def execQuadrantIdle (d : DieId) (s : State) : Host.Outcome State Fault Refusal := live s (quadrantIdle d.val)

/-- AGEING_CHECK (R380). -/
def execAgeingCheck (d : DieId) (slacks : List (Int × Int)) (s : State) : Host.Outcome State Fault Refusal :=
  live s (ageingCheck d.val slacks)

/-- SENSOR_CONVERSION (R390). -/
def execSensorConversion (readings : List (Option Int)) (s : State) : Host.Outcome State Fault Refusal :=
  live s (sensorConversion readings)

/-- THERMAL_MODEL_UPDATE (R393). -/
def execThermalModelUpdate (t : TowerId) (s : State) : Host.Outcome State Fault Refusal := live s (towerModel t.val)

/-- HOT_SPOT_MODEL (R391). -/
def execHotSpotModel (d : DieId) (s : State) : Host.Outcome State Fault Refusal := live s (hotSpotModel d.val)

/-- SENSOR_SUSPECT (R391). -/
def execSensorSuspect (d : DieId) (h : Fin 8) (s : State) : Host.Outcome State Fault Refusal :=
  live s (sensorSuspects d.val h.val)

/-- SENSOR_FAIL (R392). -/
def execSensorFail (n : SensorId) (s : State) : Host.Outcome State Fault Refusal := live s (sensorFails n.val)

/-- HIDDEN_HEAT (R394). -/
def execHiddenHeat (t : TowerId) (layer : Fin 16) (s : State) : Host.Outcome State Fault Refusal :=
  live s (hiddenHeat t.val layer.val)

/-- THERMAL_CEIL_STEP (R395). -/
def execThermalCeilStep (d : DieId) (s : State) : Host.Outcome State Fault Refusal := live s (thermalCeilDown d.val)

/-- THERMAL_CEIL_RELEASE (R395). -/
def execThermalCeilRelease (d : DieId) (s : State) : Host.Outcome State Fault Refusal := live s (thermalCeilUp d.val)

/-- HARDWARE_TRIP (R398). -/
def execHardwareTrip (d : DieId) (h : Fin 8) (reading : Int) (s : State) : Host.Outcome State Fault Refusal :=
  live s (hardwareTrip d.val h.val reading)

/-- HEAT_PATH_SAMPLE (R399). -/
def execHeatPathSample (d : DieId) (dTemp dPower : Int) (s : State) : Host.Outcome State Fault Refusal :=
  live s (heatPathSample d.val dTemp dPower)

end Sys2Proof.Machine
end

