-- ==== Sys2Proof/Machine/Receipts.lean ====
section
/-!
DEFINITION. The meanings of commands. Receipts and roots (chapter 16).
-/
namespace Sys2Proof.Machine

/-- BATCH_TIMEOUT (R456). -/
def execBatchTimeout (s : State) : Host.Outcome State Fault Refusal := live s batchTimeout

/-- ROOT_SIGNED (R458). -/
def execRootSigned (s : State) : Host.Outcome State Fault Refusal := live s rootSigned

/-- RNG_RESEED (R437). -/
def execRngReseed (d : DieId) (health : BitVec 2) (s : State) : Host.Outcome State Fault Refusal :=
  live s (rngReseed d.val health)

/-- CLOSED_BATCH_WAIT (R458). -/
def execClosedBatchWait (s : State) : Host.Outcome State Fault Refusal := live s batchWaits

end Sys2Proof.Machine
end

