-- ==== Sys2Proof/Machine/ResetCmds.lean ====
section
/-!
DEFINITION. The meanings of commands. Resets, muzzles and pins (chapters 13 and 17).
-/
namespace Sys2Proof.Machine

/-- RST_CORE (R357). -/
def execRstCore (target : BitVec 12) (s : State) : Host.Outcome State Fault Refusal :=
  live s (control rstPg 0x200 (command 1 target.toNat))

/-- RST_PACK (R357). -/
def execRstPack (target : BitVec 12) (s : State) : Host.Outcome State Fault Refusal :=
  live s (control rstPg 0x200 (command 2 target.toNat))

/-- RST_TOWER (R359). -/
def execRstTower (target : BitVec 12) (s : State) : Host.Outcome State Fault Refusal :=
  live s (control rstPg 0x200 (command 3 target.toNat))

/-- TOWER_RESET_RESUME (R361). -/
def execTowerResetResume (t : TowerId) (disagree : List ColId) (s : State) : Host.Outcome State Fault Refusal :=
  live s (towerResumes t.val (disagree.map (·.val)))

/-- RST_PARTITION (R363). -/
def execRstPartition (p : PartId) (s : State) : Host.Outcome State Fault Refusal :=
  live s (control rstPg 0x040 (command 1 p.val))

/-- RST_WARM (R365). -/
def execRstWarm (s : State) : Host.Outcome State Fault Refusal := live s (control rstPg 0x040 (command 2 0))

/-- WARM_DRAIN_TIMEOUT (R365). -/
def execWarmDrainTimeout (p : PartId) (q : RingId) (s : State) : Host.Outcome State Fault Refusal :=
  live s (drainTimeout p.val q.val)

/-- RST_COLD (R366). -/
def execRstCold (s : State) : Host.Outcome State Fault Refusal := live s (control rstPg 0x200 (command 4 0))

/-- FIRMWARE_WATCHDOG (R351). -/
def execFirmwareWatchdog (s : State) : Host.Outcome State Fault Refusal := live s watchdog

/-- MUZZLE (R367). -/
def execMuzzle (r : RegionId) (user : BitVec 7) (s : State) : Host.Outcome State Fault Refusal :=
  live s (control (rgnPg r.val) 0x200 (command 1 user.toNat))

/-- CLOCK_BOND_FAIL (R26). -/
def execClockBondFail (t : TowerId) (bond : Fin 2) (s : State) : Host.Outcome State Fault Refusal :=
  live s (clockBondFails t.val bond.val)

/-- COLD_RST_N (R471). -/
def execColdRstN (pulse : Nat) (s : State) : Host.Outcome State Fault Refusal := on s (coldPin pulse)

/-- POWER_GOOD_FALL (R317). -/
def execPowerGoodFall (pin : PgPin) (pulse : Nat) (s : State) : Host.Outcome State Fault Refusal :=
  on s (pinFalls pin pulse)

/-- PG_AUX (R467). -/
def execPgAux (addr1 addr0 : Bool) (s : State) : Host.Outcome State Fault Refusal := on s (pgAux addr1 addr0)

/-- REFCLK_LOSS (R470). -/
def execRefclkLoss (s : State) : Host.Outcome State Fault Refusal := on s refclkLost

end Sys2Proof.Machine
end

