-- ==== Sys2Proof/Machine/SidebandCmds.lean ====
section
/-!
DEFINITION. The meanings of commands. SMBus and JTAG (chapter 17).
-/
namespace Sys2Proof.Machine

/-- SMB_SET_ADDR (R476). -/
def execSmbSetAddr (pg : BitVec 16) (off : BitVec 16) (pecOk : Bool) (s : State) : Host.Outcome State Fault Refusal :=
  on s (smbBus (smbSetAddr pg.toNat off.toNat pecOk))

/-- SMB_READ (R476). -/
def execSmbRead (pecOk : Bool) (s : State) : Host.Outcome State Fault Refusal := on s (smbBus (smbRead pecOk))

/-- SMB_STATUS (R476). -/
def execSmbStatus (pecOk : Bool) (s : State) : Host.Outcome State Fault Refusal := on s (smbBus (smbStatus pecOk))

/-- SMB_TIMEOUT (R475). -/
def execSmbTimeout (s : State) : Host.Outcome State Fault Refusal := on s (smbBus smbTimeout)

/-- EXTEST (R478). -/
def execExtest (cells : BitVec 20) (s : State) : Host.Outcome State Fault Refusal := on s (extest cells)

/-- SAMPLE_PRELOAD (R478). -/
def execSamplePreload (sampled preload : BitVec 20) (s : State) : Host.Outcome State Fault Refusal :=
  on s (samplePreload sampled preload)

/-- IDCODE (R478). -/
def execIdcode (s : State) : Host.Outcome State Fault Refusal := on s jtagIdcode

/-- DIE_SEL (R478). -/
def execDieSel (sel : BitVec 4) (s : State) : Host.Outcome State Fault Refusal := on s (dieSel sel.toNat)

/-- JTAG_PAGE_READ (R479). -/
def execJtagPageRead (pg : BitVec 16) (off : BitVec 12) (s : State) : Host.Outcome State Fault Refusal :=
  on s (jtagPageRead pg.toNat off.toNat)

/-- STANDALONE (R479). -/
def execStandalone (bit : Bool) (s : State) : Host.Outcome State Fault Refusal := on s (standAlone bit)

/-- BYPASS (R478). -/
def execBypass (code : BitVec 8) (s : State) : Host.Outcome State Fault Refusal := on s (jtagBypass code.toNat)

/-- JTAG_LOCK (R479). -/
def execJtagLock (s : State) : Host.Outcome State Fault Refusal := live s (control jtagPg 0x200 1)

/-- TRST_N (R478). -/
def execTrstN (s : State) : Host.Outcome State Fault Refusal := on s testReset

end Sys2Proof.Machine
end

