-- ==== Sys2Proof/Machine/StartUp.lean ====
section
/-!
DEFINITION. The meanings of commands. Start, test and repair (chapter 12).
-/
namespace Sys2Proof.Machine

/-- DEVICE_START (R317). -/
def execDeviceStart (s : State) : Host.Outcome State Fault Refusal := on s deviceStart

/-- DIE_CHECKS (R319). -/
def execDieChecks (d : DieId) (passed : BitVec 8) (s : State) : Host.Outcome State Fault Refusal :=
  live s (dieChecks d.val passed)

/-- READY (R321). -/
def execReady (src dst : DieId) (s : State) : Host.Outcome State Fault Refusal := live s (ready src.val dst.val)

/-- ELECTION_CLOSE (R321). -/
def execElectionClose (d : DieId) (s : State) : Host.Outcome State Fault Refusal := live s (electionClose d.val)

/-- LEAD (R321). -/
def execLead (src dst : DieId) (s : State) : Host.Outcome State Fault Refusal := live s (leadMsg src.val dst.val)

/-- REFUSE (R321). -/
def execRefuse (src dst named : DieId) (s : State) : Host.Outcome State Fault Refusal :=
  live s (refuseMsg src.val dst.val named.val)

/-- ACCEPT (R321). -/
def execAccept (src dst : DieId) (s : State) : Host.Outcome State Fault Refusal := live s (acceptMsg src.val dst.val)

/-- ELECTION_ROUND_END (R321). -/
def execElectionRoundEnd (s : State) : Host.Outcome State Fault Refusal := live s electionRoundEnd

/-- STEWARD_FAIL (R322). -/
def execStewardFail (d : DieId) (k : Fin 2) (s : State) : Host.Outcome State Fault Refusal :=
  live s (stewardFails d.val k.val)

/-- FIRMWARE_SELECT (R323). -/
def execFirmwareSelect (s : State) : Host.Outcome State Fault Refusal := live s firmwareSelect

/-- LOAD_HOST (R324). -/
def execLoadHost (s : State) : Host.Outcome State Fault Refusal := live s (control bootPg 0x048 (command 1 0))

/-- WRITE_SLOT (R326). -/
def execWriteSlot (slot : Fin 2) (s : State) : Host.Outcome State Fault Refusal :=
  live s (control bootPg 0x048 (command 2 slot.val))

/-- FIRMWARE_BLOCK (R325). -/
def execFirmwareBlock (rcv : Receiver) (sec : Fin 32) (data : List Byte) (s : State) : Host.Outcome State Fault Refusal :=
  live s (firmwareBlock (receiverNo rcv) sec.val data)

/-- CHECKER_SELF_TEST (R330). -/
def execCheckerSelfTest (c : Checker) (pass : Bool) (s : State) : Host.Outcome State Fault Refusal :=
  live s (checkerSelfTest c pass)

/-- KNOWN_ANSWER_RUN (R333). -/
def execKnownAnswerRun (ent : BitVec 32) (pass : Bool) (s : State) : Host.Outcome State Fault Refusal :=
  live s (knownAnswerRun ent.toNat pass)

/-- MAP_BUILD (R341). -/
def execMapBuild (s : State) : Host.Outcome State Fault Refusal := live s mapBuild

/-- KAT_RUN (R347). -/
def execKatRun (r : RegionId) (failed : List (BitVec 32)) (s : State) : Host.Outcome State Fault Refusal :=
  live s (katWrite r.val (failed.map (·.toNat)))

/-- KENL_ADD (R346). -/
def execKenlAdd (ent : BitVec 32) (s : State) : Host.Outcome State Fault Refusal :=
  live s (control kenlPg 0x200 (ent.setWidth 64))

/-- START_UP_TEST (R332). -/
def execStartUpTest (failed : List (BitVec 32)) (s : State) : Host.Outcome State Fault Refusal :=
  live s (startUpTest (failed.map (·.toNat)))

end Sys2Proof.Machine
end

