-- ==== Sys2Proof/Machine/Towers.lean ====
section
/-!
DEFINITION. The meanings of commands. Host pieces, tower commands, sweeps and refresh (chapter 6).
-/
namespace Sys2Proof.Machine

/-- HOST_PIECE (R174). -/
def execHostPiece (t : TowerId) (b : ColId) (s : State) : Host.Outcome State Fault Refusal := live s (hostPiece t.val b.val)

/-- TWR_CLEAR (R167). -/
def execTwrClear (t : TowerId) (k : BitVec 15) (s : State) : Host.Outcome State Fault Refusal :=
  live s (control (twrPg t.val) 0x040 (command 1 k.toNat))

/-- SET_ATTR (R181). -/
def execSetAttr (t : TowerId) (k : BitVec 15) (perm : BitVec 4) (part : BitVec 3) (s : State) : Host.Outcome State Fault Refusal :=
  live s (control (twrPg t.val) 0x040 (command 2 (perm.toNat * 2 ^ 56 + part.toNat * 2 ^ 53 + k.toNat)))

/-- TWR_SWEEP (R181). -/
def execTwrSweep (t : TowerId) (k : BitVec 15) (s : State) : Host.Outcome State Fault Refusal :=
  live s (control (twrPg t.val) 0x040 (command 3 k.toNat))

/-- MIGRATE (R178). -/
def execMigrate (t : TowerId) (k : BitVec 15) (s : State) : Host.Outcome State Fault Refusal :=
  live s (control (twrPg t.val) 0x200 (command 1 k.toNat))

/-- LAT_RESTART (R182). -/
def execLatRestart (t : TowerId) (s : State) : Host.Outcome State Fault Refusal := live s (control (twrPg t.val) 0x058 1)

/-- SWEEP_BLOCK (R169). -/
def execSweepBlock (t : TowerId) (s : State) : Host.Outcome State Fault Refusal := live s (sweepBlock t.val)

/-- REFRESH_TICK (R171). -/
def execRefreshTick (t : TowerId) (s : State) : Host.Outcome State Fault Refusal := live s (refreshTick t.val)

/-- REFRESH_FORCED (R171). -/
def execRefreshForced (t : TowerId) (b : ColId) (s : State) : Host.Outcome State Fault Refusal :=
  live s (refreshForced t.val b.val)

/-- REFRESH_STRETCH (R171). -/
def execRefreshStretch (t : TowerId) (b : ColId) (s : State) : Host.Outcome State Fault Refusal :=
  live s (refreshStretch t.val b.val)

end Sys2Proof.Machine
end

