-- ==== Sys2Proof/Machine/WearLife.lean ====
section
/-!
DEFINITION. The meanings of commands. Errors, wear and the life log (chapter 15).
-/
namespace Sys2Proof.Machine

/-- BUCKET_LEAK (R414). -/
def execBucketLeak (s : State) : Host.Outcome State Fault Refusal := live s bucketLeak

/-- SRAM_SCRUB (R413). -/
def execSramScrub (st : SramStore) (words : List (BitVec 32)) (uncorrectable : Bool) (s : State) : Host.Outcome State Fault Refusal :=
  live s (sramScrub st (words.map (·.toNat)) uncorrectable)

/-- SCRUB_PASS (R417). -/
def execScrubPass (t : TowerId) (margins : List (BitVec 3)) (s : State) : Host.Outcome State Fault Refusal :=
  live s (scrubPass t.val margins)

/-- SCRUB_BLOCK (R418). -/
def execScrubBlock (t : TowerId) (s : State) : Host.Outcome State Fault Refusal := live s (scrubBlock t.val)

/-- SCRUB_BEHIND (R418). -/
def execScrubBehind (t : TowerId) (s : State) : Host.Outcome State Fault Refusal := live s (scrubBehind t.val)

/-- AGEING_SAMPLE (R420). -/
def execAgeingSample (slacks : List Int) (eyeA eyeB : List (BitVec 8)) (s : State) : Host.Outcome State Fault Refusal :=
  live s (ageingSample slacks eyeA eyeB)

/-- LIFE_SUMMARY (R425). -/
def execLifeSummary (s : State) : Host.Outcome State Fault Refusal := live s summaryTick

end Sys2Proof.Machine
end

