-- ==== Sys2Proof/Machine/Dispatch.lean ====
section
/-!
DEFINITION. The dispatch of a command to its meaning, one arm per constructor.
-/
namespace Sys2Proof.Machine

def exec (i : Instr) (s : State) : Host.Outcome State Fault Refusal :=
  match i with
  | .moveCopy n => Sys2Proof.Machine.execMoveCopy n s
  | .loadT n => Sys2Proof.Machine.execLoadT n s
  | .storeT n => Sys2Proof.Machine.execStoreT n s
  | .moveLoadX n => Sys2Proof.Machine.execMoveLoadX n s
  | .storeX n => Sys2Proof.Machine.execStoreX n s
  | .tToX n => Sys2Proof.Machine.execTToX n s
  | .xToT n => Sys2Proof.Machine.execXToT n s
  | .sendO n => Sys2Proof.Machine.execSendO n s
  | .recvO n => Sys2Proof.Machine.execRecvO n s
  | .feedT n => Sys2Proof.Machine.execFeedT n s
  | .feedO n => Sys2Proof.Machine.execFeedO n s
  | .gatherT n => Sys2Proof.Machine.execGatherT n s
  | .gatherX n => Sys2Proof.Machine.execGatherX n s
  | .loadN n => Sys2Proof.Machine.execLoadN n s
  | .arrayLoadX n => Sys2Proof.Machine.execArrayLoadX n s
  | .stream n => Sys2Proof.Machine.execStream n s
  | .accClear n => Sys2Proof.Machine.execAccClear n s
  | .drainV n => Sys2Proof.Machine.execDrainV n s
  | .drainS n => Sys2Proof.Machine.execDrainS n s
  | .save n => Sys2Proof.Machine.execSave n s
  | .restore n => Sys2Proof.Machine.execRestore n s
  | .merge n => Sys2Proof.Machine.execMerge n s
  | .vecAdd n => Sys2Proof.Machine.execVecAdd n s
  | .vecSub n => Sys2Proof.Machine.execVecSub n s
  | .vecMul n => Sys2Proof.Machine.execVecMul n s
  | .fma n => Sys2Proof.Machine.execFma n s
  | .vecMin n => Sys2Proof.Machine.execVecMin n s
  | .vecMax n => Sys2Proof.Machine.execVecMax n s
  | .cmplt n => Sys2Proof.Machine.execCmplt n s
  | .cmpeq n => Sys2Proof.Machine.execCmpeq n s
  | .cvtTo n => Sys2Proof.Machine.execCvtTo n s
  | .cvtFrom n => Sys2Proof.Machine.execCvtFrom n s
  | .rcp n => Sys2Proof.Machine.execRcp n s
  | .rsqrt n => Sys2Proof.Machine.execRsqrt n s
  | .exp2 n => Sys2Proof.Machine.execExp2 n s
  | .log2 n => Sys2Proof.Machine.execLog2 n s
  | .addFold n => Sys2Proof.Machine.execAddFold n s
  | .maxFold n => Sys2Proof.Machine.execMaxFold n s
  | .minFold n => Sys2Proof.Machine.execMinFold n s
  | .setk n => Sys2Proof.Machine.execSetk n s
  | .syncTake n => Sys2Proof.Machine.execSyncTake n s
  | .release n => Sys2Proof.Machine.execRelease n s
  | .give n => Sys2Proof.Machine.execGive n s
  | .syncWait n => Sys2Proof.Machine.execSyncWait n s
  | .ctrlNop n => Sys2Proof.Machine.execCtrlNop n s
  | .loop n => Sys2Proof.Machine.execLoop n s
  | .branch n => Sys2Proof.Machine.execBranch n s
  | .phase n => Sys2Proof.Machine.execPhase n s
  | .seta n => Sys2Proof.Machine.execSeta n s
  | .adda n => Sys2Proof.Machine.execAdda n s
  | .settle n => Sys2Proof.Machine.execSettle n s
  | .ctrlEnd n => Sys2Proof.Machine.execCtrlEnd n s
  | .reservedStep n => Sys2Proof.Machine.execReservedStep n s
  | .stepComplete n e => Sys2Proof.Machine.execStepComplete n e s
  | .coreHeelReq n => Sys2Proof.Machine.execCoreHeelReq n s
  | .coreResume n => Sys2Proof.Machine.execCoreResume n s
  | .tokenGrant r p user turn crcOk => Sys2Proof.Machine.execTokenGrant r p user turn crcOk s
  | .tokenRelease r p user turn crcOk => Sys2Proof.Machine.execTokenRelease r p user turn crcOk s
  | .tokenAck r p turn crcOk => Sys2Proof.Machine.execTokenAck r p turn crcOk s
  | .tokenResend r p => Sys2Proof.Machine.execTokenResend r p s
  | .tokenStall r p => Sys2Proof.Machine.execTokenStall r p s
  | .portAccess r p a clash => Sys2Proof.Machine.execPortAccess r p a clash s
  | .fetchTurnEnd t b => Sys2Proof.Machine.execFetchTurnEnd t b s
  | .leash dst src srcLink count seq crcOk => Sys2Proof.Machine.execLeash dst src srcLink count seq crcOk s
  | .whistleAck src dst seq crcOk => Sys2Proof.Machine.execWhistleAck src dst seq crcOk s
  | .whistleResend src dst seq => Sys2Proof.Machine.execWhistleResend src dst seq s
  | .whsCheck w => Sys2Proof.Machine.execWhsCheck w s
  | .whsTake w => Sys2Proof.Machine.execWhsTake w s
  | .slotTableSwitch w ring => Sys2Proof.Machine.execSlotTableSwitch w ring s
  | .hostPiece t b => Sys2Proof.Machine.execHostPiece t b s
  | .twrClear t k => Sys2Proof.Machine.execTwrClear t k s
  | .setAttr t k perm part => Sys2Proof.Machine.execSetAttr t k perm part s
  | .twrSweep t k => Sys2Proof.Machine.execTwrSweep t k s
  | .migrate t k => Sys2Proof.Machine.execMigrate t k s
  | .latRestart t => Sys2Proof.Machine.execLatRestart t s
  | .sweepBlock t => Sys2Proof.Machine.execSweepBlock t s
  | .refreshTick t => Sys2Proof.Machine.execRefreshTick t s
  | .refreshForced t b => Sys2Proof.Machine.execRefreshForced t b s
  | .refreshStretch t b => Sys2Proof.Machine.execRefreshStretch t b s
  | .mvRow t => Sys2Proof.Machine.execMvRow t s
  | .reduce t => Sys2Proof.Machine.execReduce t s
  | .stAcc t => Sys2Proof.Machine.execStAcc t s
  | .ewAdd t => Sys2Proof.Machine.execEwAdd t s
  | .ewMul t => Sys2Proof.Machine.execEwMul t s
  | .fill t => Sys2Proof.Machine.execFill t s
  | .floorCopy t => Sys2Proof.Machine.execFloorCopy t s
  | .floorClear t => Sys2Proof.Machine.execFloorClear t s
  | .floorGather t => Sys2Proof.Machine.execFloorGather t s
  | .vload t => Sys2Proof.Machine.execVload t s
  | .vstore t => Sys2Proof.Machine.execVstore t s
  | .hole t => Sys2Proof.Machine.execHole t s
  | .turn t => Sys2Proof.Machine.execTurn t s
  | .floorEnd t => Sys2Proof.Machine.execFloorEnd t s
  | .flrHeelReq t => Sys2Proof.Machine.execFlrHeelReq t s
  | .flrResume t => Sys2Proof.Machine.execFlrResume t s
  | .capSubwindow t => Sys2Proof.Machine.execCapSubwindow t s
  | .optDataFrame r q f => Sys2Proof.Machine.execOptDataFrame r q f s
  | .optLastFrame r q f => Sys2Proof.Machine.execOptLastFrame r q f s
  | .optIdleFrame r q f => Sys2Proof.Machine.execOptIdleFrame r q f s
  | .optFencedFrame r q f => Sys2Proof.Machine.execOptFencedFrame r q f s
  | .optRefusedFrame r q f => Sys2Proof.Machine.execOptRefusedFrame r q f s
  | .bundleSlot t b up f => Sys2Proof.Machine.execBundleSlot t b up f s
  | .crcWindow r link weak => Sys2Proof.Machine.execCrcWindow r link weak s
  | .trainBypass r link far group pos => Sys2Proof.Machine.execTrainBypass r link far group pos s
  | .trainAdv r link far halves joint tid => Sys2Proof.Machine.execTrainAdv r link far halves joint tid s
  | .trainConf r link far halves joint tid => Sys2Proof.Machine.execTrainConf r link far halves joint tid s
  | .combFail c => Sys2Proof.Machine.execCombFail c s
  | .retrain r => Sys2Proof.Machine.execRetrain r s
  | .jointTrain r => Sys2Proof.Machine.execJointTrain r s
  | .loopSelf r => Sys2Proof.Machine.execLoopSelf r s
  | .loopFar r => Sys2Proof.Machine.execLoopFar r s
  | .loopEnd r => Sys2Proof.Machine.execLoopEnd r s
  | .planLoad p => Sys2Proof.Machine.execPlanLoad p s
  | .planUnload p => Sys2Proof.Machine.execPlanUnload p s
  | .ringEnable p cfg => Sys2Proof.Machine.execRingEnable p cfg s
  | .ringAbort p => Sys2Proof.Machine.execRingAbort p s
  | .sqTail p q v => Sys2Proof.Machine.execSqTail p q v s
  | .cqHead p q v => Sys2Proof.Machine.execCqHead p q v s
  | .run p q => Sys2Proof.Machine.execRun p q s
  | .batchStep p q => Sys2Proof.Machine.execBatchStep p q s
  | .streamOpen p q => Sys2Proof.Machine.execStreamOpen p q s
  | .streamAbort p q => Sys2Proof.Machine.execStreamAbort p q s
  | .streamRelease p q => Sys2Proof.Machine.execStreamRelease p q s
  | .nop p q => Sys2Proof.Machine.execNop p q s
  | .flitTlp h f => Sys2Proof.Machine.execFlitTlp h f s
  | .flitIdle h f => Sys2Proof.Machine.execFlitIdle h f s
  | .mwr h => Sys2Proof.Machine.execMwr h s
  | .mrd h => Sys2Proof.Machine.execMrd h s
  | .crd h => Sys2Proof.Machine.execCrd h s
  | .cwr h => Sys2Proof.Machine.execCwr h s
  | .cpl h => Sys2Proof.Machine.execCpl h s
  | .sqDoorbell h => Sys2Proof.Machine.execSqDoorbell h s
  | .cqDoorbell h => Sys2Proof.Machine.execCqDoorbell h s
  | .cplTimeout h tag => Sys2Proof.Machine.execCplTimeout h tag s
  | .nartaNoCodeword h => Sys2Proof.Machine.execNartaNoCodeword h s
  | .portRetry h signal => Sys2Proof.Machine.execPortRetry h signal s
  | .trainingTimeout h => Sys2Proof.Machine.execTrainingTimeout h s
  | .laneWindow h corrected cwUncorr => Sys2Proof.Machine.execLaneWindow h corrected cwUncorr s
  | .nartaLane h record lane => Sys2Proof.Machine.execNartaLane h record lane s
  | .nartaEq h record => Sys2Proof.Machine.execNartaEq h record s
  | .nartaAdv h record usable => Sys2Proof.Machine.execNartaAdv h record usable s
  | .nartaConf h record => Sys2Proof.Machine.execNartaConf h record s
  | .nartaStart h record => Sys2Proof.Machine.execNartaStart h record s
  | .fullTrain h => Sys2Proof.Machine.execFullTrain h s
  | .hlkDisable h => Sys2Proof.Machine.execHlkDisable h s
  | .hlkEnable h => Sys2Proof.Machine.execHlkEnable h s
  | .hlkCtl home sysPort => Sys2Proof.Machine.execHlkCtl home sysPort s
  | .pageGuard pg key => Sys2Proof.Machine.execPageGuard pg key s
  | .registerWrite pg off v => Sys2Proof.Machine.execRegisterWrite pg off v s
  | .evtHead v => Sys2Proof.Machine.execEvtHead v s
  | .rcptHead v => Sys2Proof.Machine.execRcptHead v s
  | .warmReq => Sys2Proof.Machine.execWarmReq s
  | .noteTime utc => Sys2Proof.Machine.execNoteTime utc s
  | .noteDurable => Sys2Proof.Machine.execNoteDurable s
  | .attest => Sys2Proof.Machine.execAttest s
  | .reportSigned => Sys2Proof.Machine.execReportSigned s
  | .advance => Sys2Proof.Machine.execAdvance s
  | .alertAck => Sys2Proof.Machine.execAlertAck s
  | .rebase => Sys2Proof.Machine.execRebase s
  | .deviceStart => Sys2Proof.Machine.execDeviceStart s
  | .dieChecks d passed => Sys2Proof.Machine.execDieChecks d passed s
  | .ready src dst => Sys2Proof.Machine.execReady src dst s
  | .electionClose d => Sys2Proof.Machine.execElectionClose d s
  | .lead src dst => Sys2Proof.Machine.execLead src dst s
  | .refuse src dst named => Sys2Proof.Machine.execRefuse src dst named s
  | .accept src dst => Sys2Proof.Machine.execAccept src dst s
  | .electionRoundEnd => Sys2Proof.Machine.execElectionRoundEnd s
  | .stewardFail d k => Sys2Proof.Machine.execStewardFail d k s
  | .firmwareSelect => Sys2Proof.Machine.execFirmwareSelect s
  | .loadHost => Sys2Proof.Machine.execLoadHost s
  | .writeSlot slot => Sys2Proof.Machine.execWriteSlot slot s
  | .firmwareBlock rcv sec data => Sys2Proof.Machine.execFirmwareBlock rcv sec data s
  | .checkerSelfTest c pass => Sys2Proof.Machine.execCheckerSelfTest c pass s
  | .knownAnswerRun ent pass => Sys2Proof.Machine.execKnownAnswerRun ent pass s
  | .mapBuild => Sys2Proof.Machine.execMapBuild s
  | .katRun r failed => Sys2Proof.Machine.execKatRun r failed s
  | .kenlAdd ent => Sys2Proof.Machine.execKenlAdd ent s
  | .rstCore target => Sys2Proof.Machine.execRstCore target s
  | .rstPack target => Sys2Proof.Machine.execRstPack target s
  | .rstTower target => Sys2Proof.Machine.execRstTower target s
  | .towerResetResume t disagree => Sys2Proof.Machine.execTowerResetResume t disagree s
  | .rstPartition p => Sys2Proof.Machine.execRstPartition p s
  | .rstWarm => Sys2Proof.Machine.execRstWarm s
  | .warmDrainTimeout p q => Sys2Proof.Machine.execWarmDrainTimeout p q s
  | .rstCold => Sys2Proof.Machine.execRstCold s
  | .firmwareWatchdog => Sys2Proof.Machine.execFirmwareWatchdog s
  | .muzzle r user => Sys2Proof.Machine.execMuzzle r user s
  | .clockBondFail t bond => Sys2Proof.Machine.execClockBondFail t bond s
  | .coldRstN pulse => Sys2Proof.Machine.execColdRstN pulse s
  | .powerGoodFall pin pulse => Sys2Proof.Machine.execPowerGoodFall pin pulse s
  | .pgAux addr1 addr0 => Sys2Proof.Machine.execPgAux addr1 addr0 s
  | .refclkLoss => Sys2Proof.Machine.execRefclkLoss s
  | .currentEstimate d => Sys2Proof.Machine.execCurrentEstimate d s
  | .limiterStepDown d => Sys2Proof.Machine.execLimiterStepDown d s
  | .limiterStepUp d => Sys2Proof.Machine.execLimiterStepUp d s
  | .protectionStep d => Sys2Proof.Machine.execProtectionStep d s
  | .protectionRelease d => Sys2Proof.Machine.execProtectionRelease d s
  | .unlimitedRailOver rail => Sys2Proof.Machine.execUnlimitedRailOver rail s
  | .reconciliation eout => Sys2Proof.Machine.execReconciliation eout s
  | .powerCeilRelease => Sys2Proof.Machine.execPowerCeilRelease s
  | .rampUpdate d => Sys2Proof.Machine.execRampUpdate d s
  | .voltageConfirm d confirmed => Sys2Proof.Machine.execVoltageConfirm d confirmed s
  | .slewEnd d => Sys2Proof.Machine.execSlewEnd d s
  | .quadrantIdle d => Sys2Proof.Machine.execQuadrantIdle d s
  | .ageingCheck d slacks => Sys2Proof.Machine.execAgeingCheck d slacks s
  | .sensorConversion readings => Sys2Proof.Machine.execSensorConversion readings s
  | .thermalModelUpdate t => Sys2Proof.Machine.execThermalModelUpdate t s
  | .hotSpotModel d => Sys2Proof.Machine.execHotSpotModel d s
  | .sensorSuspect d h => Sys2Proof.Machine.execSensorSuspect d h s
  | .sensorFail n => Sys2Proof.Machine.execSensorFail n s
  | .hiddenHeat t layer => Sys2Proof.Machine.execHiddenHeat t layer s
  | .thermalCeilStep d => Sys2Proof.Machine.execThermalCeilStep d s
  | .thermalCeilRelease d => Sys2Proof.Machine.execThermalCeilRelease d s
  | .hardwareTrip d h reading => Sys2Proof.Machine.execHardwareTrip d h reading s
  | .heatPathSample d dTemp dPower => Sys2Proof.Machine.execHeatPathSample d dTemp dPower s
  | .bucketLeak => Sys2Proof.Machine.execBucketLeak s
  | .sramScrub st words uncorrectable => Sys2Proof.Machine.execSramScrub st words uncorrectable s
  | .scrubPass t margins => Sys2Proof.Machine.execScrubPass t margins s
  | .scrubBlock t => Sys2Proof.Machine.execScrubBlock t s
  | .scrubBehind t => Sys2Proof.Machine.execScrubBehind t s
  | .ageingSample slacks eyeA eyeB => Sys2Proof.Machine.execAgeingSample slacks eyeA eyeB s
  | .lifeSummary => Sys2Proof.Machine.execLifeSummary s
  | .batchTimeout => Sys2Proof.Machine.execBatchTimeout s
  | .rootSigned => Sys2Proof.Machine.execRootSigned s
  | .rngReseed d health => Sys2Proof.Machine.execRngReseed d health s
  | .smbSetAddr pg off pecOk => Sys2Proof.Machine.execSmbSetAddr pg off pecOk s
  | .smbRead pecOk => Sys2Proof.Machine.execSmbRead pecOk s
  | .smbStatus pecOk => Sys2Proof.Machine.execSmbStatus pecOk s
  | .smbTimeout => Sys2Proof.Machine.execSmbTimeout s
  | .extest cells => Sys2Proof.Machine.execExtest cells s
  | .samplePreload sampled preload => Sys2Proof.Machine.execSamplePreload sampled preload s
  | .idcode => Sys2Proof.Machine.execIdcode s
  | .dieSel sel => Sys2Proof.Machine.execDieSel sel s
  | .jtagPageRead pg off => Sys2Proof.Machine.execJtagPageRead pg off s
  | .standalone bit => Sys2Proof.Machine.execStandalone bit s
  | .bypass code => Sys2Proof.Machine.execBypass code s
  | .jtagLock => Sys2Proof.Machine.execJtagLock s
  | .floorCmdComplete t => Sys2Proof.Machine.execFloorCmdComplete t s
  | .startUpTest failed => Sys2Proof.Machine.execStartUpTest failed s
  | .linkDetectLock r link eyes centre => Sys2Proof.Machine.execLinkDetectLock r link eyes centre s
  | .linkTrainingTimeout r link => Sys2Proof.Machine.execLinkTrainingTimeout r link s
  | .nartaDetectLock h inverted => Sys2Proof.Machine.execNartaDetectLock h inverted s
  | .closedBatchWait => Sys2Proof.Machine.execClosedBatchWait s
  | .trstN => Sys2Proof.Machine.execTrstN s

end Sys2Proof.Machine
end

