-- ==== Sys2Proof/Safety.lean ====
section
/-!
DEFINITION. The terms claims use: the state a command leaves, a device in which nothing waits, and the invariant of the barks.
-/
namespace Sys2Proof.Machine

/-- The state whose device has taken an effect, after everything that follows of itself. -/
def State.after (s : State) (x : Dev) : State := { s with dev := settle x }

/-- Is a ledger page of a tower retired, so that its records must be lost (R261)? -/
def ledgerGone (d : Dev) (t h : Nat) : Bool := meState (entry d t (Config.pages d.kind - 2 + h)) == meRetired

/-- A ring at rest: no descriptor to be read, none that ends at its head, no completion that could be written. -/
structure RingRest (d : Dev) (p q : Nat) : Prop where
  reads : rqOn (rq d p q) = false ∨ (rq d p q).reading = true ∨ (rq d p q).head = (rq d p q).tail
  head : ∀ i it, headItem d p q = some (i, it) → it.bad = none
  held : (rq d p q).held = [] ∨ rqOn (rq d p q) = false ∨ cqPlace d p (rq d p q) = false

/-- An item waits for nothing in tower memory: it has ended, or it neither waits for zeros nor has cleared its last page. -/
def ItemRest (it : Item) : Prop := it.ended = true ∨ (it.stage ≠ .zeroing ∧ (it.stage = .clearing → it.left ≠ 0))

/-- Nothing waits in the device but barks: no event of a unit, no read or flush that could go on, no lost ledger page, no item or ring with
work, no receipt to place, nothing to send, no flush or stop of a port, no reset that waits or drains. -/
structure Still (d : Dev) : Prop where
  events : d.events = []
  jobs : ∀ x ∈ d.jobs, ∀ j, x.2 = some j → j.busy = true ∧ j.fail = none
  changes : ∀ x ∈ d.change, flushOut d x.1 = true
  ledgers : ∀ x ∈ d.towers, ∀ h, ledgerGone d x.1 h = false
  rings : ∀ x ∈ d.rqs, RingRest d (x.1 / 64) (x.1 % 64)
  items : ∀ x ∈ d.items, ∀ it, x.2 = some it → ItemRest it
  sent : ∀ h, (narta d h).sent = [] ∧ (narta d h).code.sent = []
  sends : ∀ h, txRests (narta d h) = true
  receipts : d.rcptQ = [] ∨ rcptPlace d = false
  drain : d.drain = none
  cold : d.boot.coldNext = false
  towersAt : ∀ x ∈ d.towers, x.2.draining = false
  waits : d.rstWait = []
  failover : d.failover = []
  flushes : ∀ h, (narta d h).flushes = []
  stopping : ∀ h, (narta d h).stopping = false
  wear : getF d flshPg FLSH.FLSH_STAT_WEAR < 800 ∨ d.wearBarked = true

/-- Nothing waits in the device, and no bark either. In such a device nothing follows a command but what the command itself
starts. -/
structure Quiet (d : Dev) : Prop extends Still d where
  raised : d.evt.raised = []
  queue : d.evt.queue = [] ∨ evtOn d = false

/-- Barks stand as R306 states them: none is left to be raised, and one waits in the queue only while the event ring is disabled
or has no place. -/
def BarksPlaced (d : Dev) : Prop :=
  d.evt.raised = [] ∧ (d.evt.queue = [] ∨ evtOn d = false ∨ evtPlace d = false)

/-! ## Steps of a core program -/

/-- Class, operation and core of a command that issues a step of a core program. -/
def stepRow : Instr → Option (Nat × Nat × CoreId)
  | .moveCopy n => some (clsMove, 0x00, n)
  | .loadT n => some (clsMove, 0x01, n)
  | .storeT n => some (clsMove, 0x02, n)
  | .moveLoadX n => some (clsMove, 0x03, n)
  | .storeX n => some (clsMove, 0x04, n)
  | .tToX n => some (clsMove, 0x05, n)
  | .xToT n => some (clsMove, 0x06, n)
  | .sendO n => some (clsMove, 0x07, n)
  | .recvO n => some (clsMove, 0x08, n)
  | .feedT n => some (clsMove, 0x09, n)
  | .feedO n => some (clsMove, 0x0A, n)
  | .gatherT n => some (clsMove, 0x0B, n)
  | .gatherX n => some (clsMove, 0x0C, n)
  | .loadN n => some (clsArray, 0x00, n)
  | .arrayLoadX n => some (clsArray, 0x01, n)
  | .stream n => some (clsArray, 0x02, n)
  | .accClear n => some (clsAcc, 0x00, n)
  | .drainV n => some (clsAcc, 0x01, n)
  | .drainS n => some (clsAcc, 0x02, n)
  | .save n => some (clsAcc, 0x03, n)
  | .restore n => some (clsAcc, 0x04, n)
  | .merge n => some (clsAcc, 0x05, n)
  | .vecAdd n => some (clsVec, 0x00, n)
  | .vecSub n => some (clsVec, 0x01, n)
  | .vecMul n => some (clsVec, 0x02, n)
  | .fma n => some (clsVec, 0x03, n)
  | .vecMin n => some (clsVec, 0x04, n)
  | .vecMax n => some (clsVec, 0x05, n)
  | .cmplt n => some (clsVec, 0x06, n)
  | .cmpeq n => some (clsVec, 0x07, n)
  | .cvtTo n => some (clsVec, 0x08, n)
  | .cvtFrom n => some (clsVec, 0x09, n)
  | .rcp n => some (clsVec, 0x0A, n)
  | .rsqrt n => some (clsVec, 0x0B, n)
  | .exp2 n => some (clsVec, 0x0C, n)
  | .log2 n => some (clsVec, 0x0D, n)
  | .addFold n => some (clsVec, 0x0E, n)
  | .maxFold n => some (clsVec, 0x0F, n)
  | .minFold n => some (clsVec, 0x10, n)
  | .setk n => some (clsVec, 0x11, n)
  | .syncTake n => some (clsSync, 0x00, n)
  | .release n => some (clsSync, 0x01, n)
  | .give n => some (clsSync, 0x02, n)
  | .syncWait n => some (clsSync, 0x03, n)
  | .ctrlNop n => some (clsCtrl, 0x00, n)
  | .loop n => some (clsCtrl, 0x01, n)
  | .branch n => some (clsCtrl, 0x02, n)
  | .phase n => some (clsCtrl, 0x03, n)
  | .seta n => some (clsCtrl, 0x04, n)
  | .adda n => some (clsCtrl, 0x05, n)
  | .settle n => some (clsCtrl, 0x06, n)
  | .ctrlEnd n => some (clsCtrl, 0x07, n)
  | _ => none

/-- The step word `w` stands at the head of issue of core `n` and issues: its word is good, its operation exists, its condition
is true, no fault is found at issue, and nothing holds it (R95). -/
structure Issues (d : Dev) (n : Nat) (w : BitVec 128) : Prop where
  head : headOf (core d n) = some w
  good : (core d n).badStep.contains (core d n).pc = false
  used : (usedBits (wCls w.toNat) (wOp w.toNat)).isSome = true
  cond : wCond w.toNat ≠ 15 ∧ condTrue (core d n) (wCond w.toNat) = true
  legal : (checkStep d.kind n (core d n) w.toNat).code = 0
  free : holdReason d n w.toNat (checkStep d.kind n (core d n) w.toNat) = 0

/-- The core with its head of issue moved on past the step that stands there. -/
def nextHead (c : Core) : Core :=
  { c with st := .run, wait := 0, pc := (afterStep c.pc c.loops).1, loops := (afterStep c.pc c.loops).2 }

/-- The counts of an issued step (R122, R384). -/
def issuing (d : Dev) (n : Nat) : Dev := act (count d (corePg n) CORE.STEPS_ISSUED 1) (unitCore n) 10 1

/-- A step as it stands in its engine's queue: its operands evaluated at issue (R97). -/
def issuedStep (d : Dev) (n : Nat) (w : BitVec 128) : QStep :=
  let k := checkStep d.kind n (core d n) w.toNat
  { idx := (core d n).pc, word := w, eng := engOf w.toNat, ea := k.ea, rng := k.rng, rows := k.rows, cols := k.cols,
    started := false, arrived := true, dataDone := false, failed := false, got := 0, part := [], age := 0, rowMask := 0 }

/-- The device with the step in its engine's queue. -/
def queued (d : Dev) (n : Nat) (w : BitVec 128) : Dev :=
  let c := nextHead (core d n)
  setCore (issuing d n) n (arrayIssue (syncIssue { c with q := c.q ++ [issuedStep d n w] } w.toNat) w.toNat)

/-- An ARRAY, ACC or VEC step starts in its engine. -/
def startStep (d : Dev) (n : Nat) (q : QStep) : Dev :=
  match q.eng with
  | .colFeeder => startLoad d n 0 q
  | .rowFeeder => startStream d n 0 q
  | .vec => startVec d n 0 q
  | _ => startAcc d n 0 q

/-- A DRAIN_V at the head of the queue that has started reads the rows for which its lanes hold leashes (R53, R110). -/
def drainTaken (d : Dev) (n : Nat) : Dev :=
  match (core d n).q.head? with
  | some q => if q.eng == .drain && q.started && !q.arrived && !q.failed then (drainNext d n 0 q).getD d else d
  | none => d

/-! ## Commands of the floor sequencers -/

/-- Operation and tower of a command that starts a floor command. -/
def floorRow : Instr → Option (Nat × TowerId)
  | .mvRow t => some (0x01, t)
  | .reduce t => some (0x02, t)
  | .stAcc t => some (0x03, t)
  | .ewAdd t => some (0x04, t)
  | .ewMul t => some (0x05, t)
  | .fill t => some (0x06, t)
  | .floorCopy t => some (0x07, t)
  | .floorClear t => some (0x08, t)
  | .floorGather t => some (0x09, t)
  | .vload t => some (0x0A, t)
  | .vstore t => some (0x0B, t)
  | .hole t => some (0x0C, t)
  | .turn t => some (0x0D, t)
  | .floorEnd t => some (0x0E, t)
  | _ => none

/-- The command word at the head of a floor sequence may start: the sequencer is ready and its tower in no reset, the word passes its static
checks, it and what it reads are good, and no earlier command, spacing or row gap holds it (R190, R192, R201, R204). -/
structure FloorStarts (d : Dev) (t : Nat) : Prop where
  ready : floorReady (floor d t) = true
  up : (tower d t).hold = false
  loaded : (floor d t).cmd < (floor d t).loaded
  good : floorSramBad d t (floor d t).cmd (fMask d t (fWord d t)) (fWord d t) = false
  legal : floorStatic (fMask d t (fWord d t)) (fWord d t) = 0
  holds : floorHolds (floor d t) (fMask d t (fWord d t)) (fWord d t) = 0

/-- What every data command of the floor counts as it starts, and the times it begins (R190, R203, R204, R384). -/
def floorStarted (d : Dev) (t : Nat) : Dev :=
  floorBegin t (fWord d t) (fMask d t (fWord d t)) (selCols (fMask d t (fWord d t))) d

/-! ## Writes of control registers -/

/-- A register write that a page allows: a lead serves it, the page exists and is neither ABSENT, MUZZLED nor RESET, expert control
is unlocked, and no field takes a reserved code (R298 to R301). -/
structure Allowed (d : Dev) (t : PageType) (pg off : Nat) (v : Word64) : Prop where
  lead : served d = true
  there : ctlReserved pg off = false
  page : pageTypeOf pg = some t
  legal : reservedCode d t.code (pageInst t pg) off v = false
  state : pageState d t.code (pageInst t pg) = 1 ∨ pageState d t.code (pageInst t pg) = 2 ∨ pageState d t.code (pageInst t pg) = 5
  open_ : guarded t off = true → pageUnlocked d pg = true
  writes : writable off = true

/-- The device after a command register has taken a value: its own effect, the value it keeps, and the count of accesses. -/
def keeps (pg off : Nat) (v : Word64) (x : Dev) : Dev := lowerRemain pg off (storeRw pg off v x)

/-! ## Commands that are a write of a control register -/

/-- Page, offset and value of a command without operands that is a write of a control register; pages of which there is one by
their index (R303). -/
def plainRegRow : Instr → Option (Nat × Nat × Word64)
  | .warmReq => some (0, 0x040, 1)
  | .attest => some (6, 0x040, command 1 0)
  | .advance => some (6, 0x200, 1)
  | .alertAck => some (2, 0x040, 1)
  | .rebase => some (2, 0x200, 1)
  | .loadHost => some (8, 0x048, command 1 0)
  | .rstCold => some (13, 0x200, command 4 0)
  | .rstWarm => some (13, 0x040, command 2 0)
  | .jtagLock => some (15, 0x200, 1)
  | _ => none

/-- Page, offset and value of a command that is a write of a control register. -/
def regRow (i : Instr) : Option (Nat × Nat × Word64) :=
  match i with
  | .registerWrite pg off v => some (pg.toNat, off.toNat, v)
  | .pageGuard pg key => some (pg.toNat, 0x018, key)
  | .coreHeelReq n => some (corePg n, 0x040, 1)
  | .coreResume n => some (corePg n, 0x040, 2)
  | .flrHeelReq t => some (flrPg t, 0x040, 1)
  | .flrResume t => some (flrPg t, 0x040, 2)
  | .whsCheck w => some (whsPg w, 0x200, 1)
  | .whsTake w => some (whsPg w, 0x200, 2)
  | .twrClear t k => some (twrPg t, 0x040, command 1 k.toNat)
  | .setAttr t k perm part => some (twrPg t, 0x040, command 2 (perm.toNat * 2 ^ 56 + part.toNat * 2 ^ 53 + k.toNat))
  | .twrSweep t k => some (twrPg t, 0x040, command 3 k.toNat)
  | .migrate t k => some (twrPg t, 0x200, command 1 k.toNat)
  | .latRestart t => some (twrPg t, 0x058, 1)
  | .retrain r => some (optPg r, 0x200, command 1 0)
  | .jointTrain r => some (optPg r, 0x200, command 2 0)
  | .loopSelf r => some (optPg r, 0x200, command 3 0)
  | .loopFar r => some (optPg r, 0x200, command 4 0)
  | .loopEnd r => some (optPg r, 0x200, command 5 0)
  | .planLoad p => some (partPg p, 0x040, command 1 0)
  | .planUnload p => some (partPg p, 0x040, command 2 0)
  | .ringEnable p cfg => some (partPg p, 0x060, cfg)
  | .ringAbort p => some (partPg p, 0x078, 1)
  | .sqTail p q v => some (partPg p, 0xC00 + 16 * q, v.setWidth 64)
  | .cqHead p q v => some (partPg p, 0xC08 + 16 * q, v.setWidth 64)
  | .fullTrain h => some (hlkPg h, 0x210, command 1 0)
  | .hlkDisable h => some (hlkPg h, 0x210, command 2 0)
  | .hlkEnable h => some (hlkPg h, 0x210, command 3 0)
  | .hlkCtl home sys => some (hlkPg 0, 0x040, BitVec.ofNat 64 (sys * 256 + home.toNat))
  | .evtHead v => some (3, 0x050, v.setWidth 64)
  | .rcptHead v => some (5, 0x058, v.setWidth 64)
  | .noteTime utc => some (7, 0x040, utc)
  | .writeSlot k => some (8, 0x048, command 2 k)
  | .kenlAdd e => some (9, 0x200, e.setWidth 64)
  | .rstCore n => some (13, 0x200, command 1 n.toNat)
  | .rstPack k => some (13, 0x200, command 2 k.toNat)
  | .rstTower t => some (13, 0x200, command 3 t.toNat)
  | .rstPartition p => some (13, 0x040, command 1 p)
  | .muzzle r u => some (rgnPg r, 0x200, command 1 u.toNat)
  | _ => plainRegRow i

/-- The pins and ports that act on a device held in reset (R317, R471, R475, R478). -/
def actsInReset : Instr → Bool
  | .deviceStart | .coldRstN _ | .powerGoodFall _ _ | .pgAux _ _ | .refclkLoss => true
  | .smbSetAddr _ _ _ | .smbRead _ | .smbStatus _ | .smbTimeout => true
  | .extest _ | .samplePreload _ _ | .idcode | .dieSel _ | .jtagPageRead _ _ | .standalone _ | .bypass _ | .trstN => true
  | _ => false

end Sys2Proof.Machine
end

