-- ==== Sys2Proof/Certificates/Slice0/Obligations.lean ====
section
/-!
DEFINITION. The statements for the provers. `State.after` is the state a command leaves: its effect, then what follows of itself
(`settle`), which `EmptyQueueIdles` says is nothing in a device where nothing waits.
-/
open Sys2Proof Sys2Proof.Machine

/-! ## The block: commands, the queue, what follows of itself -/

/-- Taking a command from the front of the queue runs it on the rest. -/
def Obligations.StepTakesFront : Prop :=
  ∀ (s : State) (c : Instr), step (s.withCommand c) = exec c s ∧
    (∀ rest, s.pending = c :: rest → step s = exec c { s with pending := rest })

/-- With no command waiting the device runs one cycle of its reference (the model's choice, log entry 3), and what follows of itself.
Nothing follows in a device where nothing waits; where only barks wait, only they leave, and what they send to the host. -/
def Obligations.EmptyQueueIdles : Prop :=
  (∀ s : State, s.pending = [] → step s = .next { dev := settle (tick s.dev), pending := [] }) ∧
  ∀ d : Dev, (Quiet d → settle d = d) ∧ (Still d → settle d = txPump (pumpBarks d))

/-- Every bark has been raised, and one waits only while the event ring is disabled or full, after every step. -/
def Obligations.StepPlacesBarks : Prop :=
  ∀ s s' : State, step s = .next s' → BarksPlaced s'.dev

/-- The machine after reset has no bark to place and no command waiting, and the device is held in reset (R317). -/
def Obligations.ResetPlacesBarks : Prop :=
  BarksPlaced State.reset.dev ∧ State.reset.pending = [] ∧ State.reset.dev.boot.reset = true

/-! ## Steps of a core program (chapters 2 to 4) -/

/-- A step of classes MOVE, ARRAY, ACC, VEC and SYNC but WAIT, at the head of issue and free to issue, joins the queue of its
engine with its operands as they stand now, the head of issue moves on, and the engines go on as far as they can. -/
def Obligations.EngineStepIssues : Prop :=
  ∀ (s : State) (i : Instr) (cls op : Nat) (n : CoreId) (w : BitVec 128),
    stepRow i = some (cls, op, n) → cls ≠ clsCtrl → ¬ (cls = clsSync ∧ op = 3) →
    s.dev.boot.reset = false → Issues s.dev n w → isOp cls op w.toNat = true →
    (nextHead (core s.dev n)).pc < (core s.dev n).loaded →
    exec i s = .next (s.after (pump (queued s.dev n w) n))

/-- An ARRAY, ACC or VEC step that issues on an empty queue, and takes no rows from a link or a drain, starts at once and has its
engine's effect; a DRAIN_V then reads the rows for which its lanes hold leashes; a load finds the shadow tile free, and a stream that takes the shadow finds it filled. -/
def Obligations.ArrayAccVecStepStarts : Prop :=
  ∀ (s : State) (i : Instr) (cls op : Nat) (n : CoreId) (w : BitVec 128),
    stepRow i = some (cls, op, n) → cls = clsArray ∨ cls = clsAcc ∨ cls = clsVec →
    s.dev.boot.reset = false → Issues s.dev n w → isOp cls op w.toNat = true →
    (nextHead (core s.dev n)).pc < (core s.dev n).loaded → (core s.dev n).q = [] →
    (cls = clsArray → op < 2 → (core s.dev n).shadow = none) →
    (cls = clsArray → op = 2 → sDirect w.toNat = false ∧ (sTake w.toNat = true → (core s.dev n).shadow.isSome = true)) →
    (cls = clsVec → vecDrain (issuedStep s.dev n w) = false) →
    exec i s = .next (s.after (showWait (drainTaken (startStep (queued s.dev n w) n (issuedStep s.dev n w)) n) n))

/-- CTRL steps on a core with nothing in its queues act at issue: NOP and SETTLE only pass, PHASE marks a phase, SETA and ADDA
write an address register, LOOP opens a level, BRANCH moves the head of issue with its loops as they stand (R117 to R119). END of a settled core that holds no token and has no drained row: the core is in heel and its item hears of it (R120). -/
def Obligations.CtrlStepActs : Prop :=
  (∀ (s : State) (n : CoreId) (w : BitVec 128), s.dev.boot.reset = false → Issues s.dev n w → (core s.dev n).q = [] →
      wCls w.toNat = clsCtrl →
      let d := issuing s.dev n
      let c := nextHead (core s.dev n)
      let o := core s.dev n
      (wOp w.toNat = 0 → c.pc < o.loaded → exec (.ctrlNop n) s = .next (s.after (setCore d n c))) ∧
      (wOp w.toNat = 6 → c.pc < o.loaded → exec (.settle n) s = .next (s.after (setCore d n c))) ∧
      (wOp w.toNat = 3 → c.pc < o.loaded →
        exec (.phase n) s = .next (s.after (setCore (count d (PWR.page.pg 0) PWR.PHASE_MARKS 1) n { c with phase := kPhase w.toNat }))) ∧
      (wOp w.toNat = 4 → c.pc < o.loaded →
        exec (.seta n) s = .next (s.after (setCore d n
          { c with addr := mput 0 c.addr (kReg w.toNat) (BitVec.ofNat 48 (kVal w.toNat)) }))) ∧
      (wOp w.toNat = 5 → c.pc < o.loaded →
        exec (.adda n) s = .next (s.after (setCore d n
          { c with addr := mput 0 c.addr (kReg w.toNat)
                     (BitVec.ofInt 48 ((mget 0 c.addr (kReg w.toNat)).toNat + kAdd w.toNat)) }))) ∧
      (wOp w.toNat = 1 → o.pc + 1 < o.loaded →
        exec (.loop n) s = .next (s.after (setCore d n
          { c with pc := o.pc + 1, loops := ⟨o.pc, kEnd w.toNat, kCount w.toNat, 0⟩ :: o.loops }))) ∧
      (wOp w.toNat = 2 → kTarget w.toNat < o.loaded →
        exec (.branch n) s = .next (s.after (setCore d n { c with pc := kTarget w.toNat, loops := o.loops })))) ∧
  (∀ (s : State) (n : CoreId) (w : BitVec 128) (item : Nat), s.dev.boot.reset = false → Issues s.dev n w → (core s.dev n).q = [] →
      wCls w.toNat = clsCtrl → wOp w.toNat = 7 → (core s.dev n).holders.any (fun x => x.2.isSome) = false →
      (core s.dev n).drained = [] → (core s.dev n).item = some item →
      exec (.ctrlEnd n) s = .next (s.after (event (setCore (issuing s.dev n) n
        { core s.dev n with st := .heel, wait := 0, item := none, loops := [] }) (.done item n))))

/-- SYNC steps on a core with nothing in its queues: TAKE takes the parked token of its list, RELEASE sends the held token back to
its port, GIVE sends leashes, WAIT passes with enough of them held (R115, R116, R132). -/
def Obligations.SyncStepActs : Prop :=
  ∀ (s : State) (n : CoreId) (w : BitVec 128), s.dev.boot.reset = false → Issues s.dev n w → (core s.dev n).q = [] →
    wCls w.toNat = clsSync → (nextHead (core s.dev n)).pc < (core s.dev n).loaded →
    let d := issuing s.dev n
    let c := nextHead (core s.dev n)
    let r := coreRegion n
    let h := yHolder w.toNat
    let l := yList w.toNat
    let k := yLink w.toNat
    (∀ t, wOp w.toNat = 0 → mget none c.parked l = some t →
      exec (.syncTake n) s = .next (s.after (setPort (setCore d n
        { c with holders := mput none c.holders h (some l), parked := mput none c.parked l none,
                 toks := mput none c.toks h (some t) }) r l { port s.dev r l with place := .held, stalled := false }))) ∧
    (∀ t, wOp w.toNat = 1 → mget none c.toks h = some t →
      exec (.release n) s = .next (s.after (setPort (setCore d n
        { c with holders := mput none c.holders h none, toks := mput none c.toks h none }) r t.port
        { port s.dev r t.port with
            place := .releasing, msgs := (port s.dev r t.port).msgs ++ [⟨1, t.turn, coreUser n, 0, false⟩] }))) ∧
    (wOp w.toNat = 2 → yCount w.toNat ≤ (mget SyncLink.none c.sync k).held →
      exec (.give n) s = .next (s.after (sendLeash (setCore d n c) n k (yCount w.toNat)))) ∧
    (wOp w.toNat = 3 → exec (.syncWait n) s = .next (s.after (setCore d n c)))

/-- A step whose condition is false is skipped: only the head of issue moves, and STEPS_SKIPPED counts it (R95). -/
def Obligations.FalseConditionSkips : Prop :=
  ∀ (s : State) (i : Instr) (cls op : Nat) (n : CoreId) (w : BitVec 128),
    stepRow i = some (cls, op, n) → s.dev.boot.reset = false → headOf (core s.dev n) = some w → isOp cls op w.toNat = true →
    (core s.dev n).badStep.contains (core s.dev n).pc = false → (usedBits cls op).isSome = true → wCond w.toNat ≠ 15 →
    condTrue (core s.dev n) (wCond w.toNat) = false → (core s.dev n).q = [] →
    (nextHead (core s.dev n)).pc < (core s.dev n).loaded →
    exec i s = .next (s.after (count (setCore s.dev n (nextHead (core s.dev n))) (corePg n) CORE.STEPS_SKIPPED 1))

/-- A step word is its class in bits 127:124, its operation in 123:116, its condition in 115:112 and its operands below, each kept
whole. Exactly the classes and operations of the steps exist; every other is core fault 4: the core stops there with code 4, bark
0x2E01 is raised, and an item of the core fails with MALFORMED. A word of zeros faults so (R93). -/
def Obligations.StepWordFormat : Prop :=
  (∀ w : BitVec 128, StepWord.decode w = ⟨w.extractLsb' 124 4, w.extractLsb' 116 8, w.extractLsb' 112 4, w.extractLsb' 0 112⟩ ∧
    wCls w.toNat = (w.extractLsb' 124 4).toNat ∧ wOp w.toNat = (w.extractLsb' 116 8).toNat ∧
    wCond w.toNat = (w.extractLsb' 112 4).toNat ∧ (StepWord.decode w).encode = w) ∧
  (∀ x : StepWord, StepWord.decode x.encode = x) ∧
  (∀ cls op : Nat, (usedBits cls op).isSome = true ↔ ∃ (i : Instr) (n : CoreId), stepRow i = some (cls, op, n)) ∧
  (clsMove, clsArray, clsAcc, clsVec, clsSync, clsCtrl) = (1, 2, 3, 4, 5, 6) ∧
  (∀ (s : State) (n : CoreId) (w : BitVec 128), s.dev.boot.reset = false → headOf (core s.dev n) = some w →
    (core s.dev n).badStep.contains (core s.dev n).pc = false →
    usedBits (w.extractLsb' 124 4).toNat (w.extractLsb' 116 8).toNat = none → (core s.dev n).q = [] →
    exec (.reservedStep n) s = .next (s.after (coreFault s.dev n (core s.dev n).pc 4 stMalformed))) ∧
  usedBits (wCls 0) (wOp 0) = none

/-- STEP_COMPLETE: the first started step of an engine whose data is at its end leaves the queue, and the engines go on; a MOVE
step that gives a leash at its end keeps its place until the leash has left (R96, R116). -/
def Obligations.StepCompletes : Prop :=
  ∀ (s : State) (n : CoreId) (e : Engine) (i : Nat) (q : QStep), s.dev.boot.reset = false →
    (core s.dev n).q.findIdx? (fun q => q.eng == e && canComplete s.dev n q) = some i → (core s.dev n).q[i]? = some q →
    exec (.stepComplete n e) s = .next (s.after
      (if e = .move ∧ mGV q.word.toNat = true then pump (qset s.dev n i (fun q => { q with dataDone := true })) n
       else pump (qdel s.dev n i) n))

/-! ## What steps compute (chapters 3 and 4) -/

/-- Units of a COPY arrive as they were, and no other byte of scratch changes, where source and destination do not overlap. -/
def Obligations.CopyMovesBytes : Prop :=
  ∀ (d : Dev) (n idx a b k : Nat), (core d n).badScratch = [] → a + 64 * k ≤ b ∨ b + 64 * k ≤ a →
    (moveUnits n idx .scratch .scratch none none (units a b k) d).2 = true ∧
    ∀ x, byteAt (core (moveUnits n idx .scratch .scratch none none (units a b k) d).1 n).scratch x =
      if b ≤ x ∧ x < b + 64 * k then byteAt (core d n).scratch (a + (x - b)) else byteAt (core d n).scratch x

/-- A one-row VEC step of two or three sources in scratch: every lane of the destination row holds the operation of the same lane
of its sources, and no byte outside the row changes (R111). -/
def Obligations.VecRowLanes : Prop :=
  ∀ (c : Core) (q : QStep) (f l : Nat), vN q.word.toNat = 1 → wOp q.word.toNat ≤ 7 →
    (∀ s, s < 3 → vKind q.word.toNat s = 0) → l < 32 →
    let w := q.word.toNat
    let src (s : Nat) : BitVec 32 := lane (rowOfBytes (readBytes c.scratch (q.ea.getD (s + 1) 0) 128)) l
    let r := match wOp w with
      | 0 => fAdd (src 0) (src 1)
      | 1 => fSub (src 0) (src 1)
      | 2 => fMul (src 0) (src 1)
      | 3 => fFma (src 0) (src 1) (src 2)
      | 4 => fMin (src 0) (src 1)
      | 5 => fMax (src 0) (src 1)
      | 6 => fCmplt (src 0) (src 1)
      | _ => fCmpeq (src 0) (src 1)
    readLe (vecEffect c q f).scratch (q.ea.getD 0 0 + 4 * l) 4 = r.toNat ∧
    ∀ x, ¬ (q.ea.getD 0 0 ≤ x ∧ x < q.ea.getD 0 0 + 128) → byteAt (vecEffect c q f).scratch x = byteAt c.scratch x

/-- A save and a restore of an element give back T, A, X and V whole; an ACC clear makes every element of its tile rows in enabled
columns empty with X clear, and touches no other element (R80, R89, R90). -/
def Obligations.AccRowsHold : Prop :=
  (∀ e : AccElem, accOfRecord (accRecord e) = e ∧ accRecord e < 2 ^ 96) ∧
  ∀ (c : Core) (m : BitVec 32) (tr n r j : Nat), j < 32 →
    accAt (clearRows m tr n c) r j =
      if tr ≤ r ∧ r < tr + n ∧ m.getLsbD j = true then AccElem.empty else accAt c r j

/-- Exact chunks whose magnitudes add to less than 2^(m + 60), m their lowest exponent, are promoted into an empty element without
loss, in every order: X is clear and the value is the exact sum (R76, R77, R82). -/
def Obligations.TotalIsExact : Prop :=
  ∀ (cs : List (Int × Int)) (m : Int), -496 ≤ m →
    (∀ x ∈ cs, x.1 ≠ 0 → m ≤ x.2 ∧ x.2 ≤ 440) → (∃ x ∈ cs, x.1 ≠ 0) →
    (cs.map (fun x => (x.1.natAbs : Int) * 2 ^ (x.2 - m).toNat)).sum < 2 ^ 60 →
    let e := cs.foldl (fun e x => promote e (.num x.1 x.2 false)) AccElem.empty
    ∃ t a : Int, e.val = .fixed t a ∧ e.x = false ∧ m - 3 ≤ a ∧
      t * 2 ^ (a - (m - 3)).toNat = (cs.map (fun x => x.1 * 2 ^ (x.2 - (m - 3)).toNat)).sum

/-- The special functions at their special values, subnormal inputs read as zero of their sign; and every NaN result of an operation of
the vector unit is the quiet NaN (R58). -/
def Obligations.SpecialValues : Prop :=
  let inf (s : Bool) : BitVec 32 := if s = true then 0xFF800000#32 else 0x7F800000#32
  let zero (s : Bool) : BitVec 32 := if s = true then 0x80000000#32 else 0#32
  let nan : BitVec 32 := 0x7FC00000#32
  (∀ a : BitVec 32, a.extractLsb' 23 8 = 0 →
    fRcp a = fRcp (zero a.msb) ∧ fRsqrt a = fRsqrt (zero a.msb) ∧ fExp2 a = fExp2 (zero a.msb) ∧ fLog2 a = fLog2 (zero a.msb)) ∧
  (∀ s : Bool, fRcp (zero s) = inf s ∧ fRcp (inf s) = zero s ∧ fRsqrt (zero s) = inf s ∧ fLog2 (zero s) = inf true) ∧
  (∀ a : BitVec 32, a.msb = true → 0x00800000 ≤ a.toNat % 2 ^ 31 → a.toNat % 2 ^ 31 ≤ 0x7F800000 → fRsqrt a = nan ∧ fLog2 a = nan) ∧
  fRsqrt (inf false) = 0 ∧ fLog2 0x3F800000#32 = 0 ∧ fLog2 (inf false) = inf false ∧
  (∀ a : BitVec 32, 0x43000000 ≤ a.toNat → a.toNat ≤ 0x7F800000 → fExp2 a = inf false) ∧
  (∀ a : BitVec 32, 0xC2FC0000 < a.toNat → a.toNat ≤ 0xFF800000 → fExp2 a = 0) ∧
  (∀ a : BitVec 32, isNan a = true ↔ 0x7F800000 < a.toNat % 2 ^ 31) ∧
  (∀ a : BitVec 32, isNan a = true → fRcp a = nan ∧ fRsqrt a = nan ∧ fExp2 a = nan ∧ fLog2 a = nan) ∧
  (∀ a b c : BitVec 32, ∀ r ∈ [fAdd a b, fSub a b, fMul a b, fFma a b c, fMin a b, fMax a b, fCmplt a b, fCmpeq a b, fRcp a, fRsqrt a,
    fExp2 a, fLog2 a, canon a], isNan r = true → r = nan) ∧
  (∀ (f : Fmt) (b : Nat), isNan (cvtFromElem f b) = true → cvtFromElem f b = nan) ∧
  ∀ a b : BitVec 32, isNan a = true ∨ isNan b = true → fAdd a b = nan ∧ fSub a b = nan ∧ fMul a b = nan

/-- The F32 path: row by row in ascending order an enabled row's exact product joins the binary32 sum that comes in, with one rounding
to nearest-even; row 0 adds to +0; a disabled row passes the sum on; no other input enters (R42). -/
def Obligations.ColumnSumsRoundInOrder : Prop :=
  ∀ (af : Fmt) (row sa j : Nat) (t : Tile),
    let row1 := fun (s : BitVec 32) (i : Nat) =>
      if t.rowMask.getLsbD i = true
      then (addVal (decF32 s) (mulVal (decodeVal af (rowElem af row i)) (decodeVal t.fmt (t.at i j)))).1 else s
    ∃ x, columnChunk .f32 af row sa t j = .f32 ((List.range 32).foldl row1 0#32) x

/-! ## Order lists, tokens and messages (chapter 5) -/

/-- Token messages with a good CRC that their port waits for: a grant parks at its core, a release ends the turn at its port, an
acknowledge clears the oldest message of its turn that its receiver has acted on. With a bad CRC, or of a turn already acted on, none of them
changes anything. A token message is resent 8 times and counted; after that its core is muzzled, and a token that is still away returns
(R131 to R134). The watchdog marks a port whose token has waited, once a wait, and barks; a wait that does not count, or a limit of 0, raises
nothing (R136). -/
def Obligations.TokenMessagesAct : Prop :=
  (∀ (s : State) (r : RegionId) (p : LocalPort) (u : Fin 128) (turn : BitVec 14), s.dev.boot.reset = false →
      let d := s.dev
      let x := port d r p
      let n := 128 * r.val + u.val
      (x.place = .granting → x.turn % 2 ^ 14 = turn.toNat → x.msgs.any (isMsg 0 turn.toNat u.val) = true →
        exec (.tokenGrant r p u turn true) s = .next (s.after (pump
          (setCore (setPort d r p { x with place := .parked, stalled := false, msgs := markSeen (isMsg 0 turn.toNat u.val) x.msgs }) n
            { core d n with parked := mput none (core d n).parked p (some ⟨p, turn.toNat⟩) }) n))) ∧
      (x.place = .releasing → x.turn % 2 ^ 14 = turn.toNat → x.msgs.any (isMsg 1 turn.toNat u.val) = true →
        exec (.tokenRelease r p u turn true) s = .next (s.after (endTurn (count
          (setPort d r p { x with msgs := markSeen (isMsg 1 turn.toNat u.val) x.msgs }) (ordPg r) ORD.TOK_RELEASES 1) r p))) ∧
      exec (.tokenAck r p turn true) s =
        .next (s.after (setPort d r p { x with msgs := x.msgs.eraseP (fun m => m.turn == turn.toNat && m.seen) })) ∧
      (x.place ≠ .granting ∨ x.turn % 2 ^ 14 ≠ turn.toNat → exec (.tokenGrant r p u turn true) s = .next (s.after d)) ∧
      (x.place ≠ .releasing ∨ x.turn % 2 ^ 14 ≠ turn.toNat → exec (.tokenRelease r p u turn true) s = .next (s.after d)) ∧
      exec (.tokenGrant r p u turn false) s = .next (s.after d) ∧
      exec (.tokenRelease r p u turn false) s = .next (s.after d) ∧
      exec (.tokenAck r p turn false) s = .next (s.after d)) ∧
  (∀ (s : State) (r : RegionId) (p : LocalPort), s.dev.boot.reset = false →
      let d := s.dev
      let x := port d r p
      (∀ m rest, x.msgs = m :: rest → m.resends < 8 →
        exec (.tokenResend r p) s = .next (s.after
          (count (setPort d r p { x with msgs := { m with resends := m.resends + 1 } :: rest }) (ordPg r) ORD.TOK_RESENDS 1))) ∧
      (∀ m rest, x.msgs = m :: rest → 8 ≤ m.resends →
        let z := muzzleCore (setPort d r p { x with msgs := rest }) (128 * r.val + m.user) 7
        let away := x.lead = some p.val ∧ x.turn % 2 ^ 14 = m.turn ∧ (port z r p).lead = some p.val ∧ (port z r p).turn = x.turn
        (away → exec (.tokenResend r p) s = .next (s.after (returnToken z r p))) ∧
        (¬ away → exec (.tokenResend r p) s = .next (s.after z))) ∧
      (getF d (ordPg r) ORD.ORD_WDOG_LIMIT = 0 ∨ x.list = none ∨ x.halted = true ∨ x.ended = true ∨ x.stalled = true ∨ x.place = .held →
        exec (.tokenStall r p) s = .next (s.after d)) ∧
      (∀ e, portEntry p x = some e → getF d (ordPg r) ORD.ORD_WDOG_LIMIT ≠ 0 → x.list.isSome = true → x.halted = false →
        x.ended = false → x.stalled = false →
        x.place = .parked ∨ (x.place = .joinWait ∧ x.lead = none) ∨ (x.place = .atPort ∧ (entryUser e).isSome = true) →
        let y := count (setPort d r p { x with stalled := true }) (ordPg r) ORD.TOKEN_STALLS 1
        exec (.tokenStall r p) s = .next (s.after (bark y 0x2502 (ordPg r) (regionDie r) 1 (partOf y r) none
          (leBytes 2 p ++ leBytes 2 x.ent ++ [BitVec.ofNat 8 (if oeKind e == oeFloor then 0xFF else oeUser e)])))))

/-- A unit that presents the token of the turn, within its CAP, passes and counts, and so does a unit of a vertical channel's own core while
a vertical step of it runs; one that the detector refuses halts the port, is recorded, and its core stops with SCHEDULE, or the floor
sequence with code 6; of two units in one cycle and direction neither passes (R137, R138). What passing and refusing leave at the port: a unit
that passes adds 64 bytes to the turn and one to the port's units, and one that is refused halts it and moves nothing (R126, R138). -/
def Obligations.PortAccessActs : Prop :=
  (∀ (s : State) (r : RegionId) (p : LocalPort) (a : UnitAccess), s.dev.boot.reset = false →
      let d := s.dev
      let u := userOf a.user
      let n := 128 * r.val + u
      let status := fun (has : Bool) => if has = true then some stSchedule else none
      (p.val < 236 → refusal d r p u a.tok false = none →
        exec (.portAccess r p a none) s = .next (s.after (passUnit d r p))) ∧
      (∀ v, a.user = .core v → 236 ≤ p.val → vertPort d n = p.val → (port d r p).halted = false →
        (core d n).q.any (fun q => q.eng == .move && q.started && !q.dataDone && !onCrossbar (wOp q.word.toNat)) = true →
        exec (.portAccess r p a none) s = .next (s.after (passUnit d r p))) ∧
      (∀ v c, a.user = .core v → p.val < 236 → refusal d r p u a.tok false = some c →
        exec (.portAccess r p a none) s = .next (s.after
          (coreFault (refuse d r p c u a.step (status (core d n).item.isSome)) n a.step 0 stSchedule))) ∧
      (∀ c, a.user = .floor → p.val < 236 → refusal d r p u a.tok false = some c →
        exec (.portAccess r p a none) s = .next (s.after
          (floorFault (refuse d r p c u a.step (status (floor d r).item.isSome)) r 6 (if p.val < 136 then p.val else 255) stSchedule))) ∧
      (∀ b : UnitAccess, a.write = b.write → ∃ x, exec (.portAccess r p a (some b)) s = .next (s.after x) ∧
        (port x r p).halted = true ∧ (port x r p).units = (port d r p).units)) ∧
  (∀ (d : Dev) (r p cond u step : Nat) (st : Option Nat),
      port (passUnit d r p) r p = { port d r p with moved := (port d r p).moved + 64, units := (port d r p).units + 1 } ∧
      port (refuse d r p cond u step st) r p = { port d r p with halted := true } ∧
      (∀ q, q ≠ p → port (passUnit d r p) r q = port d r q ∧ port (refuse d r p cond u step st) r q = port d r q))

/-- A leash message with a good CRC, still in flight and next in order, on a path whose stations own slots: its count joins the sync link at its
destination and leaves the way from its source, and the destination's engines go on; a duplicate is acknowledged again and adds nothing; with a
bad CRC it counts as such (R116, R143, R144). An acknowledge ends a message that has arrived, a resend is counted up to 8, and then the unit
that does not answer fails (R143); a message that waits at the trunk for a tower in reset counts no resend (R362). A frame of a ring
counts its slots, and after a TAKE the ring changes at its boundary to the table that passed the check (R142, R148). -/
def Obligations.WhistleNetworkActs : Prop :=
  (∀ (s : State) (dst src : CoreId) (k : Fin 16) (cnt : BitVec 8) (seq : BitVec 12) (m : WMsg) (l : Nat), s.dev.boot.reset = false →
      dst ≠ src → m ∈ s.dev.wmsgs → m.src = stationOf s.dev src → m.dst = stationOf s.dev dst → m.seq = seq.toNat →
      m.typ = wtLeash → m.who = src.val → m.lnk = k.val → m.cnt = cnt.toNat → m.seen = false →
      mayTravel s.dev m.src m.dst = true → inOrder s.dev m = true →
      (List.range 16).find? (fun l =>
        let y := mget SyncLink.none (core s.dev dst).sync l
        y.depth != 0 && y.farCore == src.val && y.farLink == k.val) = some l →
      ((∀ x ∈ s.dev.wmsgs, x.src = m.src → x.dst = m.dst → x.seq = m.seq → x.seen = false) →
        ∃ x, exec (.leash dst src k cnt seq true) s = .next (s.after (pump x dst)) ∧
          (mget SyncLink.none (core x dst).sync l).held = (mget SyncLink.none (core s.dev dst).sync l).held + cnt.toNat ∧
          (mget SyncLink.none (core x src).sync k.val).inWay = (mget SyncLink.none (core s.dev src).sync k.val).inWay - cnt.toNat) ∧
      ({ m with seen := true } ∈ s.dev.wmsgs →
        exec (.leash dst src k cnt seq true) s = .next (s.after (carry s.dev (stationOf s.dev dst) (stationOf s.dev src) wtAck))) ∧
      exec (.leash dst src k cnt seq false) s = .next (s.after (count s.dev (whsOf (stationOf s.dev dst)) WHS.MSG_CRC_ERR 1))) ∧
  (∀ (s : State) (src dst : Station) (seq : BitVec 12), s.dev.boot.reset = false →
      let d := s.dev
      let hit := fun (m : WMsg) => m.src == src.toNat && m.dst == dst.toNat && m.seq == seq.toNat
      (mayTravel d dst.toNat src.toNat = true →
        exec (.whistleAck src dst seq true) s = .next (s.after { d with wmsgs := d.wmsgs.eraseP (fun m => hit m && m.seen) }) ∧
        exec (.whistleAck src dst seq false) s = .next (s.after (count d (whsOf src.toNat) WHS.MSG_CRC_ERR 1))) ∧
      (∀ m, d.wmsgs.find? hit = some m → waitsAtTrunk d dst.toNat = true →
        exec (.whistleResend src dst seq) s = .next (s.after d)) ∧
      (∀ m, d.wmsgs.find? hit = some m → waitsAtTrunk d dst.toNat = false → m.resends < 8 →
        exec (.whistleResend src dst seq) s = .next (s.after
          (count (carry { d with wmsgs := d.wmsgs.map (fun m => if hit m then { m with resends := m.resends + 1 } else m) }
            src.toNat dst.toNat m.typ) (whsOf src.toNat) WHS.MSG_RESENDS 1))) ∧
      (∀ m, d.wmsgs.find? hit = some m → waitsAtTrunk d dst.toNat = false → 8 ≤ m.resends →
        exec (.whistleResend src dst seq) s =
          .next (s.after (muzzleStation { d with wmsgs := d.wmsgs.filter (fun m => !hit m) } dst.toNat)))) ∧
  (∀ (s : State) (w : Fin 33) (k : Fin 8), s.dev.boot.reset = false → ringLegal w k = true →
      let x := ringFrame (ring s.dev w k)
      ((ring s.dev w k).take = true → exec (.slotTableSwitch w k) s =
        .next (s.after (setRing s.dev w k { x with active := (ring s.dev w k).taken, take := false, taken := [] }))) ∧
      ((ring s.dev w k).take = false → exec (.slotTableSwitch w k) s = .next (s.after (setRing s.dev w k x))) ∧
      x.used + x.idle = (ring s.dev w k).used + (ring s.dev w k).idle + 256)

/-- The tower windows: 36 bits of address for each tower on every part, pages of 2 MiB; a page that the part does not have is reserved
(R31, R32). -/
def Obligations.TowerWindows : Prop :=
  (∀ (p : Part) (t k o : Nat), t < 32 → k < 2 ^ 15 → o < 2 ^ 21 →
    addrKind p (t * 2 ^ 36 + k * 2 ^ 21 + o) = if k < Config.pages p then .tower t k o else .reserved) ∧
  Config.pages .ist8416 = 16384 ∧ Config.pages .ist8416 * 2 ^ 21 = 32 * 2 ^ 30 ∧
  Config.pages .ist8432 = 32768 ∧ Config.pages .ist8428 = 32768

/-! ## Memory towers (chapter 6) -/

/-- A host access at the head of a column's queue is served in a FETCH turn: a read answers its bytes, a write is stored and
counted (R174). The end of a FETCH turn: with no host access waiting a column that owes refresh does one, and the port goes on along its list;
a column whose list has ended passes to its next turn and refreshes as with no plan; a turn that a waiting clear holds does not end (R127,
R169, R171, R173). The running sweep takes its next block in a FETCH turn with nothing waiting (R168, R169). Refresh: a tick raises the debt of
every column, at most to 8; a column in debt 8 refreshes at once, a running floor command that selects it pausing, and one in debt 4 to 7 in a
stretch; each operation lowers the debt by one, at least to -2, and is counted (R170, R171, R205). -/
def Obligations.TowerColumnsAct : Prop :=
  (∀ (s : State) (t : TowerId) (b : ColId) (pc : Piece) (rest : List Piece), s.dev.boot.reset = false →
      fetchNow s.dev t b = true → (column s.dev t b).queue = pc :: rest →
      let out := setColumn s.dev t b { column s.dev t b with queue := rest }
      let a := devAddr t pc.page pc.off
      (∀ d' bs h tag off last came, pc.kind = .read → pc.purpose = .hostRead h tag off last came →
        readTower out .host a pc.len = (d', .ok bs) →
        exec (.hostPiece t b) s = .next (s.after (sendCpl (showLatency (count d' (twrPg t) TWR.HOST_READS 1) t came) h tag off stOk last bs))) ∧
      (∀ d' bs h idx seq, pc.kind = .write bs → pc.purpose = .hostWrite h idx seq → writeTower out .host a bs = (d', none) →
        exec (.hostPiece t b) s = .next (s.after (count d' (twrPg t) TWR.HOST_WRITES 1)))) ∧
  (∀ (s : State) (t : TowerId) (sw : Sweep), s.dev.boot.reset = false → (tower s.dev t).sweep = some sw →
      backgroundNow s.dev t (frameCol (meFrame (entry s.dev t sw.page))) = true →
      exec (.sweepBlock t) s = .next (s.after (afterSweep (sweepOne s.dev t) t (frameCol (meFrame (entry s.dev t sw.page)))))) ∧
  (∀ (s : State) (t : TowerId) (b : ColId), s.dev.boot.reset = false → (tower s.dev t).hold = false →
      let d := s.dev
      exec (.refreshTick t) s = .next (s.after ((List.range 136).foldl (fun d b =>
        idleRefresh (setColumn d t b { column d t b with debt := min 8 ((column d t b).debt + 1) }) t b) d)) ∧
      let forced := count (refreshOp d t b TWR.STRETCHES) (twrPg t) TWR.STRETCH_FORCED 1
      let paused := { floor forced t with st := .wait, wait := 6, time := { (floor forced t).time with pause := pauseTicks } }
      (8 ≤ (column d t b).debt → floorSelects forced t b = false →
        exec (.refreshForced t b) s = .next (s.after forced) ∧ exec (.refreshStretch t b) s = .next (s.after forced)) ∧
      (8 ≤ (column d t b).debt → floorSelects forced t b = true →
        exec (.refreshForced t b) s = .next (s.after (setFloor forced t paused))) ∧
      (4 ≤ (column d t b).debt → (column d t b).debt < 8 → floorSelects d t b = false →
        exec (.refreshStretch t b) s = .next (s.after (refreshOp d t b TWR.STRETCHES))) ∧
      (4 ≤ (column d t b).debt → (column d t b).debt < 8 → floorSelects d t b = true →
        exec (.refreshStretch t b) s = .next (s.after (floorBoundary t d))) ∧
      (∀ f, (column (refreshOp d t b f) t b).debt = max (-2) ((column d t b).debt - 1)) ∧
      (∀ f b', b' ≠ b.val → column (refreshOp d t b f) t b' = column d t b')) ∧
  (∀ (s : State) (t : TowerId) (b : ColId), s.dev.boot.reset = false → (tower s.dev t).hold = false →
    (tower s.dev t).scrub.running = false →
    let d := s.dev
    let x := port d t b
    (turnHeld d t b = true → exec (.fetchTurnEnd t b) s = .next (s.after d)) ∧
    (turnHeld d t b = false → x.ended = true → x.list.isSome = true →
      exec (.fetchTurnEnd t b) s = .next (s.after (idleRefresh
        (count (setPort d t b { x with turn := (x.turn + 1) % 65536 }) (twrPg t) TWR.FETCH_TURNS 1) t b))) ∧
    (turnHeld d t b = false → x.plan = false → x.ended = false →
      exec (.fetchTurnEnd t b) s = .next (s.after (leaveFetch (idleRefresh d t b) t b))) ∧
    (turnHeld d t b = false → x.plan = true → x.ended = false → fetchNow d t b = true →
      exec (.fetchTurnEnd t b) s = .next (s.after (leaveFetch
        (if (column d t b).queue = [] ∧ 1 ≤ (column d t b).debt then refreshOp d t b TWR.REFRESH_IDLE else d) t b))))

/-- A stored word of tower memory decodes, under the generation it was written in, to the data it was made from (R162, R163). -/
def Obligations.TowerWordRoundTrip : Prop :=
  ∀ (g : Nat) (data : List Byte), g < 16 → data.length = 32 → decodeWord g (encodeWord g data) = .ok data

/-- A word stored in a FRESH or VALID page is what a look at that word finds, whatever the page held before (R163 to R165). -/
def Obligations.TowerReadAfterWrite : Prop :=
  ∀ (d d' : Dev) (t k w : Nat) (data : List Byte), data.length = 32 → w < 65536 →
    meState (entry d t k) = meFresh ∨ meState (entry d t k) = meValid → d' = storeWord d t k w data →
    lookWord d' t k w = .word (.ok data)

/-! ## The tower floor (chapter 7) -/

/-- A data command at the head of a floor sequence that holds its columns' tokens, reaches its pages, and finds room under the
activation cap starts, is counted, and has its effect; one that the spacing, a row gap or an earlier command holds waits, and WAIT shows which
(R190, R193 to R200, R204, R207). -/
def Obligations.FloorCommandStarts : Prop :=
  ∀ (s : State) (i : Instr) (op : Nat) (t : TowerId), floorRow i = some (op, t) → s.dev.boot.reset = false →
    fOp (fWord s.dev t) = op →
    let w := fWord s.dev t
    let f := floor s.dev t
    let cols := selCols (fMask s.dev t w)
    (FloorStarts s.dev t → op ≤ 12 → heldFault s.dev t cols = none → pageFault s.dev t w cols = none →
      (fRuns w = [] ∨ capSum f + cols.length ≤ capOf (tierNow s.dev t)) →
      exec i s = .next (s.after (floorEffect t w cols (floorStarted s.dev t)))) ∧
    (∀ why, why ≠ 0 → floorReady f = true → (tower s.dev t).hold = false → f.cmd < f.loaded → floorStatic (fMask s.dev t w) w = 0 →
      floorHolds f (fMask s.dev t w) w = why →
      exec i s = .next (s.after (setFloor s.dev t { f with st := .wait, wait := why })))

/-- TURN releases the sequencer's tokens and waits for the next ones; END releases them, and the sequence is complete (R187,
R188). The started command of a sequencer completes and the next one comes to its head; the sub-window of the activation cap moves
on (R190, R204). -/
def Obligations.FloorSequenceMoves : Prop :=
  (∀ (s : State) (t : TowerId) (item : Nat), s.dev.boot.reset = false → FloorStarts s.dev t →
      (fOp (fWord s.dev t) = 13 →
        exec (.turn t) s = .next (s.after
          (let x := floorRelease t (count s.dev (flrPg t) FLR.CMDS 1)
           setFloor x t { floor x t with running := true, turnSent := true, st := .wait, wait := 1 }))) ∧
      (fOp (fWord s.dev t) = 14 → (floor s.dev t).item = some item →
        exec (.floorEnd t) s = .next (s.after
          (let x := count (count (floorRelease t s.dev) (flrPg t) FLR.CMDS 1) (flrPg t) FLR.SEQ_DONE 1
           event (setFloor x t { floor x t with st := .heel, wait := 0, item := none }) (.done item (unitFloor t)))))) ∧
  (∀ (s : State) (t : TowerId), s.dev.boot.reset = false →
      let f := floor s.dev t
      let g : Floor := { f with running := false, turnSent := false, clearWait := none, cmd := f.cmd + 1, st := .run, wait := 0,
                                time := FloorTime.init }
      (f.running = true → f.st ≠ .fault → f.turnSent = false → f.clearWait = none → f.heelReq = false → f.time.opens = [] → f.cmd + 1 < f.loaded →
        (fLowBit (fOp (mget (0 : BitVec 128) f.seq (f.cmd + 1)).toNat)).isSome = true →
        exec (.floorCmdComplete t) s = .next (s.after (setFloor s.dev t g))) ∧
      exec (.capSubwindow t) s = .next (s.after (setFloor s.dev t { f with caps := (f.capNow :: f.caps).take 15, capNow := 0 })))

/-- EW_ADD and EW_MUL of I32 elements saturate: no element wraps (R197). -/
def Obligations.FloorElementsSaturate : Prop :=
  ∀ (mul : Bool) (a b : BitVec 32),
    (ewElem mul 1 a b).toInt =
      max (-2147483648) (min 2147483647 (if mul = true then a.toInt * b.toInt else a.toInt + b.toInt))

/-! ## The optical base and the bundles (chapter 8) -/

/-- A sequenced frame with a good CRC, the one expected, on a channel that is up and has nothing to acknowledge: its bytes join the
receive buffer of 512 frames, the next number is expected, and the cores that receive on the channel go on; with the buffer full, or with another
number, it is discarded, and the channel asks for a replay. An IDLE frame adds nothing (R213 to R216). A frame whose CRC fails is discarded and
counted, and the channel asks for a replay; no receive buffer changes (R215, R225). -/
def Obligations.OpticalFrameArrives : Prop :=
  (∀ (s : State) (i j : RegionId) (f : OptFrame), s.dev.boot.reset = false → i ≠ j → (link s.dev i j).st = .up →
      (chan s.dev j i).unacked = [] → f.nak = false → f.seq.toNat = (chan s.dev i j).expect →
      let d := setChan s.dev j i { chan s.dev j i with lastNak := none }
      let c := chan d i j
      let take (kind : Nat) (data : List Byte) : Dev :=
        pumpReceivers (chanDrop (setChan d i j
          { c with expect := (c.expect + 1) % 1024, nak := false, rx := c.rx ++ [⟨f.seq.toNat, kind, data, 0⟩] }) i j) i j
      let data := (nBytes 56 f.payload).take (f.nb.toNat + 1)
      let full := setChan d i j { c with nak := true }
      (c.rx.length < 512 →
        (frameCrc 1 f = f.crc → exec (.optDataFrame i j f) s = .next (s.after (take 1 data))) ∧
        (frameCrc 2 f = f.crc → exec (.optLastFrame i j f) s = .next (s.after (take 2 data))) ∧
        (frameCrc 3 f = f.crc → exec (.optFencedFrame i j f) s = .next (s.after (take 3 []))) ∧
        (frameCrc 5 f = f.crc → exec (.optRefusedFrame i j f) s = .next (s.after (take 5 [])))) ∧
      (512 ≤ c.rx.length →
        (frameCrc 1 f = f.crc → exec (.optDataFrame i j f) s = .next (s.after full)) ∧
        (frameCrc 2 f = f.crc → exec (.optLastFrame i j f) s = .next (s.after full)) ∧
        (frameCrc 3 f = f.crc → exec (.optFencedFrame i j f) s = .next (s.after full)) ∧
        (frameCrc 5 f = f.crc → exec (.optRefusedFrame i j f) s = .next (s.after full))) ∧
      (frameCrc 0 f = f.crc → exec (.optIdleFrame i j f) s = .next (s.after d))) ∧
  (∀ (s : State) (i j : RegionId) (f : OptFrame), s.dev.boot.reset = false → i ≠ j → (link s.dev i j).st = .up →
      (chan s.dev j i).unacked = [] → f.nak = false → f.seq.toNat ≠ (chan s.dev i j).expect → (chan s.dev i j).expect < 1024 →
      let d := setChan s.dev j i { chan s.dev j i with lastNak := none }
      let again := setChan d i j { chan d i j with nak := true }
      (frameCrc 1 f = f.crc → exec (.optDataFrame i j f) s = .next (s.after again)) ∧
      (frameCrc 2 f = f.crc → exec (.optLastFrame i j f) s = .next (s.after again)) ∧
      (frameCrc 3 f = f.crc → exec (.optFencedFrame i j f) s = .next (s.after again)) ∧
      (frameCrc 5 f = f.crc → exec (.optRefusedFrame i j f) s = .next (s.after again))) ∧
  (∀ (s : State) (i j : RegionId) (f : OptFrame), s.dev.boot.reset = false → i ≠ j → (link s.dev i j).st = .up →
      let bad := fun (d : Dev) => setChan (setLink (count d (optPg j) OPT.CRC_FAILS 1) i j
        { link d i j with crcCnt := (link d i j).crcCnt + 1 }) i j { chan d i j with nak := true }
      (frameCrc 1 f ≠ f.crc → exec (.optDataFrame i j f) s = .next (s.after (bad s.dev))) ∧
      (frameCrc 2 f ≠ f.crc → exec (.optLastFrame i j f) s = .next (s.after (bad s.dev))) ∧
      (frameCrc 0 f ≠ f.crc → exec (.optIdleFrame i j f) s = .next (s.after (bad s.dev))) ∧
      (frameCrc 3 f ≠ f.crc → exec (.optFencedFrame i j f) s = .next (s.after (bad s.dev))) ∧
      (frameCrc 5 f ≠ f.crc → exec (.optRefusedFrame i j f) s = .next (s.after (bad s.dev))) ∧
      ∀ a b : RegionId, (chan (bad s.dev) a b).rx = (chan s.dev a b).rx)

/-- A control slot with a good CRC, the one expected, on a bundle that is up: with data or a message it is accepted, and waits for its
acknowledge in the window of 32; its data frame stands at the receiver where the running step of the core's vertical path goes its way, and its
message words act; with a bad CRC it is discarded and counted (R220 to R222). -/
def Obligations.BundleSlotArrives : Prop :=
  ∀ (s : State) (t : TowerId) (b : ColId) (up : Bool) (f : BundleSlot), s.dev.boot.reset = false →
    (link s.dev t (64 + b)).st = .up →
    let d := setBundle s.dev t b (!up) { bundle s.dev t b (!up) with lastNak := none }
    let c := bundle d t b up
    let data := if f.dkind = 1#2 then nBytes (64 * (f.nu.toNat + 1)) f.data else []
    let goes := (bundleCore d t b).bind (pathUp d) = some up
    (slotCrc f = f.crc → (bundle s.dev t b (!up)).unacked = [] → f.nak = false → f.seq.toNat = c.expect → c.txNext = c.expect →
      c.unacked.length < 32 → (f.dkind = 1#2 ∨ f.mt0 ≠ 0#4 ∨ f.mt1 ≠ 0#4) →
      exec (.bundleSlot t b up f) s = .next (s.after (slotWords t b up f (setBundle d t b up
        { c with expect := (c.expect + 1) % 256, nak := false, txNext := (f.seq.toNat + 1) % 256,
                 unacked := c.unacked ++ [⟨f.seq.toNat, 0, data, 0⟩],
                 rx := if f.dkind = 1#2 ∧ goes then [⟨f.seq.toNat, 1, data, 0⟩] else c.rx })))) ∧
    (slotCrc f ≠ f.crc →
      exec (.bundleSlot t b up f) s = .next (s.after (setBundle
        (setLink (count s.dev (optPg t) OPT.CRC_FAILS 1) t (64 + b)
          { link s.dev t (64 + b) with crcCnt := (link s.dev t (64 + b)).crcCnt + 1 }) t b up
        { bundle s.dev t b up with nak := true })))

/-- The end of a 1 ms window in which a link stayed within CRC_LIM clears its count; the third one over it in a row declares failed the lane
with the lowest margin over the three (R225). A comb that fails while the other still runs leaves every link and channel as it is, its state reads
failed on every OPT page, and the other takes full bias unless its rail is over its limit; when both have failed every peer channel is lost
(R210, R231). -/
def Obligations.LinkFailuresAct : Prop :=
  (∀ (s : State) (r : RegionId) (v : LinkSel) (weak : WeakLane), s.dev.boot.reset = false → linkOk r v = true →
      let l := link s.dev r v
      let lim := getF s.dev (optPg r) OPT.CRC_LIM
      let low := if l.overrun = 0 ∨ weak.margin.toNat < l.margin then (weak.lane.toNat, weak.margin.toNat) else (l.weakest, l.margin)
      let ended := fun (n : Nat) => setLink s.dev r v { l with crcCnt := 0, overrun := n, weakest := low.1, margin := low.2 }
      (lim = 0 ∨ l.crcCnt ≤ lim → exec (.crcWindow r v weak) s = .next (s.after (ended 0))) ∧
      (lim ≠ 0 → lim < l.crcCnt → l.overrun < 2 → exec (.crcWindow r v weak) s = .next (s.after (ended (l.overrun + 1)))) ∧
      (lim ≠ 0 → lim < l.crcCnt → 2 ≤ l.overrun → l.st = .up →
        exec (.crcWindow r v weak) s = .next (s.after (laneFails r v low.1 4 (ended 0))))) ∧
  (∀ (s : State) (c : Fin 2), s.dev.boot.reset = false → combState s.dev c ≠ 3 →
      let o := 1 - c.val
      let d := life (bark (setAllOpt s.dev (combField c) 3) 0x2601 (optPg 0) (lead (setAllOpt s.dev (combField c) 3)) 1 none none
        [4, 0xFF, BitVec.ofNat 8 c, 0xFF, 0xFF]) 8 0
        ([BitVec.ofNat 8 (c + 1), 1, 0, 0] ++ leBytes 2 (getF s.dev (optPg 0) (combBias c)))
      (combState d o = 3 → exec (.combFail c) s = .next (s.after
        ((List.range 32).foldl (fun d i => (List.range 32).foldl (fun d j => if i < j then loseLink d i j 3 0xFF else d) d) d))) ∧
      (combState d o ≠ 3 → ∃ x, exec (.combFail c) s = .next (s.after x) ∧
        x.links = s.dev.links ∧ x.chans = s.dev.chans ∧ ∀ r : RegionId, getF x (optPg r) (combField c) = 3 ∧
          (Config.combOverLimit s.dev.freeN = false → getF x (optPg r) (combField o) = 2)))

/-- Training of a link: both ends lock and measure, and from the margins each names the lanes to bypass and the halves it can use; saved
settings are restored, unless a lane has become worse, which trains fresh; a BYPASS word names a position; an ADV word is answered with the AND
of both masks; a CONF word that names what was adopted brings the link up when it is the second (R224, R227 to R229, R327). What a link that
comes up holds: its sequence numbers at 0 and nothing unacknowledged in either direction (R227). -/
def Obligations.TrainingWordsAct : Prop :=
  (∀ (s : State) (r : RegionId) (v : LinkSel), s.dev.boot.reset = false → linkOk r v = true →
      let d := s.dev
      let l := link d r v
      (∀ (eyes : LinkEyes) (centre : List (BitVec 16)), l.st = .training → l.phase = .detect →
        let thr := fun (e : Bool) => getF d (optPg (endRegion r v e)) OPT.MARGIN_THR
        let toFar := namedLanes d r v false eyes.near
        let toNear := namedLanes d r v true eyes.far
        let ok := agreedHalves v toFar toNear
        let measured := fun (c : List (BitVec 16)) => setLink d r v
          { l with phase := .measure, weakest := (lowestMargin eyes.near eyes.far).1, margin := (lowestMargin eyes.near eyes.far).2, centre := c,
                   near := { l.near with margins := eyes.near, usable := usableHalves d r v false eyes.near &&& ok, bypass := toNear },
                   far := { l.far with margins := eyes.far, usable := usableHalves d r v true eyes.far &&& ok, bypass := toFar } }
        (l.kind = .fresh → exec (.linkDetectLock r v eyes centre) s = .next (s.after (measured centre))) ∧
        (∀ old, l.kind = .saved → d.saved.find? (fun x => x.1 == saveKey r v) = some (saveKey r v, old) →
          (worseEye (thr false) old.near eyes.near = false → worseEye (thr true) old.far eyes.far = false →
            exec (.linkDetectLock r v eyes centre) s = .next (s.after (measured old.centre))) ∧
          (worseEye (thr false) old.near eyes.near = true ∨ worseEye (thr true) old.far eyes.far = true →
            exec (.linkDetectLock r v eyes centre) s = .next (s.after (setLink d r v { l with kind := .fresh }))))) ∧
      (∀ (g : BitVec 3) (pos : BitVec 6), l.st = .training → l.phase = .measure → mget none l.far.bypass g.toNat = none →
        exec (.trainBypass r v false g pos) s = .next (s.after (setLink d r v
          { l with near := { l.near with
              bypass := mput none l.near.bypass g.toNat (if pos.toNat = 63 then none else some pos.toNat) } }))) ∧
      (∀ (halves : BitVec 2) (tid : BitVec 8), l.st = .training → l.phase = .agree → tid.toNat = l.tid →
        (∃ own, l.near.adv = some own ∧ l.near.sentConf = none ∧ own &&& halves = own) →
        exec (.trainAdv r v false halves l.joint tid) s = .next (s.after (setLink d r v
          { l with near := { l.near with gotAdv := some halves, sentConf := some ((l.near.adv.getD 0) &&& halves) } }))) ∧
      (∀ (halves : BitVec 2) (tid : BitVec 8), l.st = .training → l.phase = .agree → l.kind = .saved → tid.toNat = l.tid →
        l.near.sentConf = some halves → halves ≠ 0#2 → l.far.gotConf.isSome = true →
        let up := setLink d r v
          { l with st := .up, phase := .up, width := widthCode halves,
                   near := freshEnd { l.near with agreed := halves, gotConf := some halves } true, far := freshEnd l.far true }
        exec (.trainConf r v false halves l.joint tid) s =
          .next (s.after (startLink (if l.width = widthCode halves then up else epochLink up r v) r v))) ∧
      (l.st = .training → l.kind = .saved → l.joint = true →
        exec (.linkTrainingTimeout r v) s = .next (s.after (startJoint d r v .fresh))) ∧
      (l.st = .training → l.kind = .saved → l.joint = false →
        exec (.linkTrainingTimeout r v) s = .next (s.after (startTraining d r v .fresh 3#2 3#2))) ∧
      (l.st = .training → l.kind ≠ .saved →
        exec (.linkTrainingTimeout r v) s = .next (s.after (dropLink d r v 3 0xFF)))) ∧
  (∀ (d : Dev) (r v : Nat), (∀ j, linkPeer r v = some j → j ≠ r →
        (chan (startLink d r v) r j).unacked = [] ∧ (chan (startLink d r v) r j).txNext = 0 ∧
        (chan (startLink d r v) j r).unacked = [] ∧ (chan (startLink d r v) j r).expect = 0) ∧
      (linkPeer r v = none → ∀ up, bundle (startLink d r v) r (v - 64) up = Chan.init))

/-! ## Rings, items and streams (chapter 9) -/

/-- A RUN or BATCH_STEP at the head of its ring starts every unit of its entry when all are free; a BATCH_STEP first has its table read, then
sets BUSY in every stream it names and writes zeros to their words 1, and starts once those stand in the table; a table out of its place ends it
with MALFORMED (R240, R246, R258, R259). -/
def Obligations.ItemStartsUnits : Prop :=
  ∀ (s : State) (p : PartId) (q : RingId) (i : Nat) (it : Item), s.dev.boot.reset = false →
    let d := s.dev
    let us := (entryOf d it).getD []
    refusedStart d p it = none → us.all (unitFree d) = true →
    (readyHead d p q 1 = some (i, it) →
      exec (.run p q) s = .next (s.after (startEntry d i it us [itw it 2, itw it 3, itw it 4, itw it 5]))) ∧
    (readyHead d p q 2 = some (i, it) →
      let n := bits (itw it 1) 31 16 + 1
      let a := itw it 2 % 2 ^ 44
      let recs := walkOrder ((List.range n).map (fun j => batchRec ((tableWords it).getD j 0) j))
      let y := (List.range n).foldl (fun d j => walkWrite d (a + 16 * j + 8) (zeros 8)) (recs.foldl (fun d b => setBusy d b.record true) d)
      let named := { it with batch := recs, batchAddr := a }
      (it.stage = .idle → tableOk d p a n = true →
        exec (.batchStep p q) s = .next (s.after
          (newJob (setItem d i (some { it with stage := .reading })) (.table i) false p a (16 * n)))) ∧
      (it.stage = .idle → tableOk d p a n = false → exec (.batchStep p q) s = .next (s.after (finishPlain d i stMalformed))) ∧
      (it.stage = .read → walkCheck d p (tableWords it) = some stOk → walkWaiting y a (16 * n) = [] →
        exec (.batchStep p q) s = .next (s.after (batchStart y i named))) ∧
      (it.stage = .read → walkCheck d p (tableWords it) = some stOk → walkWaiting y a (16 * n) ≠ [] →
        exec (.batchStep p q) s = .next (s.after (setItem y i (some
          { named with started := true, units := ((entryOf y named).getD []).map unitNo, stage := .zeroing })))))

/-- A unit that an entry starts begins at its START with A1 to A4 the arguments plus its offsets, modulo 2^48, nothing in its loops,
holders and constants, and the item to answer for (R92, R240). -/
def Obligations.CoreStartsProgram : Prop :=
  ∀ (d : Dev) (n entry item : Nat) (args : List Nat), entry < (core d n).loaded →
    let c := core (startCore d n entry args item) n
    c.st = .run ∧ c.pc = entry ∧ c.loops = [] ∧ c.holders = [] ∧ c.k = [] ∧ c.item = some item ∧
    (∀ k, k < 4 → mget 0 c.addr (k + 1) = BitVec.ofNat 48 (args.getD k 0)) ∧
    (∀ k, 4 < k → mget 0 c.addr k = 0) ∧
    (∀ m, m ≠ n → core (startCore d n entry args item) m = core d m)

/-- STREAM_OPEN of a FREE record of the partition's own towers opens it and its account; STREAM_ABORT fails a live one with ABORTED;
STREAM_RELEASE frees an ENDED or FAILED one, and with CLEAR first has its list of KV pages read; NOP only completes (R255 to R257). -/
def Obligations.StreamDescriptorsAct : Prop :=
  ∀ (s : State) (p : PartId) (q : RingId) (i : Nat) (it : Item), s.dev.boot.reset = false →
    let d := s.dev
    let n := bits (itw it 1) 19 0
    let h := hkOf d n
    let root := itw it 2 % 2 ^ 44
    let why := itemCause it true
    (readyHead d p q 3 = some (i, it) → partState d p = psLoaded ∨ partState d p = psHalted →
      ownTower d p (recTower n) = true → root < 2 ^ 41 → ownTower d p (bits root 40 36) = true → h.state = ssFree →
      recHeld d n = false →
      ∃ ws : List Nat, ws.length = 16 ∧ rget ws 0 19 17 = p.val ∧ rget ws 0 25 20 = bits (itw it 1) 25 20 ∧
        exec (.streamOpen p q) s = .next (s.after (finish
          (transition (setAcct d n (some { Acct.init with part := p })) n ws ssOpen stOk why none) i stOk ssFree ssOpen n 0 0 [n]))) ∧
    (∀ d1 ws, readyHead d p q 4 = some (i, it) → h.part = p.val → liveState h.state = true → h.busy = false → recHeld d n = false →
      recRead d n = (d1, some ws) →
      exec (.streamAbort p q) s = .next (s.after
        (let x := transition d1 n ws ssFailed stAborted why none
         finish x i stAborted h.state ssFailed n (rget ws 3 63 32) (hkOf x n).receipt [n]))) ∧
    (∀ d1 ws, readyHead d p q 5 = some (i, it) → h.part = p.val → h.state = ssEnded ∨ h.state = ssFailed → h.pending = false →
      acctOf d n = none → recHeld d n = false → releasing d n = false → recRead d n = (d1, some ws) →
      (bit (itw it 1) 20 = false → exec (.streamRelease p q) s = .next (s.after
        (finish (transition d1 n ws ssFree stOk why (some (rget ws 6 31 0))) i stOk h.state ssFree n (rget ws 3 63 32)
          (rget ws 6 31 0) [n]))) ∧
      (bit (itw it 1) 20 = true → exec (.streamRelease p q) s = .next (s.after
        (newJob (setItem d1 i (some { it with started := true, stage := .listing })) (.kv i) false p (rget ws 2 43 0)
          (4 * rget ws 2 63 48))))) ∧
    (readyHead d p q 6 = some (i, it) → exec (.nop p q) s = .next (s.after (finishPlain d i stOk)))

/-- A transition gives its record the new state and leaves the housekeeping copy of every other record alone (R255). An item
completes once: a second completion of the same item, or a second end of its run, changes nothing (R252). -/
def Obligations.RecordsAndItemsHold : Prop :=
  (∀ (d : Dev) (n : Nat) (ws : List Nat) (new status : Nat) (why : Cause) (d1 : Option Nat),
      (∀ m, m ≠ n → hkOf (transition d n ws new status why d1) m = hkOf d m) ∧
      (hkOf (transition d n ws new status why d1) n).state = new) ∧
  (∀ (d : Dev) (i st1 st2 a b c e f : Nat) (g : List Nat) (it : Item), item d i = some it → it.ended = true →
      finish d i st1 a b c e f g = d ∧ endRun d i st2 = d)

/-! ## The Narta host link (chapter 10) -/

/-- A good flit on a port that is up, with nothing to acknowledge or replay: its credits are added; an IDLE flit does no more, and
the transactions of the TLP flit that is next in sequence are taken; one whose SEQ lies above owes a NAK. A flit that fails its codeword or CRC
is discarded, counted, and a NAK is owed (R267, R268). -/
def Obligations.FlitArrives : Prop :=
  ∀ (s : State) (h : HostPort) (f : Flit), s.dev.boot.reset = false → (narta s.dev h).st = psUp →
    let n := narta s.dev h
    let m := { n with lastNak := none, heldP := n.heldP + f.pcr.toNat, heldN := n.heldN + f.ncr.toNat, heldC := n.heldC + f.ccr.toNat }
    let d := setNarta s.dev h m
    let bad := fun (d : Dev) => setNarta (count d (hlkPg h) HLK.FLITS_DISCARDED 1) h { narta d h with nak := true }
    let from_ := if m.part.isEmpty then (if f.first.toNat == 15 then 240 else 16 * f.first.toNat) else 0
    (f.cwOk = true → n.flits = [] → f.nak = false → crc64 (flitBytes 0 f) = f.crc.toNat →
      (f.seq.toNat = n.expect → exec (.flitIdle h f) s = .next (s.after d)) ∧
      (seqPlace 4096 n.expect f.seq.toNat = 1 → exec (.flitIdle h f) s = .next (s.after (setNarta d h { m with nak := true })))) ∧
    (f.cwOk = true → n.flits = [] → f.nak = false → crc64 (flitBytes 1 f) = f.crc.toNat →
      (f.seq.toNat = n.expect → exec (.flitTlp h f) s = .next (s.after (acceptTlps h (setNarta d h
        (takeTlps f.seq.toNat 16 (((f.slots ++ zeros 240).take 240).drop from_)
          { m with expect := (m.expect + 1) % 4096, nak := false }))))) ∧
      (seqPlace 4096 n.expect f.seq.toNat = 1 → exec (.flitTlp h f) s = .next (s.after (setNarta d h { m with nak := true })))) ∧
    (f.cwOk = false ∨ crc64 (flitBytes 1 f) ≠ f.crc.toNat → exec (.flitTlp h f) s = .next (s.after (bad s.dev))) ∧
    (f.cwOk = false ∨ crc64 (flitBytes 0 f) ≠ f.crc.toNat → exec (.flitIdle h f) s = .next (s.after (bad s.dev)))

/-- The first accepted host request of its kind acts: an MWR joins its bank column's queue; an MRD becomes pieces of at most 256
bytes, or a flush; a CRD is answered with its register; a CWR that its page allows writes it and is answered, after the drain where it begins a
package reset (R278, R279, R365). -/
def Obligations.HostRequestsAct : Prop :=
  ∀ (s : State) (h : HostPort) (r : RxTlp), s.dev.boot.reset = false →
    let d := s.dev
    let x := r.tlp
    let e := takeRx d h r
    (∀ t k o, firstOf (narta d h) (fun x => tlpType x == tMwr) = some r → memOk x = true →
      addrKind d.kind (tlpAddr x) = .tower t k o → (tower d t).hold = false →
      exec (.mwr h) s = .next (s.after
        (queuePiece e t (pageCol e t k) ⟨k, o, x.data.length, .write x.data, .hostWrite h r.idx r.seq⟩))) ∧
    (∀ t k o, firstOf (narta d h) (fun x => tlpType x == tMrd) = some r → memOk x = true → tlpLen x ≠ 0 →
      addrKind d.kind (tlpAddr x) = .tower t k o → (tower d t).hold = false →
      exec (.mrd h) s = .next (s.after ((readPieces (tlpAddr x) 17 0 (tlpLen x)).foldl (fun d p =>
        queuePiece d t (pageCol d t k) ⟨k, o + p.1, p.2, .read, .hostRead h (tlpTag x) p.1 (p.1 + p.2 == tlpLen x) (mget 0 d.ticks (regionDie t))⟩) e))) ∧
    (firstOf (narta d h) (fun x => tlpType x == tMrd) = some r → memOk x = true → tlpLen x = 0 →
      exec (.mrd h) s = .next (s.after
        (setNarta e h { narta e h with flushes := (narta e h).flushes ++ [(tlpTag x, r.idx)] }))) ∧
    (∀ pg off t, firstOf (narta d h) (fun x => tlpType x == tCrd) = some r → badHeader x = false →
      ctlPlace d (tlpAddr x) = some (pg, off) → pageTypeOf pg = some t →
      let e := wServed e (portStation h) (pageStation e pg) wtPageRead
      exec (.crd h) s = .next (s.after
        (sendCpl (lowerRemain pg off e) h (tlpTag x) 0 stOk true (leBytes 8 (pageValue e t pg off).toNat)))) ∧
    (∀ pg off t, firstOf (narta d h) (fun x => tlpType x == tCwr) = some r → performed d h r.idx = true → badHeader x = false →
      ctlPlace d (tlpAddr x) = some (pg, off) →
      let e := wServed e (portStation h) (pageStation e pg) wtPageWrite
      let v := BitVec.ofNat 64 (leNat x.data)
      let w := writeReg t.code (pageInst t pg) pg off v e
      let y := lowerRemain pg off w.1
      Allowed e t pg off v →
      (e.drain.isSome = true ∨ y.drain = none →
        exec (.cwr h) s = .next (s.after (sendCpl y h (tlpTag x) 0 w.2 true []))) ∧
      (∀ z, e.drain = none → y.drain = some z →
        exec (.cwr h) s = .next (s.after { y with drain := some { z with cpl := some (h.val, tlpTag x) } })))

/-- Completions and doorbells: a CPL that ends a read gives the read its bytes; a doorbell acts as a write of its ring's register; a
read that is not answered in time is given up with LINK, counted and barked (R281, R286). -/
def Obligations.CompletionsAndDoorbells : Prop :=
  ∀ (s : State) (h : HostPort), s.dev.boot.reset = false →
    let d := s.dev
    (∀ (r : RxTlp) (rd : DevReq) (i : Nat), firstOf (narta d h) (fun x => tlpType x == tCpl) = some r →
      mget none (narta d h).reads (tlpTag r.tlp) = some rd → rd.purpose = .job i → tlpLast r.tlp = true →
      tlpStatus r.tlp = stOk → (rd.data ++ r.tlp.data).length = rd.len →
      let e := takeRx d h r
      exec (.cpl h) s = .next (s.after (jobData
        (setNarta e h { narta e h with reads := mput none (narta e h).reads (tlpTag r.tlp) none }) i (.ok (rd.data ++ r.tlp.data))))) ∧
    (∀ r : RxTlp, firstOf (narta d h) (fun x => tlpType x == tMsg && x.w1.toNat % 256 == mcSq) = some r →
      performed d h r.idx = true →
      exec (.sqDoorbell h) s = .next (s.after (ctlWrite (partPg (bits r.tlp.w1.toNat 18 16)) (0xC00 + 16 * bits r.tlp.w1.toNat 24 19)
        (BitVec.ofNat 64 (bits r.tlp.w1.toNat 40 25)) (takeRx d h r)).1)) ∧
    (∀ r : RxTlp, firstOf (narta d h) (fun x => tlpType x == tMsg && x.w1.toNat % 256 == mcCq) = some r →
      performed d h r.idx = true →
      exec (.cqDoorbell h) s = .next (s.after (ctlWrite (partPg (bits r.tlp.w1.toNat 18 16)) (0xC08 + 16 * bits r.tlp.w1.toNat 24 19)
        (BitVec.ofNat 64 (bits r.tlp.w1.toNat 40 25)) (takeRx d h r)).1)) ∧
    (∀ (tag : BitVec 12) (rd : DevReq) (i : Nat), mget none (narta d h).reads tag.toNat = some rd → rd.purpose = .job i →
      exec (.cplTimeout h tag) s = .next (s.after (jobData (bark (count
        (setNarta d h { narta d h with reads := mput none (narta d h).reads tag.toNat none }) (hlkPg h) HLK.CPL_TIMEOUTS 1)
        0x1704 (hlkPg h) (portDie h) 2 none (some stLink) ([BitVec.ofNat 8 h] ++ zeros 7 ++ leBytes 8 rd.addr)) i
        (.error stLink))))

/-- Timers of a port: with no valid codeword an up port fails, a training that takes too long fails it, a failed port with signal
trains fresh, and a window in which no lane passes its limit only counts (R274, R275). Training records, each in its phase: the
receiver locks, the lanes are mapped, the preset is taken, the masks are ANDed and confirmed, and START brings the port up with its
sequence numbers at 0 (R270 to R273). -/
def Obligations.HostPortTrains : Prop :=
  (∀ (s : State) (h : HostPort), s.dev.boot.reset = false →
    let d := s.dev
    let n := narta d h
    (n.st = psUp → exec (.nartaNoCodeword h) s = .next (s.after (stopPort d h psFailed true))) ∧
    (n.st = psTraining ∨ n.st = psWidth → exec (.trainingTimeout h) s = .next (s.after (stopPort d h psFailed true))) ∧
    (n.st = psFailed → exec (.portRetry h true) s = .next (s.after (trainFresh (setNarta d h { n with signal := true }) h))) ∧
    (n.st ≠ psFailed → ∀ sig, exec (.portRetry h sig) s = .next (s.after (setNarta d h { n with signal := sig }))) ∧
    (∀ (cor : List Nat) (cw : Nat), n.st = psUp → (∀ l, l < 16 → cor.getD l 0 ≤ getF d (hlkPg h) HLK.LANE_LIM) →
      ∃ x o, exec (.laneWindow h cor cw) s = .next (s.after (setNarta x h { n with overrun := o })) ∧ x.narta = d.narta ∧
        ∀ l, l < 16 → mget 0 o l = 0)) ∧
  (∀ (s : State) (h : HostPort), s.dev.boot.reset = false → (narta s.dev h).st = psTraining →
    let d := s.dev
    let n := narta d h
    (∀ inv : BitVec 16, n.phase = .detect →
      exec (.nartaDetectLock h inv) s = .next (s.after (setNarta d h { n with phase := .lane, inverted := inv }))) ∧
    (∀ (r : Word64) (lane : BitVec 4), n.phase = .lane → recordOk 1 r = true → trLane r = lane.toNat ∨ trLane r + lane.toNat = 15 →
      exec (.nartaLane h r lane) s = .next (s.after (setNarta d h
        { n with reversed := trLane r != lane.toNat, phase := if n.kind == .fresh then .equalise else .agree }))) ∧
    (∀ r : Word64, n.phase = .equalise → recordOk 2 r = true → bits r.toNat 55 52 ≤ 10 →
      exec (.nartaEq h r) s = .next (s.after (setNarta d h
        { n with presets := mput 0 n.presets (trLane r) (bits r.toNat 55 52), phase := .agree }))) ∧
    (∀ (r : Word64) (usable : BitVec 16), n.phase = .agree → n.conf = none → recordOk 3 r = true → n.kind ≠ .fresh → trFull r = false →
      n.full = false → let own := n.usable &&& ~~~n.failed &&& n.agreed
      own &&& trMask r = own → chooseWidth own ≠ none →
      exec (.nartaAdv h r usable) s = .next (s.after (setNarta d h
        { n with farAdv := some (trMask r), farFull := false, farTid := trTid r, sentAdv := some own, conf := some own }))) ∧
    (∀ r : Word64, n.phase = .agree → recordOk 4 r = true → n.conf = some (trMask r) → trTid r = n.tid ∨ trTid r = n.farTid →
      exec (.nartaConf h r) s = .next (s.after (setNarta d h
        { n with agreed := trMask r, width := ((chooseWidth (trMask r)).getD (3, 0)).1, lanes := ((chooseWidth (trMask r)).getD (3, 0)).2,
                 conf := none, phase := .start }))) ∧
    (∀ r : Word64, n.phase = .start → recordOk 5 r = true → n.kind ≠ .fresh →
      exec (.nartaStart h r) s = .next (s.after (portComesUp (setNarta d h
        { n with txNext := 0, unacked := [], flits := [], resend := false, lastNak := none, expect := 0, ackSent := 0, nak := false,
                 part := [], partSeq := 0, hold := [], owedP := 0, owedN := 0, creditFrom := n.arrivals, code := TxCode.init, advP := bits r.toNat 55 47, advN := bits r.toNat 46 38, advC := bits r.toNat 37 29, heldP := bits r.toNat 55 47,
                 heldN := bits r.toNat 46 38, heldC := bits r.toNat 37 29, overrun := [] }) h))))

/-! ## Control pages (chapter 11) -/

/-- A command that is a write of a control register, on a page that allows it, acts as its register does, and lowers REMAIN; a write
that places a reserved code, or one that the page's state or lock forbids, changes nothing but REMAIN and NOT_NOW_CNT (R298 to R300). A write to PAGE_GUARD of PAGE_ID XOR 0xA5A5 sets
REMAIN to 1,024 and unlocks the page, any other value sets it to 0; every other access lowers it by 1, and the page is unlocked while
it is not 0; reads do not depend on the lock (R298). -/
def Obligations.RegisterCommandsAct : Prop :=
  (∀ (s : State) (i : Instr) (pg off : Nat) (v : Word64), regRow i = some (pg, off, v) → s.dev.boot.reset = false →
    served s.dev = true →
    let d := s.dev
    (ctlReserved pg off = true →
      exec i s = .next (s.after (barkReserved d (stewPg (lead d) (actingOf d (lead d))) (ctlAddr pg off)))) ∧
    ∀ t : PageType, ctlReserved pg off = false → pageTypeOf pg = some t → off ≠ 0x018 →
      let st := pageState d t.code (pageInst t pg)
      (Allowed d t pg off v →
        exec i s = .next (s.after (lowerRemain pg off (writeReg t.code (pageInst t pg) pg off v d).1))) ∧
      (writable off = true → reservedCode d t.code (pageInst t pg) off v = true →
        exec i s = .next (s.after (lowerRemain pg off d))) ∧
      (writable off = true → reservedCode d t.code (pageInst t pg) off v = false →
        st = 0 ∨ st = 3 ∨ st = 4 ∨ (guarded t off = true ∧ pageUnlocked d pg = false) →
        exec i s = .next (s.after (lowerRemain pg off (notNow d pg)))) ∧
      (writable off = false → st ≠ 0 → st ≠ 3 → st ≠ 4 → exec i s = .next (s.after (lowerRemain pg off d)))) ∧
  (∀ (s : State) (i : Instr) (pg : Nat) (key : Word64) (t : PageType), regRow i = some (pg, 0x018, key) →
    s.dev.boot.reset = false → served s.dev = true → pageTypeOf pg = some t →
    let st := pageState s.dev t.code (pageInst t pg)
    let n := if key.toNat = pageId t (pageInst t pg) ^^^ 0xA5A5 then 1024 else 0
    let d := { s.dev with guards := mput 0 s.dev.guards pg n }
    st ≠ 0 → st ≠ 3 → exec i s = .next (s.after d) ∧ remainOf d pg = n) ∧
  (∀ (d : Dev) (pg off : Nat), off ≠ 0x018 → remainOf (lowerRemain pg off d) pg = remainOf d pg - 1 ∧
    ∀ p, p ≠ pg → remainOf (lowerRemain pg off d) p = remainOf d p) ∧
  (∀ (d : Dev) (pg : Nat), pageUnlocked d pg = true ↔ remainOf d pg ≠ 0) ∧
  (∀ (d : Dev) (g : Map Nat) (t : PageType) (pg off : Nat), off ≠ 0x018 →
    pageValue { d with guards := g } t pg off = pageValue d t pg off)

/-- A write stores the fields of its register that store, each kept to its bits; the register's other bits and every other register
stand (R299). A counter counts modulo 2^64 and moves no other register (R302). -/
def Obligations.RegistersHold : Prop :=
  (∀ (d : Dev) (pg off : Nat) (v : Word64) (t : PageType), pageTypeOf pg = some t →
    let m := BitVec.ofNat 64 (rwMask t.fields off)
    getReg (storeRw pg off v d) pg off &&& m = v &&& m ∧
    getReg (storeRw pg off v d) pg off &&& ~~~m = getReg d pg off &&& ~~~m ∧
    ∀ p o, regKey p o ≠ regKey pg off → getReg (storeRw pg off v d) p o = getReg d p o) ∧
  (∀ (d : Dev) (pg k : Nat) (f : Fld), f.lo = 0 → f.w = 64 →
    getF (count d pg f k) pg f = (getF d pg f + k) % 2 ^ 64 ∧
    ∀ p o, regKey p o ≠ regKey pg f.off → getReg (count d pg f k) p o = getReg d p o)

/-- HEEL_REQ and RESUME of a core and of a floor sequencer: a running unit stops at the end of what has started, and one at rest is in
heel at once; RESUME lets one that a HEEL_REQ brought to heel go on, and completes with NOT_NOW otherwise, a request still pending
included (R64, R207). -/
def Obligations.HeelAndResumeAct : Prop :=
  ∀ (s : State) (n : CoreId) (t : TowerId), s.dev.boot.reset = false →
    let d := s.dev
    let c := core d n
    let f := floor d t
    let low := lowerRemain (corePg n) 0x040
    let lowF := lowerRemain (flrPg t) 0x040
    (Allowed d CORE.page (corePg n) 0x040 1 → c.st = .run ∨ c.st = .wait →
      exec (.coreHeelReq n) s = .next (s.after (low (setCore d n
        (if c.q = [] then { c with st := .heel, heelBy := c.item.isSome, heelReq := false, wait := 0 } else { c with heelReq := true }))))) ∧
    (Allowed d CORE.page (corePg n) 0x040 2 → c.st = .heel → c.heelBy = true →
      exec (.coreResume n) s =
        .next (s.after (low (pump (runPast (setCore d n { c with st := .run, heelBy := false }) n) n)))) ∧
    (Allowed d CORE.page (corePg n) 0x040 2 → c.st = .run ∨ c.st = .wait ∨ c.heelBy = false →
      exec (.coreResume n) s = .next (s.after (low (notNow d (corePg n))))) ∧
    (Allowed d FLR.page (flrPg t) 0x040 1 → f.st = .run ∨ f.st = .wait →
      exec (.flrHeelReq t) s = .next (s.after (lowF (setFloor d t
        (if f.running = true ∨ f.time.tails ≠ [] then { f with heelReq := true }
         else { f with st := .heel, heelBy := f.item.isSome, heelReq := false, wait := 0 }))))) ∧
    (Allowed d FLR.page (flrPg t) 0x040 2 → f.st = .heel → f.heelBy = true →
      exec (.flrResume t) s =
        .next (s.after (lowF (floorReserved t (setFloor d t { f with st := .run, heelBy := false, wait := 0 }))))) ∧
    (Allowed d FLR.page (flrPg t) 0x040 2 → f.st ≠ .heel ∨ f.heelBy = false →
      exec (.flrResume t) s = .next (s.after (lowF (notNow d (flrPg t)))))

/-- Commands of the tower pages: CLEAR, SET_ATTR and SWEEP set BUSY and take their place in the queue of their page's column, at its
head at once; MIGRATE moves a page to a frame; LAT_RESTART clears HOST_LAT_MAX (R167, R177, R178, R182). -/
def Obligations.TowerPagesAct : Prop :=
  ∀ (s : State) (t : TowerId) (k : BitVec 15) (perm : BitVec 4) (part : BitVec 3), s.dev.boot.reset = false →
    let d := s.dev
    let pg := twrPg t
    let b := pageCol d t k.toNat
    let row := fun (c : Instr) (v : Word64) (kind : PieceKind) =>
      (column d t b).queue ≠ [] →
      exec c s = .next (s.after (keeps pg 0x040 v
        (queuePiece (setF d pg TWR.TWR_CMD_STAT_BUSY 1) t b ⟨k.toNat, 0, 0, kind, .twrCmd⟩)))
    let first := fun (c : Instr) (v : Word64) (kind : PieceKind) =>
      (column d t b).queue = [] →
      exec c s = .next (s.after (keeps pg 0x040 v
        (hostPiece t b (queuePiece (setF d pg TWR.TWR_CMD_STAT_BUSY 1) t b ⟨k.toNat, 0, 0, kind, .twrCmd⟩))))
    let ready := k.toNat < Config.pages d.kind ∧ getF d pg TWR.TWR_CMD_STAT_BUSY ≠ 1 ∧ meState (entry d t k.toNat) ≠ meAbsent
    let attr := command 2 (perm.toNat * 2 ^ 56 + part.toNat * 2 ^ 53 + k.toNat)
    (ready → Allowed d TWR.page pg 0x040 (command 1 k.toNat) →
      row (.twrClear t k) (command 1 k.toNat) .clear ∧ first (.twrClear t k) (command 1 k.toNat) .clear) ∧
    (ready → Allowed d TWR.page pg 0x040 (command 3 k.toNat) →
      row (.twrSweep t k) (command 3 k.toNat) .sweep ∧ first (.twrSweep t k) (command 3 k.toNat) .sweep) ∧
    (ready → Allowed d TWR.page pg 0x040 attr → (mget none (tower d t).place k.toNat).isSome = false →
      ledgerPage d.kind k.toNat = false →
      row (.setAttr t k perm part) attr (.setAttr perm part) ∧ first (.setAttr t k perm part) attr (.setAttr perm part)) ∧
    (∀ g x, ready → Allowed d TWR.page pg 0x200 (command 1 k.toNat) → meState (entry d t k.toNat) ≠ meRetired →
      planLoaded d (mePart (entry d t k.toNat)) = false → frameFor d t k.toNat = some g →
      migratePage d t k.toNat g false = (x, true) →
      exec (.migrate t k) s =
        .next (s.after (keeps pg 0x200 (command 1 k.toNat) (setF x pg TWR.TWR_CMD_STAT_STATUS stOk)))) ∧
    (Allowed d TWR.page pg 0x058 1 →
      exec (.latRestart t) s = .next (s.after (lowerRemain pg 0x058 (setF d pg TWR.HOST_LAT_MAX 0))))

/-- Commands of the WHS and OPT pages: CHECK records what the table checker finds; TAKE arms a table that has passed; RETRAIN and
JOINT_TRAIN start a training of the selected link, and the loop-backs put it in their mode and end it (R147, R148, R230, R233). -/
def Obligations.RingAndLinkPagesAct : Prop :=
  ∀ (s : State) (w : Fin 33) (r : RegionId), s.dev.boot.reset = false →
    let d := s.dev
    let k := ringSel d w
    let low := lowerRemain (whsPg w) 0x200
    let chk := checkTable d w k (pendTable d w k) (ring d w k).pendCrc.toNat
    let v := optLink d r
    let l := link d r v
    let kept := fun (op : Nat) (x : Dev) => keeps (optPg r) 0x200 (command op 0) x
    let may := fun (op : Nat) => Allowed d OPT.page (optPg r) 0x200 (command op 0) ∧ linkPlanned d r v = false ∧ linkOk r v = true
    (Allowed d WHS.page (whsPg w) 0x200 1 →
      exec (.whsCheck w) s = .next (s.after (low
        (let x := setRing d w k { ring d w k with result := chk.1, at_ := chk.2 }
         if chk.1 = 1 then x else checkFailed x w k chk.1 chk.2 none)))) ∧
    (Allowed d WHS.page (whsPg w) 0x200 2 → (ring d w k).result = 1 →
      exec (.whsTake w) s = .next (s.after (low (setRing d w k
        { ring d w k with take := true, taken := (pendTable d w k).map (BitVec.ofNat 8) })))) ∧
    (may 1 → l.st ≠ .lost → exec (.retrain r) s = .next (s.after (kept 1
      (startTraining d r v (if savedValid d (saveKey r v) (laneOf r v) = true then .saved else .fresh) 3#2 3#2)))) ∧
    (may 2 → exec (.jointTrain r) s = .next (s.after (kept 2 (startJoint d r v .fresh)))) ∧
    let looped := fun (self : Bool) => setLink { d with freeN := d.freeN + 1 } r v
      { l with st := .loopBack, before := if l.st = .loopBack then l.before else l.st, loopFrames := 0, loopBy := some r.val, loopSelf := self,
               loopSeed := Config.freePrbs (d.freeN + 1), loopKept := [] }
    (may 3 → v < 32 → exec (.loopSelf r) s = .next (s.after (kept 3 (looped true)))) ∧
    (may 4 → exec (.loopFar r) s = .next (s.after (kept 4 (looped false)))) ∧
    (may 5 → l.st = .loopBack → exec (.loopEnd r) s =
      .next (s.after (kept 5 (setLink d r v { l with st := l.before, loopBy := none, loopSelf := false, loopKept := [] }))))

/-- Commands of the PART page: LOAD begins to read a plan image; UNLOAD of a partition with nothing outstanding fails its live streams, brings
its units to rest and frees the region set; a ring is enabled with its indices and counts at 0, but for the count of STREAM completions, and
disabled with no item outstanding; ABORT ends what has not started; the doorbells move SQ_TAIL and CQ_HEAD; a tail beyond the ring is ignored
with a bark; on a ring that is not enabled the doorbells complete with NOT_NOW (R241 to R244, R249, R252, R260, R263). -/
def Obligations.PartitionPagesAct : Prop :=
  ∀ (s : State) (p : PartId) (q : RingId) (x : BitVec 16) (cfg : Word64), s.dev.boot.reset = false →
    let d := s.dev
    let pg := partPg p
    let e := getF d pg PART.RING_SEL_RING
    let low := fun (off : Nat) (x : Dev) => lowerRemain pg off x
    (Allowed d PART.page pg 0x040 (command 1 0) → partState d p = psNone → getF d pg PART.PLAN_STAT_BUSY ≠ 1 →
      exec (.planLoad p) s = .next (s.after (keeps pg 0x040 (command 1 0)
        (let y := setF d pg PART.PLAN_STAT_BUSY 1
         newJob y (.plan p) (getF y pg PART.PLAN_LOC == 1) p (getF y pg PART.PLAN_ADDR) 64)))) ∧
    (Allowed d PART.page pg 0x040 (command 2 0) → planLoaded d p = true → getF d pg PART.PLAN_STAT_BUSY ≠ 1 →
      (∀ r ∈ regionsOf d p, (tower d r).hold = false) → (∀ q, q < 64 → outstanding (rq d p q) = 0) →
      exec (.planUnload p) s = .next (s.after (keeps pg 0x040 (command 2 0)
        (let rs := regionsOf d p
         let a := dropUnits p (quietRegions rs (failRecords (setPartState d p psUnloading) p stAborted)).1
         let b := endPlan rs (quietWhistle rs (rs.foldl (fun d r => mapChans drainedChan r d) a)).1
         planEnds (setPartState { freeSet b p with plans := mput Plan.none b.plans p Plan.none } p psNone) p stOk)))) ∧
    (let kept := BitVec.ofNat 64 (cfg.toNat % 2 ^ 19 - bits cfg.toNat 4 1 * 2)
     (Allowed d PART.page pg 0x060 cfg → rqOn (rq d p e) = false → fieldOf cfg PART.RING_CFG_ENABLE = 1 →
      exec (.ringEnable p cfg) s = .next (s.after (low 0x060 (pendingMirrors (setRq d p e
        { RingQ.init with cfg := kept, sqBase := (rq d p e).sqBase, cqBase := (rq d p e).cqBase,
                          streamCpl := (rq d p e).streamCpl }) p e)))) ∧
     (Allowed d PART.page pg 0x060 cfg → rqOn (rq d p e) = true → fieldOf cfg PART.RING_CFG_ENABLE = 0 → outstanding (rq d p e) = 0 →
      exec (.ringEnable p cfg) s = .next (s.after (low 0x060 (ringOff p e kept d))))) ∧
    (Allowed d PART.page pg 0x078 1 →
      exec (.ringAbort p) s = .next (s.after (low 0x078 (abortRing d p e stAborted)))) ∧
    (Allowed d PART.page pg (0xC00 + 16 * q) (x.setWidth 64) → rqOn (rq d p q) = true → x.toNat < sqSize (rq d p q) →
      exec (.sqTail p q x) s = .next (s.after (low (0xC00 + 16 * q)
        (readNext (setRq d p q { rq d p q with tail := x.toNat }) p q)))) ∧
    (Allowed d PART.page pg (0xC00 + 16 * q) (x.setWidth 64) → rqOn (rq d p q) = true → sqSize (rq d p q) ≤ x.toNat →
      exec (.sqTail p q x) s = .next (s.after (low (0xC00 + 16 * q)
        (bark d 0x1A02 pg (lead d) 1 (some p.val) none ([BitVec.ofNat 8 q, 0] ++ leBytes 2 x.toNat))))) ∧
    (Allowed d PART.page pg (0xC08 + 16 * q) (x.setWidth 64) → rqOn (rq d p q) = false →
      exec (.cqHead p q x) s = .next (s.after (low (0xC08 + 16 * q) (notNow d pg)))) ∧
    (Allowed d PART.page pg (0xC08 + 16 * q) (x.setWidth 64) → rqOn (rq d p q) = true →
      exec (.cqHead p q x) s = .next (s.after (low (0xC08 + 16 * q)
        (cplPump (setRq d p q { rq d p q with cqHead := x.toNat }) p q)))) ∧
    (Allowed d PART.page pg (0xC00 + 16 * q) (x.setWidth 64) → rqOn (rq d p q) = false →
      exec (.sqTail p q x) s = .next (s.after (low (0xC00 + 16 * q) (notNow d pg))))

/-- Commands of the HLK pages: FULL_TRAIN trains a port fresh; DISABLE stops it at the end of the command (log entry 19); ENABLE lets a disabled port fail and train again;
a write of HLK_CTL moves each home and the system port to a port that is up (R270, R275, R289, R309). -/
def Obligations.HostLinkPagesAct : Prop :=
  ∀ (s : State) (h : HostPort) (home : BitVec 8) (sys : HostPort), s.dev.boot.reset = false →
    let d := s.dev
    let n := narta d h
    let pg := hlkPg h
    let only := portUp d h = true ∧ portUp d (1 - h.val) = false
    let want := fun (w : Nat) => if w < 8 then (if bit home.toNat w = true then 1 else 0) else sys.val
    (Allowed d HLK.page pg 0x210 (command 1 0) → ¬ only → n.st ≠ psDisabled →
      exec (.fullTrain h) s = .next (s.after (keeps pg 0x210 (command 1 0) (trainFresh d h)))) ∧
    (Allowed d HLK.page pg 0x210 (command 2 0) → ¬ only →
      exec (.hlkDisable h) s =
        .next (s.after (keeps pg 0x210 (command 2 0) (setNarta d h { n with stopping := true })))) ∧
    (Allowed d HLK.page pg 0x210 (command 3 0) → n.st = psDisabled →
      exec (.hlkEnable h) s = .next (s.after (keeps pg 0x210 (command 3 0) (portState d h psFailed)))) ∧
    (Allowed d HLK.page (hlkPg 0) 0x040 (BitVec.ofNat 64 (sys.val * 256 + home.toNat)) →
      (∀ w, w < 9 → portUp d (want w) = true ∧ (mget none d.change w = none ∨ mget none d.change w = some (want w))) →
      exec (.hlkCtl home sys) s = .next (s.after (lowerRemain (hlkPg 0) 0x040
        ((List.range 9).foldl (fun d w => moveHome d w (want w)) d))))

/-- Commands of the package's pages: the heads of the event and receipt rings take their value; WARM_REQ begins a drain; NOTE_TIME
takes a note; ATTEST builds a report to be signed; ADVANCE burns the counter; ALERT_ACK deasserts ALERT_N where no cause holds; REBASE
takes new baselines; LOCK locks the JTAG port (R306, R307, R313, R314, R316, R399, R441, R444, R479). -/
def Obligations.PackagePagesAct : Prop :=
  ∀ (s : State) (x : BitVec 16) (utc : Word64), s.dev.boot.reset = false →
    let d := s.dev
    (Allowed d EVT.page evtPg 0x050 (x.setWidth 64) →
      exec (.evtHead x) s = .next (s.after (keeps evtPg 0x050 (x.setWidth 64) d))) ∧
    (Allowed d METR.page metrPg 0x058 (x.setWidth 64) →
      exec (.rcptHead x) s = .next (s.after (keeps metrPg 0x058 (x.setWidth 64) d))) ∧
    (Allowed d PKG.page pkgPg 0x040 1 → mayDrain d = true → diesHot d = false →
      exec .warmReq s = .next (s.after (lowerRemain pkgPg 0x040 (startDrain false 5 d)))) ∧
    (Allowed d LIFE.page lifePg 0x040 utc → d.noteAt = none → d.note = none →
      exec (.noteTime utc) s = .next (s.after (lowerRemain lifePg 0x040
        { setF d lifePg LIFE.NOTE_TIME utc.toNat with note := some utc, noteAt := some (mget 0 d.ticks (lead d)) }))) ∧
    (Allowed d SEC.page secPg 0x040 (command 1 0) → getF d secPg SEC.ATT_STAT_BUSY ≠ 1 → canSign d false = true →
      exec .attest s = .next (s.after (keeps secPg 0x040 (command 1 0)
        (setF { d with report := some (reportBytes d) } secPg SEC.ATT_STAT_BUSY 1)))) ∧
    (Allowed d SEC.page secPg 0x200 1 → rollbackOf d < hdrLevel d.boot.header → rollbackOf d < 64 →
      exec .advance s = .next (s.after (lowerRemain secPg 0x200
        { d with rollback := (upDies d).foldl (fun m k => mput 0 m k (max (mget 0 m k) (hdrLevel d.boot.header))) d.rollback }))) ∧
    (Allowed d THM.page thmPg 0x040 1 →
      exec .alertAck s = .next (s.after (lowerRemain thmPg 0x040
        (if alertCause d = true then d else { d with alertPin := false })))) ∧
    (Allowed d THM.page thmPg 0x200 1 → (∀ k ∈ upDies d, 16 ≤ (quad d k).heat.length) →
      exec .rebase s = .next (s.after (lowerRemain thmPg 0x200 (coolantCheck ((upDies d).foldl (fun d k =>
        let b := (dieIndex d k).floor.toNat
        let d := setF d clntPg (CLNT.DIE_BASE.at k) b
        let d := setFI d clntPg (CLNT.DIE_INDEX.at k) (relative (dieIndex d k) (baseOf d k))
        life d 7 0 ([BitVec.ofNat 8 k, 2, 0, 0] ++ leBytes 4 b)) d))))) ∧
    (Allowed d JTAG.page jtagPg 0x200 1 →
      exec .jtagLock s = .next (s.after (lowerRemain jtagPg 0x200 (setF d jtagPg JTAG.JTAG_STAT_LOCKED 1))))

/-! ## Start, test and repair (chapter 12) -/

/-- LOAD_HOST and WRITE_SLOT begin to read a host image; RUN tests a region's units; ENTRY adds a unit to the kennel, and retires a
frame that it names (R324, R326, R346, R347). -/
def Obligations.BootPagesAct : Prop :=
  ∀ (s : State) (k : Fin 2) (r : RegionId) (failed : List (BitVec 32)) (e : BitVec 32), s.dev.boot.reset = false →
    let d := s.dev
    let free := getF d bootPg BOOT.BOOT_CMD_STAT_BUSY ≠ 1
    (Allowed d BOOT.page bootPg 0x048 (command 1 0) → bootPhase d = 3 → free →
      exec .loadHost s = .next (s.after (keeps bootPg 0x048 (command 1 0) (readHostImage none d)))) ∧
    (Allowed d BOOT.page bootPg 0x048 (command 2 k) → slotRuns d k = false → free →
      exec (.writeSlot k) s = .next (s.after (keeps bootPg 0x048 (command 2 k) (readHostImage (some k.val) d)))) ∧
    (Allowed d KAT.page katPg 0x200 (command 1 r) → partOf d r = none → getF d katPg KAT.KAT_STAT_BUSY ≠ 1 →
      getF d (rgnPg r) RGN.RGN_STAT_STATE = 1 →
      exec (.katRun r failed) s = .next (s.after (keeps katPg 0x200 (command 1 r) (katRun r (failed.map (·.toNat)) d).1))) ∧
    (Allowed d KENL.page kenlPg 0x200 (e.setWidth 64) →
      exec (.kenlAdd e) s = .next (s.after (lowerRemain kenlPg 0x200
        (if entKind e.toNat = 3 then retireNamed (bits e.toNat 20 16) (bits e.toNat 15 0) (kennelAdd d e.toNat 8)
         else kennelAdd d e.toNat 8))))

/-- The election: the die checks tell which dies are healthy, and record with them whether the fuse copies match; READY joins a die's set
until it closes; LEAD, REFUSE and ACCEPT change the die they reach, whose steward acknowledges them (a candidate's own LEAD counts as the
first it heard: log entry 23); a round that one candidate wins gives it the lead, and another is counted (R143, R319, R321, R336). -/
def Obligations.ElectionActs : Prop :=
  ∀ (s : State) (a b c : DieId) (p : BitVec 8), s.dev.boot.reset = false →
    let d := s.dev
    let x := bootDie d a
    let y := bootDie d b
    let chk := withMatch d a p.toNat
    let named := badEntries (setF (setF d (fusePg a) FUSE.FUSE_STAT_COPY_A_OK (bit chk 4).toNat) (fusePg a) FUSE.FUSE_STAT_COPY_B_OK
      (bit chk 5).toNat)
    let won := (List.range 8).find? (fun k =>
      stands d k && (bootDie d k).s.all (fun j => j == k || (bootDie d k).accepts.contains j))
    (d.boot.on = true → bootPhase d ≤ 1 → x.closed = false → getF d (dbgPg a) DBG.DBG_MODE_STANDALONE ≠ 1 →
      named.contains (entSteward a 0) = false → named.contains (entSteward a 1) = false →
      ∃ z, exec (.dieChecks a p) s = .next (s.after z) ∧ getF z (dbgPg a) DBG.DBG_CHECK = chk ∧
        (bootDie z a).healthy = (bit p.toNat 0 && bit p.toNat 3 && bit p.toNat 7 && (bit p.toNat 1 || bit p.toNat 2) &&
          fusesUsable d a chk) ∧
        ∀ k, k ≠ a.val → bootDie z k = bootDie d k) ∧
    (d.boot.lead = none → x.healthy = true → y.healthy = true → y.closed = false → a ≠ b →
      exec (.ready a b) s = .next (s.after (setBootDie (stewardTells d a b) b { y with s := (y.s ++ [a.val]).eraseDups }))) ∧
    (d.boot.on = true → x.healthy = true → x.closed = false →
      exec (.electionClose a) s =
        .next (s.after (setPhase (setBootDie d a { x with closed := true, s := (a.val :: x.s).eraseDups }) 1))) ∧
    (electing d = true → stands d a = true → a ≠ b → x.s.contains b.val = true → y.closed = true → y.s.contains a.val = true →
      exec (.lead a b) s = .next (s.after (setBootDie
        (stewardTells (setBootDie d a { x with accepted := x.accepted.or (some a.val) }) a b) b
        { y with leads := (y.leads ++ [a.val]).eraseDups, accepted := y.accepted.or (some a.val) }))) ∧
    (electing d = true → stands d b = true → x.accepted = some c.val → c ≠ b →
      exec (.refuse a b c) s = .next (s.after (setBootDie (stewardTells d a b) b { y with withdrew := some c.val }))) ∧
    (electing d = true → a ≠ b → x.accepted = some b.val ∨ x.withdrew = some b.val →
      exec (.accept a b) s = .next (s.after (setBootDie (stewardTells d a b) b { y with accepts := (y.accepts ++ [a.val]).eraseDups }))) ∧
    (∀ k, electing d = true → won = some k → exec .electionRoundEnd s = .next (s.after (takeLead k d)) ∧
      (takeLead k d).boot.lead = some k) ∧
    (electing d = true → won = none → ∃ z, exec .electionRoundEnd s = .next (s.after z) ∧ z.boot.round = d.boot.round + 1 ∧
      z.boot.lead = none ∧ z.regs = d.regs)

/-- Stewards, images and tests: the other steward of a die takes over; a slot's image runs if it is acceptable, else the next source is
tried, and a host source trains the ports that are down and waits for the host; a section with its digest is held, one that fails is sent
again, and a receiver that fails it twice is bad; checkers and known-answer runs pass in silence or make their unit bad; the map build ends
the start (R322 to R325, R330 to R334, R341, R440). -/
def Obligations.FirmwareAndTestsAct : Prop :=
  (∀ (s : State) (k : DieId) (j : Fin 2) (rcv : Receiver) (sec : Fin 32) (data : List Byte) (e : BitVec 32)
      (failed : List (BitVec 32)) (ck : Checker), s.dev.boot.reset = false →
    let d := s.dev
    let up := getF d (diePg k) DIE.DIE_STAT_STEWARDS
    let role := getF d (stewPg k j) STEW.STEW_STAT_ROLE
    let n := receiverNo rcv
    (dieUp d k = true → bit up j = true → bit up (1 - j.val) = true →
      let x := setF (setF (setF d (diePg k) DIE.DIE_STAT_STEWARDS (up - 2 ^ j.val)) (stewPg k j) STEW.STEW_STAT_STATE 3)
        (stewPg k j) STEW.STEW_STAT_ROLE 0
      let y := setF x (stewPg k (1 - j.val)) STEW.STEW_STAT_ROLE role
      exec (.stewardFail k j) s = .next (s.after (if role = 3 then x else if role = 1 then
        bark y 0x0902 bootPg k 1 none none [BitVec.ofNat 8 k, BitVec.ofNat 8 (1 - j.val)] else y))) ∧
    (∀ m rest, d.boot.lead.isSome = true → bootPhase d = 2 ∨ bootPhase d = 3 → d.boot.sources = m :: rest → m < 2 →
      let c := imageCheck d (lead d) (slotImage d m)
      (c = 1 → exec .firmwareSelect s = .next (s.after (runImage m (slotImage d m) (setF d bootPg (verifyField m) 1)))) ∧
      (c ≠ 1 → exec .firmwareSelect s = .next (s.after
        (let y := setF (count d secPg SEC.VERIFY_FAILS 1) bootPg (verifyField m) c
         let z := bark y 0x0901 bootPg (lead y) 1 none none [BitVec.ofNat 8 m, BitVec.ofNat 8 c]
         sourcesSpent { z with boot := { z.boot with sources := rest } })))) ∧
    (∀ m rest, d.boot.lead.isSome = true → d.boot.sources = m :: rest → 2 ≤ m →
      (bootPhase d = 2 → exec .firmwareSelect s = .next (s.after (setPhase
        ([0, 1].foldl (fun d h => if dieUp d (portDie h) = true ∧ (narta d h).st = psDown then trainFresh d h else d) d) 3))) ∧
      (bootPhase d = 3 → getF d bootPg BOOT.BOOT_CMD_STAT_BUSY ≠ 1 →
        getF d bootPg BOOT.BOOT_STAT_VERIFYH ≠ 0 ∨ anyPortUp d = false →
        exec .firmwareSelect s = .next (s.after
          (sourcesSpent (setPhase { d with boot := { d.boot with sources := rest } } 2))))) ∧
    (let x := wServed d (stewardStation d (lead d)) (rcvStation d n) wtFirmware
     let h := hdrSect d.boot.header sec
     bootPhase d = 4 → sec < hdrSections d.boot.header → (receivers d h.kind).contains n = true →
     d.boot.got.contains (n, sec.val) = false →
     (Config.rootDigest (rcvDie n) = Config.rootDigest (lead d) → sha512 data = h.digest →
        exec (.firmwareBlock rcv sec data) s = .next (s.after (broadcastEnds (takeSection n sec h.kind data x)))) ∧
     (Config.rootDigest (rcvDie n) = Config.rootDigest (lead d) → sha512 data ≠ h.digest → d.boot.miss.contains (n, sec.val) = false →
        exec (.firmwareBlock rcv sec data) s =
          .next (s.after { x with boot := { x.boot with miss := x.boot.miss ++ [(n, sec.val)] } })) ∧
     (Config.rootDigest (rcvDie n) = Config.rootDigest (lead d) → sha512 data ≠ h.digest → d.boot.miss.contains (n, sec.val) = true →
        exec (.firmwareBlock rcv sec data) s = .next (s.after (broadcastEnds (receiverBad n x)))) ∧
     (Config.rootDigest (rcvDie n) ≠ Config.rootDigest (lead d) →
        exec (.firmwareBlock rcv sec data) s = .next (s.after (broadcastEnds (receiverBad (rcvDie n) x))))) ∧
    (starting d = true → bootPhase d ≤ 6 → checkerOk ck = true →
      exec (.checkerSelfTest ck true) s = .next (s.after (setPhase d 6)) ∧
      exec (.checkerSelfTest ck false) s = .next (s.after (checkerFails ck (setPhase d 6))) ∧
      ∀ ent ks, checkerEnt ck = some (ent, ks) → entKind ent ≠ 5 → entKind ent ≠ 6 →
        checkerFails ck (setPhase d 6) = testFails ent 3 (setPhase d 6)) ∧
    (starting d = true → katKind e.toNat = true → (badEntries d).contains e.toNat = false →
      let ent := e.toNat
      let x := katRuns ent (count (katClocks (entDie ent) (setPhase d 7)) katPg KAT.KAT_RUNS 1)
      let y := count (count x katPg KAT.KAT_FAILS 1) (diePg (entDie ent)) DIE.KAT_FAILS 1
      exec (.knownAnswerRun e true) s = .next (s.after x) ∧
      (entKind ent = 1 ∨ entKind ent = 2 → exec (.knownAnswerRun e false) s = .next (s.after (testFails ent 2 y))) ∧
      (entKind ent = 5 ∨ entKind ent = 6 → exec (.knownAnswerRun e false) s = .next (s.after
        (laneEntFails ent 2 (bark (noteFail ent y) 0x1101 katPg (lead y) 2 none none (leBytes 4 ent)))))) ∧
    (starting d = true → d.boot.warm = false →
      exec (.startUpTest failed) s = .next (s.after ((failed.map (·.toNat)).foldl
        (fun d e => if entOk e = true then unitBad e 1 (noteFail e d) else d) (setPhase d 7)))) ∧
    (5 ≤ bootPhase d → bootPhase d < 9 → upDies d ≠ [] → ∃ x, exec .mapBuild s = .next (s.after (startEnds x)))) ∧
  (∀ x : Dev, x.boot.warm = false → x.boot.full = false → bootPhase (startEnds x) = 9)

/-! ## Resets and pins (chapters 13 and 17) -/

/-- Resets: RST_CORE and RST_PACK bring their cores to rest and report; RST_TOWER holds its tower, which drains the frames it has sent, fails
what is left and resumes when both ends agree; RST_PARTITION acts or waits for a held tower; RST_WARM, RST_COLD and the watchdog begin a
drain, and RST_COLD waits for one that runs; a drain that has taken too long gives up what a ring still holds; a tower whose clock bonds have both failed is muzzled with its region, and MUZZLE muzzles the
site of a logical core (R26, R357 to R367). -/
def Obligations.ResetsAct : Prop :=
  ∀ (s : State) (n : BitVec 12) (t : TowerId) (p : PartId) (q : RingId) (r : RegionId) (u : BitVec 7) (bond : Fin 2),
    s.dev.boot.reset = false →
    let d := s.dev
    let at_ := fun (off op x : Nat) (y : Dev) => keeps rstPg off (command op x) y
    let may := fun (off op x : Nat) => Allowed d RST.page rstPg off (command op x)
    let m := n.toNat
    let tw := tower d t
    (may 0x200 1 m → smallOk d (coreRegion m) = true → (siteOf d m).isSome = true →
      exec (.rstCore n) s = .next (s.after (at_ 0x200 1 m (resetEnds 0 m 0 0 none (count
        (count (setCore d m (quietCore (core d m))) rstPg RST.LEASHES_RETURNED (coreLeashes d m)) rstPg RST.CORE_RESETS 1))))) ∧
    (may 0x200 2 m → m < 128 → smallOk d (m / 4) = true →
      exec (.rstPack n) s = .next (s.after (at_ 0x200 2 m (resetEnds 1 m 0 0 none (count
        ((List.range 32).foldl (fun d c => if (siteOf d (32 * m + c)).isSome = true then resetCore (32 * m + c) d else d) d)
        rstPg RST.PACK_RESETS 1))))) ∧
    (may 0x200 3 t → d.drain = none → tw.hold = false → getF d (rgnPg t) RGN.RGN_STAT_STATE = 1 →
      exec (.rstTower (BitVec.ofNat 12 t)) s = .next (s.after (at_ 0x200 3 t (towerGo t d)))) ∧
    (tw.hold = true → tw.draining = true → exec (.towerResetResume t []) s = .next (s.after (towerFails t d))) ∧
    (tw.hold = true → tw.draining = false → linksTrain d t = false →
      (List.range 136).any (fun b => (link d t (64 + b)).st != .lost) = true →
      exec (.towerResetResume t []) s = .next (s.after
        (let free := setTower d t { tw with hold := false, tally := (0, 0) }
         let x := if getF d (rgnPg t) RGN.RGN_STAT_STATE = 2 then setF free (rgnPg t) RGN.RGN_STAT_STATE 1 else free
         let y := count (count x rstPg RST.TOWER_RESETS 1) (rgnPg t) RGN.TOWER_RESETS 1
         servePorts t (resetEnds 2 t tw.tally.1 tw.tally.2 (partOf y t) y)))) ∧
    (may 0x040 1 p → planLoaded d p = true → d.rstWait.contains p.val = false → d.drain = none →
      exec (.rstPartition p) s = .next (s.after (at_ 0x040 1 p
        (if towersHeld d (regionsOf d p) = true then { d with rstWait := d.rstWait ++ [p.val] } else partitionGo p d)))) ∧
    (may 0x040 2 0 → mayDrain d = true → diesHot d = false →
      exec .rstWarm s = .next (s.after (at_ 0x040 2 0 (startDrain false 5 d)))) ∧
    (may 0x200 4 0 → mayDrain d = true →
      exec .rstCold s = .next (s.after (at_ 0x200 4 0 (startDrain true 4 d)))) ∧
    (∀ x, may 0x200 4 0 → d.drain = some x → x.cold = false → x.thenCold = false →
      exec .rstCold s = .next (s.after (at_ 0x200 4 0 { d with drain := some { x with thenCold := true } }))) ∧
    (mayDrain d = true →
      exec .firmwareWatchdog s = .next (s.after (startDrain false 6 d))) ∧
    (∀ x, d.drain = some x → x.begun = true → ∃ y, exec (.warmDrainTimeout p q) s = .next (s.after y) ∧
      (rq y p q).held = [] ∧ (rq y p q).tail = (rq y p q).head ∧ (rq y p q).reading = false) ∧
    (let bad := tw.clockBad ||| BitVec.ofNat 2 (2 ^ bond.val)
     let x := setTower d t { tw with clockBad := bad }
     exec (.clockBondFail t bond) s = .next (s.after
       (if bad = 3#2 ∧ getF d (rgnPg t) RGN.RGN_STAT_STATE ≠ 0 then muzzleRegion x t 7 else x))) ∧
    (∀ k, Allowed d RGN.page (rgnPg r) 0x200 (command 1 u.toNat) → siteOf d (128 * r + u.toNat) = some k →
      (core d (128 * r + u.toNat)).st ≠ .muzzled →
      exec (.muzzle r u) s = .next (s.after (keeps (rgnPg r) 0x200 (command 1 u.toNat)
        (muzzleSite d (corePack (128 * r + u.toNat)) k 8))))

/-- The pins: a pulse of 1 µs or more on COLD_RST_N or a power-good input starts a package cold reset, one shorter than 100 ns is
ignored, one between the two may act or not; COLD_RST_N alone releases THERMTRIP_N; a device held in reset leaves it at DEVICE_START;
the straps give the SMBus address, and a fall of PG_AUX takes it away (R317, R366, R467, R470 to R472). -/
def Obligations.PinsAct : Prop :=
  ∀ (s : State) (ns : Nat) (pin : PgPin) (a1 a0 : Bool),
    let d := s.dev
    let cold := fun (cause : Nat) (d : Dev) => if d.boot.reset = true then d else coldState cause (lastTotals d)
    let free := { d with freeN := d.freeN + 1 }
    let fall := fun (d : Dev) => if pin = .aux then setF d smbPg SMB.SMB_STAT_ADDR 0 else d
    (1000 ≤ ns → exec (.coldRstN ns) s = .next (s.after { cold 1 d with thermtrip := false }) ∧
      exec (.powerGoodFall pin ns) s = .next (s.after (fall (cold 2 d)))) ∧
    (ns < 100 → exec (.coldRstN ns) s = .next (s.after d) ∧ exec (.powerGoodFall pin ns) s = .next (s.after d)) ∧
    (100 ≤ ns → ns < 1000 → ∃ act : Bool,
      exec (.coldRstN ns) s = .next (s.after (if act = true then { cold 1 free with thermtrip := false } else free)) ∧
      exec (.powerGoodFall pin ns) s = .next (s.after (if act = true then fall (cold 2 free) else free))) ∧
    exec .refclkLoss s = .next (s.after (cold 3 d)) ∧
    exec .deviceStart s = .next (s.after (if d.boot.reset = true then bootDies d else d)) ∧
    (bootDies d).boot.reset = false ∧ (∀ c x, (coldState c x).boot.reset = true ∧ (coldState c x).thermtrip = x.thermtrip) ∧
    exec (.pgAux a1 a0) s = .next (s.after (setF d smbPg SMB.SMB_STAT_ADDR (0x58 + 2 * a1.toNat + a0.toNat))) ∧
    getF (setF d smbPg SMB.SMB_STAT_ADDR (0x58 + 2 * a1.toNat + a0.toNat)) smbPg SMB.SMB_STAT_ADDR = 0x58 + 2 * a1.toNat + a0.toNat

/-- A device held in reset does nothing at any command but those of its pins and of its SMBus and JTAG ports; and every command, in any
state, answers a next state with the queue as it was (R317). -/
def Obligations.HeldInResetStands : Prop :=
  (∀ (s : State) (c : Instr), s.dev.boot.reset = true → actsInReset c = false → exec c s = .next (s.after s.dev)) ∧
  (∀ (s : State) (c : Instr), ∃ x : Dev, exec c s = .next { dev := settle x, pending := s.pending })

/-! ## Power and heat (chapter 14) -/

/-- A period ends with new estimates and demands and a decision of the point; the limiter steps down after 50 periods at L_max over the
limit and up after 500 at level 0; protection steps below the slowest usable point and gives back (R384 to R388). -/
def Obligations.LimiterActs : Prop :=
  ∀ (s : State) (k : DieId) (r : RailId), s.dev.boot.reset = false →
    let d := s.dev
    let q := quad d k
    let p := pointOf d k
    let top := (levelMax p (min 7 (p + q.lim))).getD 0
    (∃ n m g, exec (.currentEstimate k) s =
        .next (s.after (decide1 k (setQuad { d with estSnap := m, shared := g } k n))) ∧
      n.est = (List.range 5).map (estimate d k) ∧ n.lim = q.lim ∧ n.prot = q.prot ∧
      ∀ i, i < 5 → n.dem.getD i 0 =
        nextDemand (q.dem.getD i 0) top ((estimate d k i).1 + (estimate d k i).2) (railSet d k i)) ∧
    (50 ≤ q.overrun → q.prot = 0 → usable p (p + q.lim + 1) = true →
      exec (.limiterStepDown k) s = .next (s.after (takeRun k (setQuad d k
        { q with lim := q.lim + 1, dem := [0, 0, 0, 0, 0], overrun := 0, calm := 0 })))) ∧
    (0 < q.lim → q.prot = 0 → 500 ≤ q.calm → roomAbove d k = true →
      exec (.limiterStepUp k) s = .next (s.after (takeRun k (setQuad d k { q with lim := q.lim - 1, calm := 0 })))) ∧
    (∀ i e, overRail d k = some (i, e) → 500 ≤ q.overrun → usable p (p + q.lim + 1) = false → runOf p q < 7 →
      exec (.protectionStep k) s = .next (s.after (takeRun k
        (let x := count (setQuad d k { q with prot := q.prot + 1, overrun := 0, under := 0, protBark := true }) (railPg i) RAIL.PROT_STEPS 1
         if q.protBark = true then x
         else bark x 0x2001 (railPg i) k 2 none none ([BitVec.ofNat 8 i, 0] ++ leBytes 2 e.floor.toNat))))) ∧
    (0 < q.prot → 5000 ≤ q.under →
      exec (.protectionRelease k) s = .next (s.after (takeRun k (setQuad d k
        { q with prot := q.prot - 1, under := 0, overrun := 0, protBark := q.prot != 1 && q.protBark })))) ∧
    (40 ≤ r.val → ∃ e : Nat, exec (.unlimitedRailOver r) s = .next (s.after
      (bark (count { d with freeN := d.freeN + 1 } (railPg r) RAIL.OVER_NOLIM 1) 0x2002 (railPg r)
        (lead { d with freeN := d.freeN + 1 }) 2 none none ([BitVec.ofNat 8 r, 0] ++ leBytes 2 e)))) ∧
    (0 < pwrCeil d → 10 ≤ d.heat.underW →
      exec .powerCeilRelease s = .next (s.after (allCeil CLK.CLK_STAT_PWR_CEIL (pwrCeil d - 1)
        (logStep 8 3 (pwrCeil d - 1) (pwrCeil d) { d with heat := { d.heat with underW := 0 } })))) ∧
    ∀ (dem top : Nat) (e lim : Rat), (lim < e → nextDemand dem top e lim = min top (dem + 1)) ∧
      (e ≤ lim → e < lim * 97 / 100 → nextDemand dem top e lim = dem - 1) ∧
      (e ≤ lim → lim * 97 / 100 ≤ e → nextDemand dem top e lim = min top dem)

/-- The ramp: RC moves by one update of the ramp, never to a point faster than OP_CEIL allows; a slower point is taken before its voltage, and a faster one after
both regulators confirm it, or after three tries not at all, and a regulator that does not answer confirms nothing; slews, idling and ageing checks end in a decision (R380 to R383). -/
def Obligations.RampActs : Prop :=
  ∀ (s : State) (k : DieId) (slacks : List (Int × Int)), s.dev.boot.reset = false →
    let d := s.dev
    let q := quad d k
    let rc := rampCeil d k
    let rise := (List.zipWith (· - ·) (rampTemps d k) q.tempAt).foldl max 0
    let goal := if 32 < rise * 10 then min 6 (rc + 1) else if q.fast ≤ rc then rc - 1 else q.fast - 1
    let next := max goal (opCeil d k)
    let q' := { q with tempAt := rampTemps d k, fast := q.run }
    (next = rc → exec (.rampUpdate k) s = .next (s.after (setQuad d k { q' with want := none }))) ∧
    (rc < next → exec (.rampUpdate k) s = .next (s.after
      (setVolts k next (sendVout k (decide1 k (setRamp k next (setQuad d k { q' with want := none }))))))) ∧
    (next < rc → q.want = none → ∃ x, exec (.rampUpdate k) s = .next (s.after x) ∧
      quad x k = { q' with want := some next, tries := 0 } ∧ rampCeil x k = rc ∧ pointOf x k = pointOf d k) ∧
    (∀ w, q.want = some w →
      let n := ([k.val, 16 + k.val].filter (railUp d)).length
      let x := setQuad (count d pmbPg PMB.PMB_READS n) k { q with want := none, tries := 0 }
      (railUp d k = true → railUp d (16 + k) = true →
        exec (.voltageConfirm k true) s = .next (s.after (decide1 k (setRamp k (max w (opCeil x k)) (setVolts k (max w (opCeil x k)) x))))) ∧
      (∀ c, c = false ∨ railUp d k = false ∨ railUp d (16 + k) = false →
        (q.tries < 2 → exec (.voltageConfirm k c) s =
          .next (s.after (sendVout k (setQuad (count d pmbPg PMB.PMB_READS n) k { q with tries := q.tries + 1 })))) ∧
        (2 ≤ q.tries → ∃ y, exec (.voltageConfirm k c) s = .next (s.after y) ∧ (quad y k).want = none ∧ rampCeil y k = rc))) ∧
    exec (.slewEnd k) s = .next (s.after (decide1 k (setQuad d k { q with slewing := false }))) ∧
    exec (.quadrantIdle k) s = .next (s.after (decide1 k (setQuad d k { q with idleAt := some (stepsIssued d k) }))) ∧
    (slacks.length ≤ 16 → (∀ x ∈ slacks, 10 * (getF (showSlacks k slacks d) (clkPg k) CLK.CLK_AGE_SLACK_MIN : Int) ≤ x.1) →
      exec (.ageingCheck k slacks) s = .next (s.after (showSlacks k slacks d)))

/-- Sensors and models: a model takes its new values, and a tower responds to the temperature that follows; a sensor that fails is marked, counted and barked once; of two twins far
apart the one further from the model becomes suspect; hidden heat is marked and asserts ALERT_N (R391 to R394). Responses to heat:
a conversion takes its readings, checks the twins, shows the zones and responds; a die's thermal ceiling steps and is released; a hot-spot trip stops all arithmetic and asserts
THERMTRIP_N; a heat-path sample of 40 W or more joins the die's index, and a smaller one does nothing (R390, R395, R398, R399). -/
def Obligations.HeatActs : Prop :=
  (∀ (s : State) (k : DieId) (h : Fin 8) (t : TowerId) (l : Fin 16) (n : SensorId), s.dev.boot.reset = false →
    let d := s.dev
    let z := zoneOf d (8 + t)
    let a := sensor d (twin k h 0)
    let b := sensor d (twin k h 1)
    let m := (zoneOf d k).model.getD h 0
    (∃ x : List Int, exec (.hotSpotModel k) s =
      .next (s.after (setZone { d with freeN := d.freeN + 1 } k { zoneOf d k with model := x })) ∧ x.length = 8) ∧
    (∃ x, exec (.thermalModelUpdate t) s = .next (s.after (towerResponse t (cycleStep (8 + t) (showZone (8 + t) x)))) ∧
      (zoneOf x (8 + t)).model.length = 18 ∧ x.regs = d.regs ∧ ∀ i, i ≠ 8 + t.val → zoneOf x i = zoneOf d i) ∧
    (128 < absI (a.val - b.val) → a.failed = false → b.failed = false → a.suspect = false → absI (b.val - m) < absI (a.val - m) →
      exec (.sensorSuspect k h) s = .next (s.after (bark (logMark (twin k h 0) 1 (setSensor d (twin k h 0) { a with suspect := true }))
        0x2102 thmPg k 1 none none (leBytes 2 (twin k h 0) ++ [1])))) ∧
    ((sensor d n).failed = false → exec (.sensorFail n) s = .next (s.after
      (let x := count (setSensor d n { sensor d n with failed := true }) (zonPg (sensorZone n)) TZON.SENSOR_FAILS 1
       bark x 0x2102 (zonPg (sensorZone n))
         (if sensorZone n < 8 then sensorZone n else if sensorZone n < 40 then (sensorZone n - 8) / 4 else lead x) 1 none none
         (leBytes 2 n ++ [2])))) ∧
    ((sensor d n).failed = true → exec (.sensorFail n) s = .next (s.after d)) ∧
    (z.hidden = false → layerHides d t l = true → ∃ x, exec (.hiddenHeat t l) s = .next (s.after x) ∧ x.alertPin = true ∧
      zoneOf x (8 + t) = { z with hidden := true, hiddenOk := 0 } ∧ getF x thmPg THM.HIDDEN_HEAT = (getF d thmPg THM.HIDDEN_HEAT + 1) % 2 ^ 64) ∧
    (z.hidden = true → exec (.hiddenHeat t l) s = .next (s.after d))) ∧
  (∀ (s : State) (k : DieId) (h : Fin 8) (v dT dP : Int) (rs : List (Option Int)), s.dev.boot.reset = false →
    let d := s.dev
    let c := thermCeil d k
    (let d1 := (List.range 1680).foldl (fun d n => if (sensor d n).failed = true then d else takeReading n (rs.getD n none) d) d
     let d2 := (List.range 8).foldl (fun d k => (List.range 8).foldl (fun d h => checkTwins k h d) d) d1
     let d3 := (List.range 40).foldl (fun d z => cycleStep z d) ((List.range 41).foldl (fun d z => showZone z d) d2)
     let d4 := (List.range 32).foldl (fun d t => towerResponse t d) ((List.range 8).foldl (fun d k => dieResponse k d) d3)
     exec (.sensorConversion rs) s = .next (s.after (riseCheck (opticalResponse d4)))) ∧
    (∀ n x, (sensor (takeReading n (some x) d) n).val = x ∧ takeReading n none d = d) ∧
    (1520 ≤ zoneTemp d k → c ≠ 0 → exec (.thermalCeilStep k) s = .next (s.after (setThermCeil k (min 7 (c + 1)) d))) ∧
    (zoneTemp d k < 1520 ∨ c = 0 → exec (.thermalCeilStep k) s = .next (s.after d)) ∧
    (zoneTemp d k < 1472 → c ≠ 0 → exec (.thermalCeilRelease k) s = .next (s.after
      (setThermCeil k (c - 1) d))) ∧
    (1840 ≤ v → getF d thmPg THM.THM_STAT_TRIPPED ≠ 1 → exec (.hardwareTrip k h v) s = .next (s.after
      (bark (tripCause 1 k (count (setF (stopAll { d with thermtrip := true }).1 thmPg THM.THM_STAT_TRIPPED 1) thmPg THM.TRIPS 1))
        0x1602 tripPg k 3 none none ([BitVec.ofNat 8 k, BitVec.ofNat 8 h] ++ leBytes 2 (v % 65536).toNat)))) ∧
    (v < 1840 ∨ getF d thmPg THM.THM_STAT_TRIPPED = 1 → exec (.hardwareTrip k h v) s = .next (s.after d)) ∧
    (absI dP < 40 → exec (.heatPathSample k dT dP) s = .next (s.after d)) ∧
    (40 ≤ absI dP → ∃ x, exec (.heatPathSample k dT dP) s = .next (s.after (coolantCheck x)) ∧
      (quad x k).heat = (dT * 1000 / (16 * dP) :: (quad d k).heat).take 16))

/-! ## Wear and the life log (chapter 15) -/

/-- Leaks, scrubs and the log: a leak lowers every bucket by one; each corrected word counts in its bucket, an uncorrectable one is
barked and lost; a scrub block and a pass go on; the summary of 60 s adds its eight records (R413 to R418, R420, R425). -/
def Obligations.WearAndLogAct : Prop :=
  ∀ (s : State) (t : TowerId) (st : SramStore) (w : BitVec 32) (ws : List (BitVec 32)) (ms : List (BitVec 3)), s.dev.boot.reset = false →
    let d := s.dev
    let c := scrub d t
    let e := entry d t c.page
    (∃ x, exec .bucketLeak s = .next (s.after x) ∧ ∀ i, i < 40 →
      getF x eccPg (ECC.ECC_BUCKET_LEVEL.at i) = getF d eccPg (ECC.ECC_BUCKET_LEVEL.at i) - 1) ∧
    ((∀ r n, st ≠ .slice r n) → exec (.sramScrub st ws false) s = .next (s.after (ws.foldl (fun d _ => bucketAdd d (sramUnit st).2.2) d))) ∧
    (∃ code, exec (.sramScrub st [w] true) s = .next (s.after (sramLost st w.toNat
      (bark (count d eccPg ECC.UNCORR_SRAM 1) 0x0F02 eccPg (sramUnit st).2.1 2 none (some stUncorr)
        ([code] ++ leBytes 2 (sramUnit st).1 ++ [0] ++ leBytes 4 w.toNat))))) ∧
    (∃ x, exec (.sramScrub st ws true) s = .next (s.after x)) ∧
    ((tower d t).hold = false → getF d (rgnPg t) RGN.RGN_STAT_STATE = 1 → c.running = false →
      exec (.scrubPass t ms) s = .next (s.after (setScrub d t
        { Scrub.init with running := true, start := mget 0 d.ticks (regionDie t), last := c.last }))) ∧
    (∀ x, c.running = true → 0 < c.block → c.block < 1023 → c.page < Config.pages d.kind → scrubVisits d t c.page = true →
      scrubNow d t (frameCol (meFrame e)) = true → reworkBlock d t c.page c.block true = (x, true) →
      exec (.scrubBlock t) s = .next (s.after (setScrub
        (if eBit d t (meFrame e) c.block = true then count x (scrbPg t) SCRB.BLOCKS 1 else x) t { c with block := c.block + 1 }))) ∧
    (c.running = true → c.behind = false → exec (.scrubBehind t) s = .next (s.after
      (bark (setScrub d t { c with behind := true }) 0x2801 (scrbPg t) (regionDie t) 1 none none ([BitVec.ofNat 8 t] ++ leBytes 2 c.page)))) ∧
    (bootPhase d = 9 → d.log.length + 8 ≤ logCap → ∃ x, exec .lifeSummary s = .next (s.after x) ∧
      (∃ rs, x.log = d.log ++ rs ∧ rs.length = 8) ∧ x.towers = d.towers ∧ x.cores = d.cores) ∧
    (∀ (a : List Int) (b n : List (BitVec 8)), bootPhase d = 9 → ∃ x, exec (.ageingSample a b n) s = .next (s.after x) ∧
      ∀ i, 1 ≤ i → i ≤ 10 → ∃ v, mget [] x.ageing.samples i = mget [] d.ageing.samples i ++ [(powered d (lead d), v)])

/-! ## Keys, receipts and energy (chapter 16) -/

/-- Receipts, roots and reports: the open batch closes; the oldest closed one is signed and joins the ring's entries; a batch that waits
is barked once; a reseed clears or raises the health alarm, and makes a metering key that waits (log entry 87); a note becomes
durable; a signed report ends with LINK where no port is up (R429, R437, R444, R456 to R458). -/
def Obligations.ReceiptsAct : Prop :=
  ∀ (s : State) (k : DieId) (health : BitVec 2), s.dev.boot.reset = false →
    let d := s.dev
    (d.batch ≠ [] → ∃ x b, exec .batchTimeout s = .next (s.after (rcptPump x)) ∧ x.batch = [] ∧ x.batches = d.batches ++ [b] ∧
      b.rootSeq = nextRoot d ∧ b.record.length = 128 ∧ x.rcptQ = d.rcptQ) ∧
    (∀ b rest, d.batches = b :: rest → canSign d true = true → b.rootSeq < 2 ^ 32 - 1 → ∃ (sig : List Byte) (x : Dev),
      exec .rootSigned s = .next (s.after (rcptPump x)) ∧ sig.length = 512 ∧ x.batches = rest ∧
      x.rcptQ = d.rcptQ ++ b.record :: sigEntries b.rootSeq sig ∧ getF x metrPg METR.METR_SEQ_ROOT_SEQ = b.rootSeq) ∧
    (∀ b rest, d.batches = b :: rest → b.warned = false → exec .closedBatchWait s = .next (s.after
      (let x := count { d with batches := { b with warned := true } :: rest } rsaPg RSA.BATCH_WAITS 1
       bark x 0x0603 rsaPg (lead x) 1 none none (leBytes 4 b.rootSeq ++ [BitVec.ofNat 8 x.batches.length])))) ∧
    (health = 0#2 → exec (.rngReseed k health) s = .next (s.after
      (let x := count (setF (setF d rngPg RNG.RNG_STAT_FAILED 0) rngPg RNG.RNG_STAT_SEEDED 1) rngPg RNG.RESEEDS 1
       if bootPhase x = 9 ∧ x.mkBanks = [] then startKeys x else x))) ∧
    (health ≠ 0#2 → exec (.rngReseed k health) s = .next (s.after
      (bark (count (setF d rngPg RNG.RNG_STAT_FAILED 1) rngPg RNG.HEALTH_FAILS 1) 0x1301 rngPg k 2 none none
        [BitVec.ofNat 8 k, if health.getLsbD 0 = true then 1 else 2]))) ∧
    (∀ v, d.note = some v → d.notes.length < noteCap → ∃ x r, exec .noteDurable s = .next (s.after x) ∧ x.note = none ∧
      x.notes = d.notes ++ [r] ∧ r.toNat % 2 ^ 64 = v.toNat ∧
      getF x lifePg LIFE.LIFE_STAT_NOTE_IDX = (getF d lifePg LIFE.LIFE_STAT_NOTE_IDX + 1) % 2 ^ 32) ∧
    (∀ bs, d.report = some bs → canSign d false = true → d.batches = [] → portUp d 0 = false → portUp d 1 = false →
      ∃ x, exec .reportSigned s = .next (s.after x) ∧ x.report = none ∧ getF x secPg SEC.ATT_STAT_BUSY = 0 ∧
        getF x secPg SEC.ATT_STAT_STATUS = stLink)

/-- A reconciliation books a rail's energy exactly: what is booked to the accounts and what stays as residue add up to what there was
(R449, R451). It completes for every reading of the regulators, and a drain that waits for one may end (R455). -/
def Obligations.EnergyIsConserved : Prop :=
  (∀ (es : List (Nat × Rat)) (b : Int), (∀ x ∈ es, 0 ≤ x.2) → (es.map (·.1)).Nodup →
    ((bookRail es b).1.map (·.2)).sum + (bookRail es b).2 = b) ∧
  (∀ (s : State) (eouts : List Eout), s.dev.boot.reset = false →
    ∃ x : Dev, exec (.reconciliation eouts) s = .next (s.after (rcptPump { x with drain := x.drain.map (fun y => { y with reconciled := true }) })))

/-! ## The sideband (chapter 17) -/

/-- The SMBus target, while PG_AUX is asserted: SET_ADDR reads the register once, counts that (log entry 88) and keeps what it read,
READ returns it, refusals and bad PECs count. The JTAG
port: each instruction loads its register; a locked port bypasses (R475 to R479).
That BYPASS captures 0 is presumed (log entry 17). -/
def Obligations.SidebandActs : Prop :=
  ∀ (s : State) (pg off : BitVec 16) (j : BitVec 12) (cells pins : BitVec 20) (sel : BitVec 4) (code : BitVec 8),
    let d := s.dev
    let load := fun (ir dr : Nat) (drive : Bool) (d : Dev) =>
      setF { d with jtag := { d.jtag with ir := ir, dr := dr, drive := drive } } jtagPg JTAG.JTAG_STAT_ACTIVE 1
    let bad := count d smbPg SMB.SMB_PEC_FAILS 1
    (getF d smbPg SMB.SMB_STAT_ADDR = 0 → ∀ ok, exec (.smbSetAddr pg off ok) s = .next (s.after d) ∧ exec (.smbRead ok) s = .next (s.after d) ∧
      exec (.smbStatus ok) s = .next (s.after d) ∧ exec .smbTimeout s = .next (s.after d)) ∧
    (getF d smbPg SMB.SMB_STAT_ADDR ≠ 0 → (∀ t, served d = true → ctlReserved pg.toNat off.toNat = false → smbShut pg.toNat off.toNat = false →
      pageTypeOf pg.toNat = some t →
      exec (.smbSetAddr pg off true) s = .next (s.after
        (count { lowerRemain pg.toNat off.toNat d with smb := some (stOk, pageValue d t pg.toNat off.toNat) } smbPg SMB.SMB_READS 1))) ∧
    (ctlReserved pg.toNat off.toNat = false → smbShut pg.toNat off.toNat = true →
      exec (.smbSetAddr pg off true) s = .next (s.after (count { d with smb := some (stMalformed, 0) } smbPg SMB.SMB_REFUSED 1))) ∧
    exec (.smbSetAddr pg off false) s = .next (s.after bad) ∧
    (∀ v, d.smb = some (stOk, v) → exec (.smbRead true) s = .next (s.after d)) ∧
    (∀ st v, d.smb = some (st, v) → st ≠ stOk → exec (.smbRead true) s = .next (s.after (count d smbPg SMB.SMB_REFUSED 1))) ∧
    (exec (.smbRead false) s = .next (s.after bad) ∧ exec (.smbStatus false) s = .next (s.after bad) ∧
      exec (.smbStatus true) s = .next (s.after d) ∧ exec .smbTimeout s = .next (s.after (count d smbPg SMB.SMB_TIMEOUTS 1)))) ∧
    (∃ x, exec (.extest cells) s = .next (s.after x) ∧ x.jtag = { d.jtag with ir := 0x00, dr := d.jtag.cells.toNat, drive := true, cells := cells }) ∧
    (∃ x, exec (.samplePreload pins cells) s = .next (s.after x) ∧
      x.jtag = { d.jtag with ir := 0x01, dr := pins.toNat, drive := false, cells := cells }) ∧
    exec .idcode s = .next (s.after (load 0x02 (idcodeWord d) false d)) ∧
    exec (.bypass code) s = .next (s.after (load code.toNat 0 false d)) ∧
    exec .trstN s = .next (s.after { d with jtag := { d.jtag with ir := 0x02, dr := idcodeWord d, drive := false } }) ∧
    (jtagLocked d = true → exec (.dieSel sel) s = .next (s.after (load 0x10 0 false d)) ∧
      exec (.jtagPageRead pg j) s = .next (s.after (load 0x11 0 false d)) ∧
      exec (.standalone true) s = .next (s.after (load 0x12 0 false d))) ∧
    (jtagLocked d = false → (∃ x, exec (.dieSel sel) s = .next (s.after x) ∧
        x.jtag = { d.jtag with ir := 0x10, dr := d.jtag.sel, drive := false, sel := sel.toNat }) ∧
      (∀ t, served d = true → ctlReserved pg.toNat j.toNat = false → pageTypeOf pg.toNat = some t →
        exec (.jtagPageRead pg j) s = .next (s.after (count (load 0x11 ((pageValue d t pg.toNat j.toNat).toNat * 2 ^ 32) false
          (lowerRemain pg.toNat j.toNat d)) jtagPg JTAG.PAGE_READS 1))) ∧
      exec (.standalone false) s = .next (s.after (load 0x12 0 false d)) ∧
      (d.jtag.sel < 8 → exec (.standalone true) s = .next (s.after (enterAlone d.jtag.sel (load 0x12 0 false d)))))
end

