-- ==== Sys2Proof/Laws/Maps.lean ====
section
/-!
SUPPORT. Sparse maps and byte memory: a read after a write, and the canonical form that every write keeps.
-/
namespace Sys2Proof.Machine

variable {α : Type}

/-! ## Reading after writing -/

theorem mget_mdel_self (d : α) (m : Map α) (k : Nat) : mget d (mdel m k) k = d := by
  induction m with
  | nil => rfl
  | cons x r ih => obtain ⟨j, v⟩ := x; by_cases h : j = k <;> simp [mdel, mget, h, ih]

theorem mget_mdel_other (d : α) (m : Map α) (k l : Nat) (h : l ≠ k) : mget d (mdel m k) l = mget d m l := by
  induction m with
  | nil => rfl
  | cons x r ih =>
    obtain ⟨j, v⟩ := x
    by_cases hj : j = k
    · subst hj; simp [mdel, mget, ih, Ne.symm h]
    · simp only [mdel, hj, if_false, mget, ih]

theorem mget_mins_self (d : α) (m : Map α) (k : Nat) (v : α) (h : ∀ x ∈ m, x.1 ≠ k) : mget d (mins m k v) k = v := by
  induction m with
  | nil => simp [mins, mget]
  | cons x r ih =>
    obtain ⟨j, w⟩ := x
    have hj : j ≠ k := h (j, w) (by simp)
    have ih := ih (fun y hy => h y (by simp [hy]))
    by_cases hk : k < j
    · simp [mins, mget, hk]
    · simp [mins, mget, hk, hj, ih]

theorem mget_mins_other (d : α) (m : Map α) (k l : Nat) (v : α) (h : l ≠ k) : mget d (mins m k v) l = mget d m l := by
  induction m with
  | nil => simp [mins, mget, Ne.symm h]
  | cons x r ih =>
    obtain ⟨j, w⟩ := x
    by_cases hk : k < j
    · simp [mins, mget, hk, Ne.symm h]
    · simp only [mins, hk, if_false, mget, ih]

theorem mdel_keys (m : Map α) (k : Nat) : ∀ x ∈ mdel m k, x.1 ≠ k := by
  induction m with
  | nil => simp [mdel]
  | cons x r ih =>
    obtain ⟨j, v⟩ := x
    by_cases h : j = k
    · simpa [mdel, h] using ih
    · intro y hy
      simp [mdel, h] at hy
      rcases hy with rfl | hy
      · exact h
      · exact ih y hy

theorem mdel_absent (m : Map α) (k : Nat) (h : ∀ x ∈ m, x.1 ≠ k) : mdel m k = m := by
  induction m with
  | nil => rfl
  | cons x r ih =>
    obtain ⟨j, v⟩ := x
    have hj : j ≠ k := h (j, v) (by simp)
    simp [mdel, hj, ih (fun y hy => h y (by simp [hy]))]

theorem mdel_mins (m : Map α) (k : Nat) (v : α) (h : ∀ x ∈ m, x.1 ≠ k) : mdel (mins m k v) k = m := by
  induction m with
  | nil => simp [mins, mdel]
  | cons x r ih =>
    obtain ⟨j, w⟩ := x
    have hj : j ≠ k := h (j, w) (by simp)
    have hr : ∀ y ∈ r, y.1 ≠ k := fun y hy => h y (by simp [hy])
    by_cases hk : k < j
    · simp [mins, mdel, hk, hj, mdel_absent r k hr]
    · simp [mins, mdel, hk, hj, ih hr]

/-- What was written is read. -/
@[simp] theorem mget_mput_self [DecidableEq α] (d : α) (m : Map α) (k : Nat) (v : α) : mget d (mput d m k v) k = v := by
  unfold mput
  split
  · next h => rw [mget_mdel_self, h]
  · exact mget_mins_self d _ k v (mdel_keys m k)

/-- Every other key reads as before. -/
theorem mget_mput_other [DecidableEq α] (d : α) (m : Map α) (k l : Nat) (v : α) (h : l ≠ k) :
    mget d (mput d m k v) l = mget d m l := by
  unfold mput
  split
  · exact mget_mdel_other d m k l h
  · rw [mget_mins_other d _ k l v h, mget_mdel_other d m k l h]

/-- Every other key reads as before, whatever default the reader and the writer take. -/
theorem mget_mput_off [DecidableEq α] (d e : α) (m : Map α) (k l : Nat) (v : α) (h : l ≠ k) :
    mget e (mput d m k v) l = mget e m l := by
  unfold mput
  split
  · exact mget_mdel_other e m k l h
  · rw [mget_mins_other e _ k l v h, mget_mdel_other e m k l h]

theorem mdel_mput [DecidableEq α] (d : α) (m : Map α) (k : Nat) (v : α) : mdel (mput d m k v) k = mdel m k := by
  unfold mput
  split
  · exact mdel_absent _ k (mdel_keys m k)
  · exact mdel_mins _ k v (mdel_keys m k)

/-- The last of two writes of one key stands. -/
@[simp] theorem mput_mput [DecidableEq α] (d : α) (m : Map α) (k : Nat) (u v : α) :
    mput d (mput d m k u) k v = mput d m k v := by
  show (if v = d then mdel (mput d m k u) k else mins (mdel (mput d m k u) k) k v) = mput d m k v
  rw [mdel_mput]
  rfl

/-- A listed key reads an entry of the map. -/
theorem mget_mem (d : α) (m : Map α) (k : Nat) : mget d m k = d ∨ (k, mget d m k) ∈ m := by
  induction m with
  | nil => exact .inl rfl
  | cons x r ih =>
    obtain ⟨j, v⟩ := x
    by_cases h : j = k
    · right; simp [mget, h]
    · rcases ih with ih | ih
      · left; simp [mget, h, ih]
      · right; simp [mget, h, ih]

/-! ## The canonical form -/

/-- The canonical form, said of every entry: no default, and keys rising. -/
def Canon (d : α) (m : Map α) : Prop := (∀ x ∈ m, x.2 ≠ d) ∧ m.Pairwise (fun x y => x.1 < y.1)

theorem mwf_iff [DecidableEq α] (d : α) (m : Map α) : mwf d m = true ↔ Canon d m := by
  induction m with
  | nil => simp [mwf, Canon]
  | cons x r ih =>
    obtain ⟨j, v⟩ := x
    cases r with
    | nil => simp [mwf, Canon]
    | cons y r =>
      obtain ⟨k, w⟩ := y
      simp only [mwf, Bool.and_eq_true, decide_eq_true_eq, ih, Canon, List.pairwise_cons, List.mem_cons, forall_eq_or_imp]
      constructor
      · rintro ⟨⟨hv, hjk⟩, ⟨hw, hd⟩, hk, hp⟩
        exact ⟨⟨hv, hw, hd⟩, ⟨hjk, fun z hz => Nat.lt_trans hjk (hk z hz)⟩, hk, hp⟩
      · rintro ⟨⟨hv, hw, hd⟩, ⟨hjk, _⟩, hk, hp⟩
        exact ⟨⟨hv, hjk⟩, ⟨hw, hd⟩, hk, hp⟩

theorem mdel_mem (m : Map α) (k : Nat) (x : Nat × α) (h : x ∈ mdel m k) : x ∈ m := by
  induction m with
  | nil => simp [mdel] at h
  | cons y r ih =>
    obtain ⟨j, v⟩ := y
    by_cases hj : j = k
    · simp [mdel, hj] at h; simp [ih h]
    · simp [mdel, hj] at h
      rcases h with rfl | h
      · simp
      · simp [ih h]

theorem mins_mem (m : Map α) (k : Nat) (v : α) (x : Nat × α) (h : x ∈ mins m k v) : x = (k, v) ∨ x ∈ m := by
  induction m with
  | nil => left; simpa [mins] using h
  | cons y r ih =>
    obtain ⟨j, w⟩ := y
    by_cases hk : k < j
    · simp only [mins, hk, if_true, List.mem_cons] at h ⊢; tauto
    · simp only [mins, hk, if_false, List.mem_cons] at h ⊢
      rcases h with rfl | h
      · simp
      · rcases ih h with h | h
        · exact .inl h
        · exact .inr (.inr h)

theorem mdel_canon (d : α) (m : Map α) (k : Nat) (h : Canon d m) : Canon d (mdel m k) := by
  refine ⟨fun x hx => h.1 x (mdel_mem m k x hx), ?_⟩
  have h2 := h.2
  clear h
  induction m with
  | nil => simp [mdel]
  | cons y r ih =>
    obtain ⟨j, v⟩ := y
    rw [List.pairwise_cons] at h2
    by_cases hj : j = k
    · simpa [mdel, hj] using ih h2.2
    · simp only [mdel, hj, if_false, List.pairwise_cons]
      exact ⟨fun x hx => h2.1 x (mdel_mem r k x hx), ih h2.2⟩

theorem mins_canon (d : α) (m : Map α) (k : Nat) (v : α) (hv : v ≠ d) (hk : ∀ x ∈ m, x.1 ≠ k) (h : Canon d m) :
    Canon d (mins m k v) := by
  constructor
  · intro x hx
    rcases mins_mem m k v x hx with rfl | hx
    · exact hv
    · exact h.1 x hx
  · have h2 := h.2
    clear h
    induction m with
    | nil => simp [mins]
    | cons y r ih =>
      obtain ⟨j, w⟩ := y
      rw [List.pairwise_cons] at h2
      have hj : j ≠ k := hk (j, w) (by simp)
      by_cases hl : k < j
      · simp only [mins, hl, if_true, List.pairwise_cons, List.mem_cons, forall_eq_or_imp]
        exact ⟨⟨trivial, fun x hx => Nat.lt_trans hl (h2.1 x hx)⟩, h2.1, h2.2⟩
      · simp only [mins, hl, if_false, List.pairwise_cons]
        refine ⟨fun x hx => ?_, ih (fun y hy => hk y (by simp [hy])) h2.2⟩
        rcases mins_mem r k v x hx with rfl | hx
        · show j < k; omega
        · exact h2.1 x hx

/-- Every write keeps the canonical form. -/
theorem mput_canon [DecidableEq α] (d : α) (m : Map α) (k : Nat) (v : α) (h : Canon d m) : Canon d (mput d m k v) := by
  unfold mput
  split
  · exact mdel_canon d m k h
  · next hv => exact mins_canon d _ k v hv (mdel_keys m k) (mdel_canon d m k h)

theorem mput_wf [DecidableEq α] (d : α) (m : Map α) (k : Nat) (v : α) (h : mwf d m = true) : mwf d (mput d m k v) = true :=
  (mwf_iff d _).2 (mput_canon d m k v ((mwf_iff d m).1 h))

/-! ## Byte memory -/

theorem setByte_wf (m : Mem) (a : Nat) (b : Byte) (h : Memory.wf m = true) : Memory.wf (setByte m a b) = true :=
  mput_wf (0 : Byte) m a b h

/-- Writing bytes keeps the canonical form. -/
theorem writeBytes_wf (m : Mem) (a : Nat) (bs : List Byte) (h : Memory.wf m = true) : Memory.wf (writeBytes m a bs) = true := by
  induction bs generalizing m a with
  | nil => exact h
  | cons b r ih => exact ih _ _ (setByte_wf m a b h)

theorem writeLe_wf (m : Mem) (a n v : Nat) (h : Memory.wf m = true) : Memory.wf (writeLe m a n v) = true :=
  writeBytes_wf m a _ h

@[simp] theorem byteAt_setByte_self (m : Mem) (a : Nat) (b : Byte) : byteAt (setByte m a b) a = b := mget_mput_self _ m a b

theorem byteAt_setByte_other (m : Mem) (a c : Nat) (b : Byte) (h : c ≠ a) : byteAt (setByte m a b) c = byteAt m c :=
  mget_mput_other _ m a c b h

/-- What bytes written at `a` leave elsewhere, and what they leave there. -/
theorem byteAt_writeBytes (m : Mem) (a c : Nat) (bs : List Byte) :
    byteAt (writeBytes m a bs) c = if a ≤ c ∧ c < a + bs.length then bs.getD (c - a) 0 else byteAt m c := by
  induction bs generalizing m a with
  | nil => rw [writeBytes, if_neg (by simp)]
  | cons b r ih =>
    rw [writeBytes, ih]
    by_cases hc : c = a
    · subst hc
      rw [if_neg (by omega), if_pos (by simp)]
      simp
    · rw [byteAt_setByte_other m a c b hc]
      by_cases h1 : a + 1 ≤ c ∧ c < a + 1 + r.length
      · have h2 : a ≤ c ∧ c < a + (b :: r).length := by simp; omega
        have h3 : c - a = (c - (a + 1)) + 1 := by omega
        rw [if_pos h1, if_pos h2, h3]
        simp [List.getD]
      · have h2 : ¬ (a ≤ c ∧ c < a + (b :: r).length) := by simp; omega
        rw [if_neg h1, if_neg h2]

end Sys2Proof.Machine
end

