-- ==== Sys2Proof/Laws/State.lean ====
section
/-!
SUPPORT. What each update of the device leaves unchanged: one lemma per update and field, true by definition.
-/
namespace Sys2Proof.Machine

variable (d : Dev)

/-! ## setReg -/

@[simp] theorem setReg_kind (pg off : Nat) (v : Word64) : (setReg d pg off v).kind = d.kind := rfl
@[simp] theorem setReg_guards (pg off : Nat) (v : Word64) : (setReg d pg off v).guards = d.guards := rfl
@[simp] theorem setReg_cores (pg off : Nat) (v : Word64) : (setReg d pg off v).cores = d.cores := rfl
@[simp] theorem setReg_spares (pg off : Nat) (v : Word64) : (setReg d pg off v).spares = d.spares := rfl
@[simp] theorem setReg_ports (pg off : Nat) (v : Word64) : (setReg d pg off v).ports = d.ports := rfl
@[simp] theorem setReg_slices (pg off : Nat) (v : Word64) : (setReg d pg off v).slices = d.slices := rfl
@[simp] theorem setReg_badSlice (pg off : Nat) (v : Word64) : (setReg d pg off v).badSlice = d.badSlice := rfl
@[simp] theorem setReg_rings (pg off : Nat) (v : Word64) : (setReg d pg off v).rings = d.rings := rfl
@[simp] theorem setReg_wmsgs (pg off : Nat) (v : Word64) : (setReg d pg off v).wmsgs = d.wmsgs := rfl
@[simp] theorem setReg_wseq (pg off : Nat) (v : Word64) : (setReg d pg off v).wseq = d.wseq := rfl
@[simp] theorem setReg_towers (pg off : Nat) (v : Word64) : (setReg d pg off v).towers = d.towers := rfl
@[simp] theorem setReg_links (pg off : Nat) (v : Word64) : (setReg d pg off v).links = d.links := rfl
@[simp] theorem setReg_chans (pg off : Nat) (v : Word64) : (setReg d pg off v).chans = d.chans := rfl
@[simp] theorem setReg_bundles (pg off : Nat) (v : Word64) : (setReg d pg off v).bundles = d.bundles := rfl
@[simp] theorem setReg_evt (pg off : Nat) (v : Word64) : (setReg d pg off v).evt = d.evt := rfl
@[simp] theorem setReg_events (pg off : Nat) (v : Word64) : (setReg d pg off v).events = d.events := rfl
@[simp] theorem setReg_freeN (pg off : Nat) (v : Word64) : (setReg d pg off v).freeN = d.freeN := rfl
@[simp] theorem setReg_estSnap (pg off : Nat) (v : Word64) : (setReg d pg off v).estSnap = d.estSnap := rfl
@[simp] theorem setReg_direct (pg off : Nat) (v : Word64) : (setReg d pg off v).direct = d.direct := rfl
@[simp] theorem setReg_kenl (pg off : Nat) (v : Word64) : (setReg d pg off v).kenl = d.kenl := rfl
@[simp] theorem setReg_fieldFuse (pg off : Nat) (v : Word64) : (setReg d pg off v).fieldFuse = d.fieldFuse := rfl
@[simp] theorem setReg_log (pg off : Nat) (v : Word64) : (setReg d pg off v).log = d.log := rfl
@[simp] theorem setReg_saved (pg off : Nat) (v : Word64) : (setReg d pg off v).saved = d.saved := rfl
@[simp] theorem setReg_fuseMaps (pg off : Nat) (v : Word64) : (setReg d pg off v).fuseMaps = d.fuseMaps := rfl
@[simp] theorem setReg_sens (pg off : Nat) (v : Word64) : (setReg d pg off v).sens = d.sens := rfl
@[simp] theorem setReg_narta (pg off : Nat) (v : Word64) : (setReg d pg off v).narta = d.narta := rfl
@[simp] theorem setReg_failover (pg off : Nat) (v : Word64) : (setReg d pg off v).failover = d.failover := rfl
@[simp] theorem setReg_heldTlps (pg off : Nat) (v : Word64) : (setReg d pg off v).heldTlps = d.heldTlps := rfl
@[simp] theorem setReg_change (pg off : Nat) (v : Word64) : (setReg d pg off v).change = d.change := rfl
@[simp] theorem setReg_changeTlps (pg off : Nat) (v : Word64) : (setReg d pg off v).changeTlps = d.changeTlps := rfl
@[simp] theorem setReg_jobs (pg off : Nat) (v : Word64) : (setReg d pg off v).jobs = d.jobs := rfl
@[simp] theorem setReg_nextJob (pg off : Nat) (v : Word64) : (setReg d pg off v).nextJob = d.nextJob := rfl
@[simp] theorem setReg_plans (pg off : Nat) (v : Word64) : (setReg d pg off v).plans = d.plans := rfl
@[simp] theorem setReg_rqs (pg off : Nat) (v : Word64) : (setReg d pg off v).rqs = d.rqs := rfl
@[simp] theorem setReg_items (pg off : Nat) (v : Word64) : (setReg d pg off v).items = d.items := rfl
@[simp] theorem setReg_nextItem (pg off : Nat) (v : Word64) : (setReg d pg off v).nextItem = d.nextItem := rfl
@[simp] theorem setReg_hk (pg off : Nat) (v : Word64) : (setReg d pg off v).hk = d.hk := rfl
@[simp] theorem setReg_accts (pg off : Nat) (v : Word64) : (setReg d pg off v).accts = d.accts := rfl
@[simp] theorem setReg_period (pg off : Nat) (v : Word64) : (setReg d pg off v).period = d.period := rfl
@[simp] theorem setReg_series (pg off : Nat) (v : Word64) : (setReg d pg off v).series = d.series := rfl
@[simp] theorem setReg_batch (pg off : Nat) (v : Word64) : (setReg d pg off v).batch = d.batch := rfl
@[simp] theorem setReg_batches (pg off : Nat) (v : Word64) : (setReg d pg off v).batches = d.batches := rfl
@[simp] theorem setReg_rcptQ (pg off : Nat) (v : Word64) : (setReg d pg off v).rcptQ = d.rcptQ := rfl
@[simp] theorem setReg_rcptTail (pg off : Nat) (v : Word64) : (setReg d pg off v).rcptTail = d.rcptTail := rfl
@[simp] theorem setReg_rcptPhase (pg off : Nat) (v : Word64) : (setReg d pg off v).rcptPhase = d.rcptPhase := rfl
@[simp] theorem setReg_quads (pg off : Nat) (v : Word64) : (setReg d pg off v).quads = d.quads := rfl
@[simp] theorem setReg_zones (pg off : Nat) (v : Word64) : (setReg d pg off v).zones = d.zones := rfl
@[simp] theorem setReg_heat (pg off : Nat) (v : Word64) : (setReg d pg off v).heat = d.heat := rfl
@[simp] theorem setReg_shared (pg off : Nat) (v : Word64) : (setReg d pg off v).shared = d.shared := rfl
@[simp] theorem setReg_eacc (pg off : Nat) (v : Word64) : (setReg d pg off v).eacc = d.eacc := rfl
@[simp] theorem setReg_gapEst (pg off : Nat) (v : Word64) : (setReg d pg off v).gapEst = d.gapEst := rfl
@[simp] theorem setReg_gapN (pg off : Nat) (v : Word64) : (setReg d pg off v).gapN = d.gapN := rfl
@[simp] theorem setReg_resid (pg off : Nat) (v : Word64) : (setReg d pg off v).resid = d.resid := rfl
@[simp] theorem setReg_boot (pg off : Nat) (v : Word64) : (setReg d pg off v).boot = d.boot := rfl
@[simp] theorem setReg_drain (pg off : Nat) (v : Word64) : (setReg d pg off v).drain = d.drain := rfl
@[simp] theorem setReg_slots (pg off : Nat) (v : Word64) : (setReg d pg off v).slots = d.slots := rfl
@[simp] theorem setReg_rollback (pg off : Nat) (v : Word64) : (setReg d pg off v).rollback = d.rollback := rfl
@[simp] theorem setReg_mkBanks (pg off : Nat) (v : Word64) : (setReg d pg off v).mkBanks = d.mkBanks := rfl
@[simp] theorem setReg_report (pg off : Nat) (v : Word64) : (setReg d pg off v).report = d.report := rfl
@[simp] theorem setReg_thermtrip (pg off : Nat) (v : Word64) : (setReg d pg off v).thermtrip = d.thermtrip := rfl
@[simp] theorem setReg_alertPin (pg off : Nat) (v : Word64) : (setReg d pg off v).alertPin = d.alertPin := rfl
@[simp] theorem setReg_smb (pg off : Nat) (v : Word64) : (setReg d pg off v).smb = d.smb := rfl
@[simp] theorem setReg_jtag (pg off : Nat) (v : Word64) : (setReg d pg off v).jtag = d.jtag := rfl
@[simp] theorem setReg_ticks (pg off : Nat) (v : Word64) : (setReg d pg off v).ticks = d.ticks := rfl
@[simp] theorem setReg_notes (pg off : Nat) (v : Word64) : (setReg d pg off v).notes = d.notes := rfl
@[simp] theorem setReg_note (pg off : Nat) (v : Word64) : (setReg d pg off v).note = d.note := rfl
@[simp] theorem setReg_noteAt (pg off : Nat) (v : Word64) : (setReg d pg off v).noteAt = d.noteAt := rfl
@[simp] theorem setReg_ageing (pg off : Nat) (v : Word64) : (setReg d pg off v).ageing = d.ageing := rfl
@[simp] theorem setReg_sramBad (pg off : Nat) (v : Word64) : (setReg d pg off v).sramBad = d.sramBad := rfl
@[simp] theorem setReg_rstWait (pg off : Nat) (v : Word64) : (setReg d pg off v).rstWait = d.rstWait := rfl
@[simp] theorem setReg_lifeUj (pg off : Nat) (v : Word64) : (setReg d pg off v).lifeUj = d.lifeUj := rfl
@[simp] theorem setReg_wearBarked (pg off : Nat) (v : Word64) : (setReg d pg off v).wearBarked = d.wearBarked := rfl
@[simp] theorem setReg_erases (pg off : Nat) (v : Word64) : (setReg d pg off v).erases = d.erases := rfl

/-! ## setF -/

@[simp] theorem setF_kind (pg : Nat) (f : Fld) (v : Nat) : (setF d pg f v).kind = d.kind := rfl
@[simp] theorem setF_guards (pg : Nat) (f : Fld) (v : Nat) : (setF d pg f v).guards = d.guards := rfl
@[simp] theorem setF_cores (pg : Nat) (f : Fld) (v : Nat) : (setF d pg f v).cores = d.cores := rfl
@[simp] theorem setF_spares (pg : Nat) (f : Fld) (v : Nat) : (setF d pg f v).spares = d.spares := rfl
@[simp] theorem setF_ports (pg : Nat) (f : Fld) (v : Nat) : (setF d pg f v).ports = d.ports := rfl
@[simp] theorem setF_slices (pg : Nat) (f : Fld) (v : Nat) : (setF d pg f v).slices = d.slices := rfl
@[simp] theorem setF_badSlice (pg : Nat) (f : Fld) (v : Nat) : (setF d pg f v).badSlice = d.badSlice := rfl
@[simp] theorem setF_rings (pg : Nat) (f : Fld) (v : Nat) : (setF d pg f v).rings = d.rings := rfl
@[simp] theorem setF_wmsgs (pg : Nat) (f : Fld) (v : Nat) : (setF d pg f v).wmsgs = d.wmsgs := rfl
@[simp] theorem setF_wseq (pg : Nat) (f : Fld) (v : Nat) : (setF d pg f v).wseq = d.wseq := rfl
@[simp] theorem setF_towers (pg : Nat) (f : Fld) (v : Nat) : (setF d pg f v).towers = d.towers := rfl
@[simp] theorem setF_links (pg : Nat) (f : Fld) (v : Nat) : (setF d pg f v).links = d.links := rfl
@[simp] theorem setF_chans (pg : Nat) (f : Fld) (v : Nat) : (setF d pg f v).chans = d.chans := rfl
@[simp] theorem setF_bundles (pg : Nat) (f : Fld) (v : Nat) : (setF d pg f v).bundles = d.bundles := rfl
@[simp] theorem setF_evt (pg : Nat) (f : Fld) (v : Nat) : (setF d pg f v).evt = d.evt := rfl
@[simp] theorem setF_events (pg : Nat) (f : Fld) (v : Nat) : (setF d pg f v).events = d.events := rfl
@[simp] theorem setF_freeN (pg : Nat) (f : Fld) (v : Nat) : (setF d pg f v).freeN = d.freeN := rfl
@[simp] theorem setF_estSnap (pg : Nat) (f : Fld) (v : Nat) : (setF d pg f v).estSnap = d.estSnap := rfl
@[simp] theorem setF_direct (pg : Nat) (f : Fld) (v : Nat) : (setF d pg f v).direct = d.direct := rfl
@[simp] theorem setF_kenl (pg : Nat) (f : Fld) (v : Nat) : (setF d pg f v).kenl = d.kenl := rfl
@[simp] theorem setF_fieldFuse (pg : Nat) (f : Fld) (v : Nat) : (setF d pg f v).fieldFuse = d.fieldFuse := rfl
@[simp] theorem setF_log (pg : Nat) (f : Fld) (v : Nat) : (setF d pg f v).log = d.log := rfl
@[simp] theorem setF_saved (pg : Nat) (f : Fld) (v : Nat) : (setF d pg f v).saved = d.saved := rfl
@[simp] theorem setF_fuseMaps (pg : Nat) (f : Fld) (v : Nat) : (setF d pg f v).fuseMaps = d.fuseMaps := rfl
@[simp] theorem setF_sens (pg : Nat) (f : Fld) (v : Nat) : (setF d pg f v).sens = d.sens := rfl
@[simp] theorem setF_narta (pg : Nat) (f : Fld) (v : Nat) : (setF d pg f v).narta = d.narta := rfl
@[simp] theorem setF_failover (pg : Nat) (f : Fld) (v : Nat) : (setF d pg f v).failover = d.failover := rfl
@[simp] theorem setF_heldTlps (pg : Nat) (f : Fld) (v : Nat) : (setF d pg f v).heldTlps = d.heldTlps := rfl
@[simp] theorem setF_change (pg : Nat) (f : Fld) (v : Nat) : (setF d pg f v).change = d.change := rfl
@[simp] theorem setF_changeTlps (pg : Nat) (f : Fld) (v : Nat) : (setF d pg f v).changeTlps = d.changeTlps := rfl
@[simp] theorem setF_jobs (pg : Nat) (f : Fld) (v : Nat) : (setF d pg f v).jobs = d.jobs := rfl
@[simp] theorem setF_nextJob (pg : Nat) (f : Fld) (v : Nat) : (setF d pg f v).nextJob = d.nextJob := rfl
@[simp] theorem setF_plans (pg : Nat) (f : Fld) (v : Nat) : (setF d pg f v).plans = d.plans := rfl
@[simp] theorem setF_rqs (pg : Nat) (f : Fld) (v : Nat) : (setF d pg f v).rqs = d.rqs := rfl
@[simp] theorem setF_items (pg : Nat) (f : Fld) (v : Nat) : (setF d pg f v).items = d.items := rfl
@[simp] theorem setF_nextItem (pg : Nat) (f : Fld) (v : Nat) : (setF d pg f v).nextItem = d.nextItem := rfl
@[simp] theorem setF_hk (pg : Nat) (f : Fld) (v : Nat) : (setF d pg f v).hk = d.hk := rfl
@[simp] theorem setF_accts (pg : Nat) (f : Fld) (v : Nat) : (setF d pg f v).accts = d.accts := rfl
@[simp] theorem setF_period (pg : Nat) (f : Fld) (v : Nat) : (setF d pg f v).period = d.period := rfl
@[simp] theorem setF_series (pg : Nat) (f : Fld) (v : Nat) : (setF d pg f v).series = d.series := rfl
@[simp] theorem setF_batch (pg : Nat) (f : Fld) (v : Nat) : (setF d pg f v).batch = d.batch := rfl
@[simp] theorem setF_batches (pg : Nat) (f : Fld) (v : Nat) : (setF d pg f v).batches = d.batches := rfl
@[simp] theorem setF_rcptQ (pg : Nat) (f : Fld) (v : Nat) : (setF d pg f v).rcptQ = d.rcptQ := rfl
@[simp] theorem setF_rcptTail (pg : Nat) (f : Fld) (v : Nat) : (setF d pg f v).rcptTail = d.rcptTail := rfl
@[simp] theorem setF_rcptPhase (pg : Nat) (f : Fld) (v : Nat) : (setF d pg f v).rcptPhase = d.rcptPhase := rfl
@[simp] theorem setF_quads (pg : Nat) (f : Fld) (v : Nat) : (setF d pg f v).quads = d.quads := rfl
@[simp] theorem setF_zones (pg : Nat) (f : Fld) (v : Nat) : (setF d pg f v).zones = d.zones := rfl
@[simp] theorem setF_heat (pg : Nat) (f : Fld) (v : Nat) : (setF d pg f v).heat = d.heat := rfl
@[simp] theorem setF_shared (pg : Nat) (f : Fld) (v : Nat) : (setF d pg f v).shared = d.shared := rfl
@[simp] theorem setF_eacc (pg : Nat) (f : Fld) (v : Nat) : (setF d pg f v).eacc = d.eacc := rfl
@[simp] theorem setF_gapEst (pg : Nat) (f : Fld) (v : Nat) : (setF d pg f v).gapEst = d.gapEst := rfl
@[simp] theorem setF_gapN (pg : Nat) (f : Fld) (v : Nat) : (setF d pg f v).gapN = d.gapN := rfl
@[simp] theorem setF_resid (pg : Nat) (f : Fld) (v : Nat) : (setF d pg f v).resid = d.resid := rfl
@[simp] theorem setF_boot (pg : Nat) (f : Fld) (v : Nat) : (setF d pg f v).boot = d.boot := rfl
@[simp] theorem setF_drain (pg : Nat) (f : Fld) (v : Nat) : (setF d pg f v).drain = d.drain := rfl
@[simp] theorem setF_slots (pg : Nat) (f : Fld) (v : Nat) : (setF d pg f v).slots = d.slots := rfl
@[simp] theorem setF_rollback (pg : Nat) (f : Fld) (v : Nat) : (setF d pg f v).rollback = d.rollback := rfl
@[simp] theorem setF_mkBanks (pg : Nat) (f : Fld) (v : Nat) : (setF d pg f v).mkBanks = d.mkBanks := rfl
@[simp] theorem setF_report (pg : Nat) (f : Fld) (v : Nat) : (setF d pg f v).report = d.report := rfl
@[simp] theorem setF_thermtrip (pg : Nat) (f : Fld) (v : Nat) : (setF d pg f v).thermtrip = d.thermtrip := rfl
@[simp] theorem setF_alertPin (pg : Nat) (f : Fld) (v : Nat) : (setF d pg f v).alertPin = d.alertPin := rfl
@[simp] theorem setF_smb (pg : Nat) (f : Fld) (v : Nat) : (setF d pg f v).smb = d.smb := rfl
@[simp] theorem setF_jtag (pg : Nat) (f : Fld) (v : Nat) : (setF d pg f v).jtag = d.jtag := rfl
@[simp] theorem setF_ticks (pg : Nat) (f : Fld) (v : Nat) : (setF d pg f v).ticks = d.ticks := rfl
@[simp] theorem setF_notes (pg : Nat) (f : Fld) (v : Nat) : (setF d pg f v).notes = d.notes := rfl
@[simp] theorem setF_note (pg : Nat) (f : Fld) (v : Nat) : (setF d pg f v).note = d.note := rfl
@[simp] theorem setF_noteAt (pg : Nat) (f : Fld) (v : Nat) : (setF d pg f v).noteAt = d.noteAt := rfl
@[simp] theorem setF_ageing (pg : Nat) (f : Fld) (v : Nat) : (setF d pg f v).ageing = d.ageing := rfl
@[simp] theorem setF_sramBad (pg : Nat) (f : Fld) (v : Nat) : (setF d pg f v).sramBad = d.sramBad := rfl
@[simp] theorem setF_rstWait (pg : Nat) (f : Fld) (v : Nat) : (setF d pg f v).rstWait = d.rstWait := rfl
@[simp] theorem setF_lifeUj (pg : Nat) (f : Fld) (v : Nat) : (setF d pg f v).lifeUj = d.lifeUj := rfl
@[simp] theorem setF_wearBarked (pg : Nat) (f : Fld) (v : Nat) : (setF d pg f v).wearBarked = d.wearBarked := rfl
@[simp] theorem setF_erases (pg : Nat) (f : Fld) (v : Nat) : (setF d pg f v).erases = d.erases := rfl

/-! ## count -/

@[simp] theorem count_kind (pg : Nat) (f : Fld) (v : Nat) : (count d pg f v).kind = d.kind := rfl
@[simp] theorem count_guards (pg : Nat) (f : Fld) (v : Nat) : (count d pg f v).guards = d.guards := rfl
@[simp] theorem count_cores (pg : Nat) (f : Fld) (v : Nat) : (count d pg f v).cores = d.cores := rfl
@[simp] theorem count_spares (pg : Nat) (f : Fld) (v : Nat) : (count d pg f v).spares = d.spares := rfl
@[simp] theorem count_ports (pg : Nat) (f : Fld) (v : Nat) : (count d pg f v).ports = d.ports := rfl
@[simp] theorem count_slices (pg : Nat) (f : Fld) (v : Nat) : (count d pg f v).slices = d.slices := rfl
@[simp] theorem count_badSlice (pg : Nat) (f : Fld) (v : Nat) : (count d pg f v).badSlice = d.badSlice := rfl
@[simp] theorem count_rings (pg : Nat) (f : Fld) (v : Nat) : (count d pg f v).rings = d.rings := rfl
@[simp] theorem count_wmsgs (pg : Nat) (f : Fld) (v : Nat) : (count d pg f v).wmsgs = d.wmsgs := rfl
@[simp] theorem count_wseq (pg : Nat) (f : Fld) (v : Nat) : (count d pg f v).wseq = d.wseq := rfl
@[simp] theorem count_towers (pg : Nat) (f : Fld) (v : Nat) : (count d pg f v).towers = d.towers := rfl
@[simp] theorem count_links (pg : Nat) (f : Fld) (v : Nat) : (count d pg f v).links = d.links := rfl
@[simp] theorem count_chans (pg : Nat) (f : Fld) (v : Nat) : (count d pg f v).chans = d.chans := rfl
@[simp] theorem count_bundles (pg : Nat) (f : Fld) (v : Nat) : (count d pg f v).bundles = d.bundles := rfl
@[simp] theorem count_evt (pg : Nat) (f : Fld) (v : Nat) : (count d pg f v).evt = d.evt := rfl
@[simp] theorem count_events (pg : Nat) (f : Fld) (v : Nat) : (count d pg f v).events = d.events := rfl
@[simp] theorem count_freeN (pg : Nat) (f : Fld) (v : Nat) : (count d pg f v).freeN = d.freeN := rfl
@[simp] theorem count_estSnap (pg : Nat) (f : Fld) (v : Nat) : (count d pg f v).estSnap = d.estSnap := rfl
@[simp] theorem count_direct (pg : Nat) (f : Fld) (v : Nat) : (count d pg f v).direct = d.direct := rfl
@[simp] theorem count_kenl (pg : Nat) (f : Fld) (v : Nat) : (count d pg f v).kenl = d.kenl := rfl
@[simp] theorem count_fieldFuse (pg : Nat) (f : Fld) (v : Nat) : (count d pg f v).fieldFuse = d.fieldFuse := rfl
@[simp] theorem count_log (pg : Nat) (f : Fld) (v : Nat) : (count d pg f v).log = d.log := rfl
@[simp] theorem count_saved (pg : Nat) (f : Fld) (v : Nat) : (count d pg f v).saved = d.saved := rfl
@[simp] theorem count_fuseMaps (pg : Nat) (f : Fld) (v : Nat) : (count d pg f v).fuseMaps = d.fuseMaps := rfl
@[simp] theorem count_sens (pg : Nat) (f : Fld) (v : Nat) : (count d pg f v).sens = d.sens := rfl
@[simp] theorem count_narta (pg : Nat) (f : Fld) (v : Nat) : (count d pg f v).narta = d.narta := rfl
@[simp] theorem count_failover (pg : Nat) (f : Fld) (v : Nat) : (count d pg f v).failover = d.failover := rfl
@[simp] theorem count_heldTlps (pg : Nat) (f : Fld) (v : Nat) : (count d pg f v).heldTlps = d.heldTlps := rfl
@[simp] theorem count_change (pg : Nat) (f : Fld) (v : Nat) : (count d pg f v).change = d.change := rfl
@[simp] theorem count_changeTlps (pg : Nat) (f : Fld) (v : Nat) : (count d pg f v).changeTlps = d.changeTlps := rfl
@[simp] theorem count_jobs (pg : Nat) (f : Fld) (v : Nat) : (count d pg f v).jobs = d.jobs := rfl
@[simp] theorem count_nextJob (pg : Nat) (f : Fld) (v : Nat) : (count d pg f v).nextJob = d.nextJob := rfl
@[simp] theorem count_plans (pg : Nat) (f : Fld) (v : Nat) : (count d pg f v).plans = d.plans := rfl
@[simp] theorem count_rqs (pg : Nat) (f : Fld) (v : Nat) : (count d pg f v).rqs = d.rqs := rfl
@[simp] theorem count_items (pg : Nat) (f : Fld) (v : Nat) : (count d pg f v).items = d.items := rfl
@[simp] theorem count_nextItem (pg : Nat) (f : Fld) (v : Nat) : (count d pg f v).nextItem = d.nextItem := rfl
@[simp] theorem count_hk (pg : Nat) (f : Fld) (v : Nat) : (count d pg f v).hk = d.hk := rfl
@[simp] theorem count_accts (pg : Nat) (f : Fld) (v : Nat) : (count d pg f v).accts = d.accts := rfl
@[simp] theorem count_period (pg : Nat) (f : Fld) (v : Nat) : (count d pg f v).period = d.period := rfl
@[simp] theorem count_series (pg : Nat) (f : Fld) (v : Nat) : (count d pg f v).series = d.series := rfl
@[simp] theorem count_batch (pg : Nat) (f : Fld) (v : Nat) : (count d pg f v).batch = d.batch := rfl
@[simp] theorem count_batches (pg : Nat) (f : Fld) (v : Nat) : (count d pg f v).batches = d.batches := rfl
@[simp] theorem count_rcptQ (pg : Nat) (f : Fld) (v : Nat) : (count d pg f v).rcptQ = d.rcptQ := rfl
@[simp] theorem count_rcptTail (pg : Nat) (f : Fld) (v : Nat) : (count d pg f v).rcptTail = d.rcptTail := rfl
@[simp] theorem count_rcptPhase (pg : Nat) (f : Fld) (v : Nat) : (count d pg f v).rcptPhase = d.rcptPhase := rfl
@[simp] theorem count_quads (pg : Nat) (f : Fld) (v : Nat) : (count d pg f v).quads = d.quads := rfl
@[simp] theorem count_zones (pg : Nat) (f : Fld) (v : Nat) : (count d pg f v).zones = d.zones := rfl
@[simp] theorem count_heat (pg : Nat) (f : Fld) (v : Nat) : (count d pg f v).heat = d.heat := rfl
@[simp] theorem count_shared (pg : Nat) (f : Fld) (v : Nat) : (count d pg f v).shared = d.shared := rfl
@[simp] theorem count_eacc (pg : Nat) (f : Fld) (v : Nat) : (count d pg f v).eacc = d.eacc := rfl
@[simp] theorem count_gapEst (pg : Nat) (f : Fld) (v : Nat) : (count d pg f v).gapEst = d.gapEst := rfl
@[simp] theorem count_gapN (pg : Nat) (f : Fld) (v : Nat) : (count d pg f v).gapN = d.gapN := rfl
@[simp] theorem count_resid (pg : Nat) (f : Fld) (v : Nat) : (count d pg f v).resid = d.resid := rfl
@[simp] theorem count_boot (pg : Nat) (f : Fld) (v : Nat) : (count d pg f v).boot = d.boot := rfl
@[simp] theorem count_drain (pg : Nat) (f : Fld) (v : Nat) : (count d pg f v).drain = d.drain := rfl
@[simp] theorem count_slots (pg : Nat) (f : Fld) (v : Nat) : (count d pg f v).slots = d.slots := rfl
@[simp] theorem count_rollback (pg : Nat) (f : Fld) (v : Nat) : (count d pg f v).rollback = d.rollback := rfl
@[simp] theorem count_mkBanks (pg : Nat) (f : Fld) (v : Nat) : (count d pg f v).mkBanks = d.mkBanks := rfl
@[simp] theorem count_report (pg : Nat) (f : Fld) (v : Nat) : (count d pg f v).report = d.report := rfl
@[simp] theorem count_thermtrip (pg : Nat) (f : Fld) (v : Nat) : (count d pg f v).thermtrip = d.thermtrip := rfl
@[simp] theorem count_alertPin (pg : Nat) (f : Fld) (v : Nat) : (count d pg f v).alertPin = d.alertPin := rfl
@[simp] theorem count_smb (pg : Nat) (f : Fld) (v : Nat) : (count d pg f v).smb = d.smb := rfl
@[simp] theorem count_jtag (pg : Nat) (f : Fld) (v : Nat) : (count d pg f v).jtag = d.jtag := rfl
@[simp] theorem count_ticks (pg : Nat) (f : Fld) (v : Nat) : (count d pg f v).ticks = d.ticks := rfl
@[simp] theorem count_notes (pg : Nat) (f : Fld) (v : Nat) : (count d pg f v).notes = d.notes := rfl
@[simp] theorem count_note (pg : Nat) (f : Fld) (v : Nat) : (count d pg f v).note = d.note := rfl
@[simp] theorem count_noteAt (pg : Nat) (f : Fld) (v : Nat) : (count d pg f v).noteAt = d.noteAt := rfl
@[simp] theorem count_ageing (pg : Nat) (f : Fld) (v : Nat) : (count d pg f v).ageing = d.ageing := rfl
@[simp] theorem count_sramBad (pg : Nat) (f : Fld) (v : Nat) : (count d pg f v).sramBad = d.sramBad := rfl
@[simp] theorem count_rstWait (pg : Nat) (f : Fld) (v : Nat) : (count d pg f v).rstWait = d.rstWait := rfl
@[simp] theorem count_lifeUj (pg : Nat) (f : Fld) (v : Nat) : (count d pg f v).lifeUj = d.lifeUj := rfl
@[simp] theorem count_wearBarked (pg : Nat) (f : Fld) (v : Nat) : (count d pg f v).wearBarked = d.wearBarked := rfl
@[simp] theorem count_erases (pg : Nat) (f : Fld) (v : Nat) : (count d pg f v).erases = d.erases := rfl

/-! ## setCore -/

@[simp] theorem setCore_kind (n : Nat) (c : Core) : (setCore d n c).kind = d.kind := rfl
@[simp] theorem setCore_regs (n : Nat) (c : Core) : (setCore d n c).regs = d.regs := rfl
@[simp] theorem setCore_guards (n : Nat) (c : Core) : (setCore d n c).guards = d.guards := rfl
@[simp] theorem setCore_spares (n : Nat) (c : Core) : (setCore d n c).spares = d.spares := rfl
@[simp] theorem setCore_ports (n : Nat) (c : Core) : (setCore d n c).ports = d.ports := rfl
@[simp] theorem setCore_slices (n : Nat) (c : Core) : (setCore d n c).slices = d.slices := rfl
@[simp] theorem setCore_badSlice (n : Nat) (c : Core) : (setCore d n c).badSlice = d.badSlice := rfl
@[simp] theorem setCore_rings (n : Nat) (c : Core) : (setCore d n c).rings = d.rings := rfl
@[simp] theorem setCore_wmsgs (n : Nat) (c : Core) : (setCore d n c).wmsgs = d.wmsgs := rfl
@[simp] theorem setCore_wseq (n : Nat) (c : Core) : (setCore d n c).wseq = d.wseq := rfl
@[simp] theorem setCore_towers (n : Nat) (c : Core) : (setCore d n c).towers = d.towers := rfl
@[simp] theorem setCore_links (n : Nat) (c : Core) : (setCore d n c).links = d.links := rfl
@[simp] theorem setCore_chans (n : Nat) (c : Core) : (setCore d n c).chans = d.chans := rfl
@[simp] theorem setCore_bundles (n : Nat) (c : Core) : (setCore d n c).bundles = d.bundles := rfl
@[simp] theorem setCore_evt (n : Nat) (c : Core) : (setCore d n c).evt = d.evt := rfl
@[simp] theorem setCore_events (n : Nat) (c : Core) : (setCore d n c).events = d.events := rfl
@[simp] theorem setCore_freeN (n : Nat) (c : Core) : (setCore d n c).freeN = d.freeN := rfl
@[simp] theorem setCore_estSnap (n : Nat) (c : Core) : (setCore d n c).estSnap = d.estSnap := rfl
@[simp] theorem setCore_direct (n : Nat) (c : Core) : (setCore d n c).direct = d.direct := rfl
@[simp] theorem setCore_kenl (n : Nat) (c : Core) : (setCore d n c).kenl = d.kenl := rfl
@[simp] theorem setCore_fieldFuse (n : Nat) (c : Core) : (setCore d n c).fieldFuse = d.fieldFuse := rfl
@[simp] theorem setCore_log (n : Nat) (c : Core) : (setCore d n c).log = d.log := rfl
@[simp] theorem setCore_saved (n : Nat) (c : Core) : (setCore d n c).saved = d.saved := rfl
@[simp] theorem setCore_fuseMaps (n : Nat) (c : Core) : (setCore d n c).fuseMaps = d.fuseMaps := rfl
@[simp] theorem setCore_sens (n : Nat) (c : Core) : (setCore d n c).sens = d.sens := rfl
@[simp] theorem setCore_narta (n : Nat) (c : Core) : (setCore d n c).narta = d.narta := rfl
@[simp] theorem setCore_failover (n : Nat) (c : Core) : (setCore d n c).failover = d.failover := rfl
@[simp] theorem setCore_heldTlps (n : Nat) (c : Core) : (setCore d n c).heldTlps = d.heldTlps := rfl
@[simp] theorem setCore_change (n : Nat) (c : Core) : (setCore d n c).change = d.change := rfl
@[simp] theorem setCore_changeTlps (n : Nat) (c : Core) : (setCore d n c).changeTlps = d.changeTlps := rfl
@[simp] theorem setCore_jobs (n : Nat) (c : Core) : (setCore d n c).jobs = d.jobs := rfl
@[simp] theorem setCore_nextJob (n : Nat) (c : Core) : (setCore d n c).nextJob = d.nextJob := rfl
@[simp] theorem setCore_plans (n : Nat) (c : Core) : (setCore d n c).plans = d.plans := rfl
@[simp] theorem setCore_rqs (n : Nat) (c : Core) : (setCore d n c).rqs = d.rqs := rfl
@[simp] theorem setCore_items (n : Nat) (c : Core) : (setCore d n c).items = d.items := rfl
@[simp] theorem setCore_nextItem (n : Nat) (c : Core) : (setCore d n c).nextItem = d.nextItem := rfl
@[simp] theorem setCore_hk (n : Nat) (c : Core) : (setCore d n c).hk = d.hk := rfl
@[simp] theorem setCore_accts (n : Nat) (c : Core) : (setCore d n c).accts = d.accts := rfl
@[simp] theorem setCore_period (n : Nat) (c : Core) : (setCore d n c).period = d.period := rfl
@[simp] theorem setCore_series (n : Nat) (c : Core) : (setCore d n c).series = d.series := rfl
@[simp] theorem setCore_batch (n : Nat) (c : Core) : (setCore d n c).batch = d.batch := rfl
@[simp] theorem setCore_batches (n : Nat) (c : Core) : (setCore d n c).batches = d.batches := rfl
@[simp] theorem setCore_rcptQ (n : Nat) (c : Core) : (setCore d n c).rcptQ = d.rcptQ := rfl
@[simp] theorem setCore_rcptTail (n : Nat) (c : Core) : (setCore d n c).rcptTail = d.rcptTail := rfl
@[simp] theorem setCore_rcptPhase (n : Nat) (c : Core) : (setCore d n c).rcptPhase = d.rcptPhase := rfl
@[simp] theorem setCore_quads (n : Nat) (c : Core) : (setCore d n c).quads = d.quads := rfl
@[simp] theorem setCore_zones (n : Nat) (c : Core) : (setCore d n c).zones = d.zones := rfl
@[simp] theorem setCore_heat (n : Nat) (c : Core) : (setCore d n c).heat = d.heat := rfl
@[simp] theorem setCore_shared (n : Nat) (c : Core) : (setCore d n c).shared = d.shared := rfl
@[simp] theorem setCore_eacc (n : Nat) (c : Core) : (setCore d n c).eacc = d.eacc := rfl
@[simp] theorem setCore_gapEst (n : Nat) (c : Core) : (setCore d n c).gapEst = d.gapEst := rfl
@[simp] theorem setCore_gapN (n : Nat) (c : Core) : (setCore d n c).gapN = d.gapN := rfl
@[simp] theorem setCore_resid (n : Nat) (c : Core) : (setCore d n c).resid = d.resid := rfl
@[simp] theorem setCore_boot (n : Nat) (c : Core) : (setCore d n c).boot = d.boot := rfl
@[simp] theorem setCore_drain (n : Nat) (c : Core) : (setCore d n c).drain = d.drain := rfl
@[simp] theorem setCore_slots (n : Nat) (c : Core) : (setCore d n c).slots = d.slots := rfl
@[simp] theorem setCore_rollback (n : Nat) (c : Core) : (setCore d n c).rollback = d.rollback := rfl
@[simp] theorem setCore_mkBanks (n : Nat) (c : Core) : (setCore d n c).mkBanks = d.mkBanks := rfl
@[simp] theorem setCore_report (n : Nat) (c : Core) : (setCore d n c).report = d.report := rfl
@[simp] theorem setCore_thermtrip (n : Nat) (c : Core) : (setCore d n c).thermtrip = d.thermtrip := rfl
@[simp] theorem setCore_alertPin (n : Nat) (c : Core) : (setCore d n c).alertPin = d.alertPin := rfl
@[simp] theorem setCore_smb (n : Nat) (c : Core) : (setCore d n c).smb = d.smb := rfl
@[simp] theorem setCore_jtag (n : Nat) (c : Core) : (setCore d n c).jtag = d.jtag := rfl
@[simp] theorem setCore_ticks (n : Nat) (c : Core) : (setCore d n c).ticks = d.ticks := rfl
@[simp] theorem setCore_notes (n : Nat) (c : Core) : (setCore d n c).notes = d.notes := rfl
@[simp] theorem setCore_note (n : Nat) (c : Core) : (setCore d n c).note = d.note := rfl
@[simp] theorem setCore_noteAt (n : Nat) (c : Core) : (setCore d n c).noteAt = d.noteAt := rfl
@[simp] theorem setCore_ageing (n : Nat) (c : Core) : (setCore d n c).ageing = d.ageing := rfl
@[simp] theorem setCore_sramBad (n : Nat) (c : Core) : (setCore d n c).sramBad = d.sramBad := rfl
@[simp] theorem setCore_rstWait (n : Nat) (c : Core) : (setCore d n c).rstWait = d.rstWait := rfl
@[simp] theorem setCore_lifeUj (n : Nat) (c : Core) : (setCore d n c).lifeUj = d.lifeUj := rfl
@[simp] theorem setCore_wearBarked (n : Nat) (c : Core) : (setCore d n c).wearBarked = d.wearBarked := rfl
@[simp] theorem setCore_erases (n : Nat) (c : Core) : (setCore d n c).erases = d.erases := rfl

/-! ## setSpare -/

@[simp] theorem setSpare_kind (k s : Nat) (c : Core) : (setSpare d k s c).kind = d.kind := rfl
@[simp] theorem setSpare_regs (k s : Nat) (c : Core) : (setSpare d k s c).regs = d.regs := rfl
@[simp] theorem setSpare_guards (k s : Nat) (c : Core) : (setSpare d k s c).guards = d.guards := rfl
@[simp] theorem setSpare_cores (k s : Nat) (c : Core) : (setSpare d k s c).cores = d.cores := rfl
@[simp] theorem setSpare_ports (k s : Nat) (c : Core) : (setSpare d k s c).ports = d.ports := rfl
@[simp] theorem setSpare_slices (k s : Nat) (c : Core) : (setSpare d k s c).slices = d.slices := rfl
@[simp] theorem setSpare_badSlice (k s : Nat) (c : Core) : (setSpare d k s c).badSlice = d.badSlice := rfl
@[simp] theorem setSpare_rings (k s : Nat) (c : Core) : (setSpare d k s c).rings = d.rings := rfl
@[simp] theorem setSpare_wmsgs (k s : Nat) (c : Core) : (setSpare d k s c).wmsgs = d.wmsgs := rfl
@[simp] theorem setSpare_wseq (k s : Nat) (c : Core) : (setSpare d k s c).wseq = d.wseq := rfl
@[simp] theorem setSpare_towers (k s : Nat) (c : Core) : (setSpare d k s c).towers = d.towers := rfl
@[simp] theorem setSpare_links (k s : Nat) (c : Core) : (setSpare d k s c).links = d.links := rfl
@[simp] theorem setSpare_chans (k s : Nat) (c : Core) : (setSpare d k s c).chans = d.chans := rfl
@[simp] theorem setSpare_bundles (k s : Nat) (c : Core) : (setSpare d k s c).bundles = d.bundles := rfl
@[simp] theorem setSpare_evt (k s : Nat) (c : Core) : (setSpare d k s c).evt = d.evt := rfl
@[simp] theorem setSpare_events (k s : Nat) (c : Core) : (setSpare d k s c).events = d.events := rfl
@[simp] theorem setSpare_freeN (k s : Nat) (c : Core) : (setSpare d k s c).freeN = d.freeN := rfl
@[simp] theorem setSpare_estSnap (k s : Nat) (c : Core) : (setSpare d k s c).estSnap = d.estSnap := rfl
@[simp] theorem setSpare_direct (k s : Nat) (c : Core) : (setSpare d k s c).direct = d.direct := rfl
@[simp] theorem setSpare_kenl (k s : Nat) (c : Core) : (setSpare d k s c).kenl = d.kenl := rfl
@[simp] theorem setSpare_fieldFuse (k s : Nat) (c : Core) : (setSpare d k s c).fieldFuse = d.fieldFuse := rfl
@[simp] theorem setSpare_log (k s : Nat) (c : Core) : (setSpare d k s c).log = d.log := rfl
@[simp] theorem setSpare_saved (k s : Nat) (c : Core) : (setSpare d k s c).saved = d.saved := rfl
@[simp] theorem setSpare_fuseMaps (k s : Nat) (c : Core) : (setSpare d k s c).fuseMaps = d.fuseMaps := rfl
@[simp] theorem setSpare_sens (k s : Nat) (c : Core) : (setSpare d k s c).sens = d.sens := rfl
@[simp] theorem setSpare_narta (k s : Nat) (c : Core) : (setSpare d k s c).narta = d.narta := rfl
@[simp] theorem setSpare_failover (k s : Nat) (c : Core) : (setSpare d k s c).failover = d.failover := rfl
@[simp] theorem setSpare_heldTlps (k s : Nat) (c : Core) : (setSpare d k s c).heldTlps = d.heldTlps := rfl
@[simp] theorem setSpare_change (k s : Nat) (c : Core) : (setSpare d k s c).change = d.change := rfl
@[simp] theorem setSpare_changeTlps (k s : Nat) (c : Core) : (setSpare d k s c).changeTlps = d.changeTlps := rfl
@[simp] theorem setSpare_jobs (k s : Nat) (c : Core) : (setSpare d k s c).jobs = d.jobs := rfl
@[simp] theorem setSpare_nextJob (k s : Nat) (c : Core) : (setSpare d k s c).nextJob = d.nextJob := rfl
@[simp] theorem setSpare_plans (k s : Nat) (c : Core) : (setSpare d k s c).plans = d.plans := rfl
@[simp] theorem setSpare_rqs (k s : Nat) (c : Core) : (setSpare d k s c).rqs = d.rqs := rfl
@[simp] theorem setSpare_items (k s : Nat) (c : Core) : (setSpare d k s c).items = d.items := rfl
@[simp] theorem setSpare_nextItem (k s : Nat) (c : Core) : (setSpare d k s c).nextItem = d.nextItem := rfl
@[simp] theorem setSpare_hk (k s : Nat) (c : Core) : (setSpare d k s c).hk = d.hk := rfl
@[simp] theorem setSpare_accts (k s : Nat) (c : Core) : (setSpare d k s c).accts = d.accts := rfl
@[simp] theorem setSpare_period (k s : Nat) (c : Core) : (setSpare d k s c).period = d.period := rfl
@[simp] theorem setSpare_series (k s : Nat) (c : Core) : (setSpare d k s c).series = d.series := rfl
@[simp] theorem setSpare_batch (k s : Nat) (c : Core) : (setSpare d k s c).batch = d.batch := rfl
@[simp] theorem setSpare_batches (k s : Nat) (c : Core) : (setSpare d k s c).batches = d.batches := rfl
@[simp] theorem setSpare_rcptQ (k s : Nat) (c : Core) : (setSpare d k s c).rcptQ = d.rcptQ := rfl
@[simp] theorem setSpare_rcptTail (k s : Nat) (c : Core) : (setSpare d k s c).rcptTail = d.rcptTail := rfl
@[simp] theorem setSpare_rcptPhase (k s : Nat) (c : Core) : (setSpare d k s c).rcptPhase = d.rcptPhase := rfl
@[simp] theorem setSpare_quads (k s : Nat) (c : Core) : (setSpare d k s c).quads = d.quads := rfl
@[simp] theorem setSpare_zones (k s : Nat) (c : Core) : (setSpare d k s c).zones = d.zones := rfl
@[simp] theorem setSpare_heat (k s : Nat) (c : Core) : (setSpare d k s c).heat = d.heat := rfl
@[simp] theorem setSpare_shared (k s : Nat) (c : Core) : (setSpare d k s c).shared = d.shared := rfl
@[simp] theorem setSpare_eacc (k s : Nat) (c : Core) : (setSpare d k s c).eacc = d.eacc := rfl
@[simp] theorem setSpare_gapEst (k s : Nat) (c : Core) : (setSpare d k s c).gapEst = d.gapEst := rfl
@[simp] theorem setSpare_gapN (k s : Nat) (c : Core) : (setSpare d k s c).gapN = d.gapN := rfl
@[simp] theorem setSpare_resid (k s : Nat) (c : Core) : (setSpare d k s c).resid = d.resid := rfl
@[simp] theorem setSpare_boot (k s : Nat) (c : Core) : (setSpare d k s c).boot = d.boot := rfl
@[simp] theorem setSpare_drain (k s : Nat) (c : Core) : (setSpare d k s c).drain = d.drain := rfl
@[simp] theorem setSpare_slots (k s : Nat) (c : Core) : (setSpare d k s c).slots = d.slots := rfl
@[simp] theorem setSpare_rollback (k s : Nat) (c : Core) : (setSpare d k s c).rollback = d.rollback := rfl
@[simp] theorem setSpare_mkBanks (k s : Nat) (c : Core) : (setSpare d k s c).mkBanks = d.mkBanks := rfl
@[simp] theorem setSpare_report (k s : Nat) (c : Core) : (setSpare d k s c).report = d.report := rfl
@[simp] theorem setSpare_thermtrip (k s : Nat) (c : Core) : (setSpare d k s c).thermtrip = d.thermtrip := rfl
@[simp] theorem setSpare_alertPin (k s : Nat) (c : Core) : (setSpare d k s c).alertPin = d.alertPin := rfl
@[simp] theorem setSpare_smb (k s : Nat) (c : Core) : (setSpare d k s c).smb = d.smb := rfl
@[simp] theorem setSpare_jtag (k s : Nat) (c : Core) : (setSpare d k s c).jtag = d.jtag := rfl
@[simp] theorem setSpare_ticks (k s : Nat) (c : Core) : (setSpare d k s c).ticks = d.ticks := rfl
@[simp] theorem setSpare_notes (k s : Nat) (c : Core) : (setSpare d k s c).notes = d.notes := rfl
@[simp] theorem setSpare_note (k s : Nat) (c : Core) : (setSpare d k s c).note = d.note := rfl
@[simp] theorem setSpare_noteAt (k s : Nat) (c : Core) : (setSpare d k s c).noteAt = d.noteAt := rfl
@[simp] theorem setSpare_ageing (k s : Nat) (c : Core) : (setSpare d k s c).ageing = d.ageing := rfl
@[simp] theorem setSpare_sramBad (k s : Nat) (c : Core) : (setSpare d k s c).sramBad = d.sramBad := rfl
@[simp] theorem setSpare_rstWait (k s : Nat) (c : Core) : (setSpare d k s c).rstWait = d.rstWait := rfl
@[simp] theorem setSpare_lifeUj (k s : Nat) (c : Core) : (setSpare d k s c).lifeUj = d.lifeUj := rfl
@[simp] theorem setSpare_wearBarked (k s : Nat) (c : Core) : (setSpare d k s c).wearBarked = d.wearBarked := rfl
@[simp] theorem setSpare_erases (k s : Nat) (c : Core) : (setSpare d k s c).erases = d.erases := rfl

/-! ## setPort -/

@[simp] theorem setPort_kind (r p : Nat) (x : Port) : (setPort d r p x).kind = d.kind := rfl
@[simp] theorem setPort_regs (r p : Nat) (x : Port) : (setPort d r p x).regs = d.regs := rfl
@[simp] theorem setPort_guards (r p : Nat) (x : Port) : (setPort d r p x).guards = d.guards := rfl
@[simp] theorem setPort_cores (r p : Nat) (x : Port) : (setPort d r p x).cores = d.cores := rfl
@[simp] theorem setPort_spares (r p : Nat) (x : Port) : (setPort d r p x).spares = d.spares := rfl
@[simp] theorem setPort_slices (r p : Nat) (x : Port) : (setPort d r p x).slices = d.slices := rfl
@[simp] theorem setPort_badSlice (r p : Nat) (x : Port) : (setPort d r p x).badSlice = d.badSlice := rfl
@[simp] theorem setPort_rings (r p : Nat) (x : Port) : (setPort d r p x).rings = d.rings := rfl
@[simp] theorem setPort_wmsgs (r p : Nat) (x : Port) : (setPort d r p x).wmsgs = d.wmsgs := rfl
@[simp] theorem setPort_wseq (r p : Nat) (x : Port) : (setPort d r p x).wseq = d.wseq := rfl
@[simp] theorem setPort_towers (r p : Nat) (x : Port) : (setPort d r p x).towers = d.towers := rfl
@[simp] theorem setPort_links (r p : Nat) (x : Port) : (setPort d r p x).links = d.links := rfl
@[simp] theorem setPort_chans (r p : Nat) (x : Port) : (setPort d r p x).chans = d.chans := rfl
@[simp] theorem setPort_bundles (r p : Nat) (x : Port) : (setPort d r p x).bundles = d.bundles := rfl
@[simp] theorem setPort_evt (r p : Nat) (x : Port) : (setPort d r p x).evt = d.evt := rfl
@[simp] theorem setPort_events (r p : Nat) (x : Port) : (setPort d r p x).events = d.events := rfl
@[simp] theorem setPort_freeN (r p : Nat) (x : Port) : (setPort d r p x).freeN = d.freeN := rfl
@[simp] theorem setPort_estSnap (r p : Nat) (x : Port) : (setPort d r p x).estSnap = d.estSnap := rfl
@[simp] theorem setPort_direct (r p : Nat) (x : Port) : (setPort d r p x).direct = d.direct := rfl
@[simp] theorem setPort_kenl (r p : Nat) (x : Port) : (setPort d r p x).kenl = d.kenl := rfl
@[simp] theorem setPort_fieldFuse (r p : Nat) (x : Port) : (setPort d r p x).fieldFuse = d.fieldFuse := rfl
@[simp] theorem setPort_log (r p : Nat) (x : Port) : (setPort d r p x).log = d.log := rfl
@[simp] theorem setPort_saved (r p : Nat) (x : Port) : (setPort d r p x).saved = d.saved := rfl
@[simp] theorem setPort_fuseMaps (r p : Nat) (x : Port) : (setPort d r p x).fuseMaps = d.fuseMaps := rfl
@[simp] theorem setPort_sens (r p : Nat) (x : Port) : (setPort d r p x).sens = d.sens := rfl
@[simp] theorem setPort_narta (r p : Nat) (x : Port) : (setPort d r p x).narta = d.narta := rfl
@[simp] theorem setPort_failover (r p : Nat) (x : Port) : (setPort d r p x).failover = d.failover := rfl
@[simp] theorem setPort_heldTlps (r p : Nat) (x : Port) : (setPort d r p x).heldTlps = d.heldTlps := rfl
@[simp] theorem setPort_change (r p : Nat) (x : Port) : (setPort d r p x).change = d.change := rfl
@[simp] theorem setPort_changeTlps (r p : Nat) (x : Port) : (setPort d r p x).changeTlps = d.changeTlps := rfl
@[simp] theorem setPort_jobs (r p : Nat) (x : Port) : (setPort d r p x).jobs = d.jobs := rfl
@[simp] theorem setPort_nextJob (r p : Nat) (x : Port) : (setPort d r p x).nextJob = d.nextJob := rfl
@[simp] theorem setPort_plans (r p : Nat) (x : Port) : (setPort d r p x).plans = d.plans := rfl
@[simp] theorem setPort_rqs (r p : Nat) (x : Port) : (setPort d r p x).rqs = d.rqs := rfl
@[simp] theorem setPort_items (r p : Nat) (x : Port) : (setPort d r p x).items = d.items := rfl
@[simp] theorem setPort_nextItem (r p : Nat) (x : Port) : (setPort d r p x).nextItem = d.nextItem := rfl
@[simp] theorem setPort_hk (r p : Nat) (x : Port) : (setPort d r p x).hk = d.hk := rfl
@[simp] theorem setPort_accts (r p : Nat) (x : Port) : (setPort d r p x).accts = d.accts := rfl
@[simp] theorem setPort_period (r p : Nat) (x : Port) : (setPort d r p x).period = d.period := rfl
@[simp] theorem setPort_series (r p : Nat) (x : Port) : (setPort d r p x).series = d.series := rfl
@[simp] theorem setPort_batch (r p : Nat) (x : Port) : (setPort d r p x).batch = d.batch := rfl
@[simp] theorem setPort_batches (r p : Nat) (x : Port) : (setPort d r p x).batches = d.batches := rfl
@[simp] theorem setPort_rcptQ (r p : Nat) (x : Port) : (setPort d r p x).rcptQ = d.rcptQ := rfl
@[simp] theorem setPort_rcptTail (r p : Nat) (x : Port) : (setPort d r p x).rcptTail = d.rcptTail := rfl
@[simp] theorem setPort_rcptPhase (r p : Nat) (x : Port) : (setPort d r p x).rcptPhase = d.rcptPhase := rfl
@[simp] theorem setPort_quads (r p : Nat) (x : Port) : (setPort d r p x).quads = d.quads := rfl
@[simp] theorem setPort_zones (r p : Nat) (x : Port) : (setPort d r p x).zones = d.zones := rfl
@[simp] theorem setPort_heat (r p : Nat) (x : Port) : (setPort d r p x).heat = d.heat := rfl
@[simp] theorem setPort_shared (r p : Nat) (x : Port) : (setPort d r p x).shared = d.shared := rfl
@[simp] theorem setPort_eacc (r p : Nat) (x : Port) : (setPort d r p x).eacc = d.eacc := rfl
@[simp] theorem setPort_gapEst (r p : Nat) (x : Port) : (setPort d r p x).gapEst = d.gapEst := rfl
@[simp] theorem setPort_gapN (r p : Nat) (x : Port) : (setPort d r p x).gapN = d.gapN := rfl
@[simp] theorem setPort_resid (r p : Nat) (x : Port) : (setPort d r p x).resid = d.resid := rfl
@[simp] theorem setPort_boot (r p : Nat) (x : Port) : (setPort d r p x).boot = d.boot := rfl
@[simp] theorem setPort_drain (r p : Nat) (x : Port) : (setPort d r p x).drain = d.drain := rfl
@[simp] theorem setPort_slots (r p : Nat) (x : Port) : (setPort d r p x).slots = d.slots := rfl
@[simp] theorem setPort_rollback (r p : Nat) (x : Port) : (setPort d r p x).rollback = d.rollback := rfl
@[simp] theorem setPort_mkBanks (r p : Nat) (x : Port) : (setPort d r p x).mkBanks = d.mkBanks := rfl
@[simp] theorem setPort_report (r p : Nat) (x : Port) : (setPort d r p x).report = d.report := rfl
@[simp] theorem setPort_thermtrip (r p : Nat) (x : Port) : (setPort d r p x).thermtrip = d.thermtrip := rfl
@[simp] theorem setPort_alertPin (r p : Nat) (x : Port) : (setPort d r p x).alertPin = d.alertPin := rfl
@[simp] theorem setPort_smb (r p : Nat) (x : Port) : (setPort d r p x).smb = d.smb := rfl
@[simp] theorem setPort_jtag (r p : Nat) (x : Port) : (setPort d r p x).jtag = d.jtag := rfl
@[simp] theorem setPort_ticks (r p : Nat) (x : Port) : (setPort d r p x).ticks = d.ticks := rfl
@[simp] theorem setPort_notes (r p : Nat) (x : Port) : (setPort d r p x).notes = d.notes := rfl
@[simp] theorem setPort_note (r p : Nat) (x : Port) : (setPort d r p x).note = d.note := rfl
@[simp] theorem setPort_noteAt (r p : Nat) (x : Port) : (setPort d r p x).noteAt = d.noteAt := rfl
@[simp] theorem setPort_ageing (r p : Nat) (x : Port) : (setPort d r p x).ageing = d.ageing := rfl
@[simp] theorem setPort_sramBad (r p : Nat) (x : Port) : (setPort d r p x).sramBad = d.sramBad := rfl
@[simp] theorem setPort_rstWait (r p : Nat) (x : Port) : (setPort d r p x).rstWait = d.rstWait := rfl
@[simp] theorem setPort_lifeUj (r p : Nat) (x : Port) : (setPort d r p x).lifeUj = d.lifeUj := rfl
@[simp] theorem setPort_wearBarked (r p : Nat) (x : Port) : (setPort d r p x).wearBarked = d.wearBarked := rfl
@[simp] theorem setPort_erases (r p : Nat) (x : Port) : (setPort d r p x).erases = d.erases := rfl

/-! ## setSlice -/

@[simp] theorem setSlice_kind (r s : Nat) (m : Mem) : (setSlice d r s m).kind = d.kind := rfl
@[simp] theorem setSlice_regs (r s : Nat) (m : Mem) : (setSlice d r s m).regs = d.regs := rfl
@[simp] theorem setSlice_guards (r s : Nat) (m : Mem) : (setSlice d r s m).guards = d.guards := rfl
@[simp] theorem setSlice_cores (r s : Nat) (m : Mem) : (setSlice d r s m).cores = d.cores := rfl
@[simp] theorem setSlice_spares (r s : Nat) (m : Mem) : (setSlice d r s m).spares = d.spares := rfl
@[simp] theorem setSlice_ports (r s : Nat) (m : Mem) : (setSlice d r s m).ports = d.ports := rfl
@[simp] theorem setSlice_badSlice (r s : Nat) (m : Mem) : (setSlice d r s m).badSlice = d.badSlice := rfl
@[simp] theorem setSlice_rings (r s : Nat) (m : Mem) : (setSlice d r s m).rings = d.rings := rfl
@[simp] theorem setSlice_wmsgs (r s : Nat) (m : Mem) : (setSlice d r s m).wmsgs = d.wmsgs := rfl
@[simp] theorem setSlice_wseq (r s : Nat) (m : Mem) : (setSlice d r s m).wseq = d.wseq := rfl
@[simp] theorem setSlice_towers (r s : Nat) (m : Mem) : (setSlice d r s m).towers = d.towers := rfl
@[simp] theorem setSlice_links (r s : Nat) (m : Mem) : (setSlice d r s m).links = d.links := rfl
@[simp] theorem setSlice_chans (r s : Nat) (m : Mem) : (setSlice d r s m).chans = d.chans := rfl
@[simp] theorem setSlice_bundles (r s : Nat) (m : Mem) : (setSlice d r s m).bundles = d.bundles := rfl
@[simp] theorem setSlice_evt (r s : Nat) (m : Mem) : (setSlice d r s m).evt = d.evt := rfl
@[simp] theorem setSlice_events (r s : Nat) (m : Mem) : (setSlice d r s m).events = d.events := rfl
@[simp] theorem setSlice_freeN (r s : Nat) (m : Mem) : (setSlice d r s m).freeN = d.freeN := rfl
@[simp] theorem setSlice_estSnap (r s : Nat) (m : Mem) : (setSlice d r s m).estSnap = d.estSnap := rfl
@[simp] theorem setSlice_direct (r s : Nat) (m : Mem) : (setSlice d r s m).direct = d.direct := rfl
@[simp] theorem setSlice_kenl (r s : Nat) (m : Mem) : (setSlice d r s m).kenl = d.kenl := rfl
@[simp] theorem setSlice_fieldFuse (r s : Nat) (m : Mem) : (setSlice d r s m).fieldFuse = d.fieldFuse := rfl
@[simp] theorem setSlice_log (r s : Nat) (m : Mem) : (setSlice d r s m).log = d.log := rfl
@[simp] theorem setSlice_saved (r s : Nat) (m : Mem) : (setSlice d r s m).saved = d.saved := rfl
@[simp] theorem setSlice_fuseMaps (r s : Nat) (m : Mem) : (setSlice d r s m).fuseMaps = d.fuseMaps := rfl
@[simp] theorem setSlice_sens (r s : Nat) (m : Mem) : (setSlice d r s m).sens = d.sens := rfl
@[simp] theorem setSlice_narta (r s : Nat) (m : Mem) : (setSlice d r s m).narta = d.narta := rfl
@[simp] theorem setSlice_failover (r s : Nat) (m : Mem) : (setSlice d r s m).failover = d.failover := rfl
@[simp] theorem setSlice_heldTlps (r s : Nat) (m : Mem) : (setSlice d r s m).heldTlps = d.heldTlps := rfl
@[simp] theorem setSlice_change (r s : Nat) (m : Mem) : (setSlice d r s m).change = d.change := rfl
@[simp] theorem setSlice_changeTlps (r s : Nat) (m : Mem) : (setSlice d r s m).changeTlps = d.changeTlps := rfl
@[simp] theorem setSlice_jobs (r s : Nat) (m : Mem) : (setSlice d r s m).jobs = d.jobs := rfl
@[simp] theorem setSlice_nextJob (r s : Nat) (m : Mem) : (setSlice d r s m).nextJob = d.nextJob := rfl
@[simp] theorem setSlice_plans (r s : Nat) (m : Mem) : (setSlice d r s m).plans = d.plans := rfl
@[simp] theorem setSlice_rqs (r s : Nat) (m : Mem) : (setSlice d r s m).rqs = d.rqs := rfl
@[simp] theorem setSlice_items (r s : Nat) (m : Mem) : (setSlice d r s m).items = d.items := rfl
@[simp] theorem setSlice_nextItem (r s : Nat) (m : Mem) : (setSlice d r s m).nextItem = d.nextItem := rfl
@[simp] theorem setSlice_hk (r s : Nat) (m : Mem) : (setSlice d r s m).hk = d.hk := rfl
@[simp] theorem setSlice_accts (r s : Nat) (m : Mem) : (setSlice d r s m).accts = d.accts := rfl
@[simp] theorem setSlice_period (r s : Nat) (m : Mem) : (setSlice d r s m).period = d.period := rfl
@[simp] theorem setSlice_series (r s : Nat) (m : Mem) : (setSlice d r s m).series = d.series := rfl
@[simp] theorem setSlice_batch (r s : Nat) (m : Mem) : (setSlice d r s m).batch = d.batch := rfl
@[simp] theorem setSlice_batches (r s : Nat) (m : Mem) : (setSlice d r s m).batches = d.batches := rfl
@[simp] theorem setSlice_rcptQ (r s : Nat) (m : Mem) : (setSlice d r s m).rcptQ = d.rcptQ := rfl
@[simp] theorem setSlice_rcptTail (r s : Nat) (m : Mem) : (setSlice d r s m).rcptTail = d.rcptTail := rfl
@[simp] theorem setSlice_rcptPhase (r s : Nat) (m : Mem) : (setSlice d r s m).rcptPhase = d.rcptPhase := rfl
@[simp] theorem setSlice_quads (r s : Nat) (m : Mem) : (setSlice d r s m).quads = d.quads := rfl
@[simp] theorem setSlice_zones (r s : Nat) (m : Mem) : (setSlice d r s m).zones = d.zones := rfl
@[simp] theorem setSlice_heat (r s : Nat) (m : Mem) : (setSlice d r s m).heat = d.heat := rfl
@[simp] theorem setSlice_shared (r s : Nat) (m : Mem) : (setSlice d r s m).shared = d.shared := rfl
@[simp] theorem setSlice_eacc (r s : Nat) (m : Mem) : (setSlice d r s m).eacc = d.eacc := rfl
@[simp] theorem setSlice_gapEst (r s : Nat) (m : Mem) : (setSlice d r s m).gapEst = d.gapEst := rfl
@[simp] theorem setSlice_gapN (r s : Nat) (m : Mem) : (setSlice d r s m).gapN = d.gapN := rfl
@[simp] theorem setSlice_resid (r s : Nat) (m : Mem) : (setSlice d r s m).resid = d.resid := rfl
@[simp] theorem setSlice_boot (r s : Nat) (m : Mem) : (setSlice d r s m).boot = d.boot := rfl
@[simp] theorem setSlice_drain (r s : Nat) (m : Mem) : (setSlice d r s m).drain = d.drain := rfl
@[simp] theorem setSlice_slots (r s : Nat) (m : Mem) : (setSlice d r s m).slots = d.slots := rfl
@[simp] theorem setSlice_rollback (r s : Nat) (m : Mem) : (setSlice d r s m).rollback = d.rollback := rfl
@[simp] theorem setSlice_mkBanks (r s : Nat) (m : Mem) : (setSlice d r s m).mkBanks = d.mkBanks := rfl
@[simp] theorem setSlice_report (r s : Nat) (m : Mem) : (setSlice d r s m).report = d.report := rfl
@[simp] theorem setSlice_thermtrip (r s : Nat) (m : Mem) : (setSlice d r s m).thermtrip = d.thermtrip := rfl
@[simp] theorem setSlice_alertPin (r s : Nat) (m : Mem) : (setSlice d r s m).alertPin = d.alertPin := rfl
@[simp] theorem setSlice_smb (r s : Nat) (m : Mem) : (setSlice d r s m).smb = d.smb := rfl
@[simp] theorem setSlice_jtag (r s : Nat) (m : Mem) : (setSlice d r s m).jtag = d.jtag := rfl
@[simp] theorem setSlice_ticks (r s : Nat) (m : Mem) : (setSlice d r s m).ticks = d.ticks := rfl
@[simp] theorem setSlice_notes (r s : Nat) (m : Mem) : (setSlice d r s m).notes = d.notes := rfl
@[simp] theorem setSlice_note (r s : Nat) (m : Mem) : (setSlice d r s m).note = d.note := rfl
@[simp] theorem setSlice_noteAt (r s : Nat) (m : Mem) : (setSlice d r s m).noteAt = d.noteAt := rfl
@[simp] theorem setSlice_ageing (r s : Nat) (m : Mem) : (setSlice d r s m).ageing = d.ageing := rfl
@[simp] theorem setSlice_sramBad (r s : Nat) (m : Mem) : (setSlice d r s m).sramBad = d.sramBad := rfl
@[simp] theorem setSlice_rstWait (r s : Nat) (m : Mem) : (setSlice d r s m).rstWait = d.rstWait := rfl
@[simp] theorem setSlice_lifeUj (r s : Nat) (m : Mem) : (setSlice d r s m).lifeUj = d.lifeUj := rfl
@[simp] theorem setSlice_wearBarked (r s : Nat) (m : Mem) : (setSlice d r s m).wearBarked = d.wearBarked := rfl
@[simp] theorem setSlice_erases (r s : Nat) (m : Mem) : (setSlice d r s m).erases = d.erases := rfl

/-! ## setRing -/

@[simp] theorem setRing_kind (w k : Nat) (x : Ring) : (setRing d w k x).kind = d.kind := rfl
@[simp] theorem setRing_regs (w k : Nat) (x : Ring) : (setRing d w k x).regs = d.regs := rfl
@[simp] theorem setRing_guards (w k : Nat) (x : Ring) : (setRing d w k x).guards = d.guards := rfl
@[simp] theorem setRing_cores (w k : Nat) (x : Ring) : (setRing d w k x).cores = d.cores := rfl
@[simp] theorem setRing_spares (w k : Nat) (x : Ring) : (setRing d w k x).spares = d.spares := rfl
@[simp] theorem setRing_ports (w k : Nat) (x : Ring) : (setRing d w k x).ports = d.ports := rfl
@[simp] theorem setRing_slices (w k : Nat) (x : Ring) : (setRing d w k x).slices = d.slices := rfl
@[simp] theorem setRing_badSlice (w k : Nat) (x : Ring) : (setRing d w k x).badSlice = d.badSlice := rfl
@[simp] theorem setRing_wmsgs (w k : Nat) (x : Ring) : (setRing d w k x).wmsgs = d.wmsgs := rfl
@[simp] theorem setRing_wseq (w k : Nat) (x : Ring) : (setRing d w k x).wseq = d.wseq := rfl
@[simp] theorem setRing_towers (w k : Nat) (x : Ring) : (setRing d w k x).towers = d.towers := rfl
@[simp] theorem setRing_links (w k : Nat) (x : Ring) : (setRing d w k x).links = d.links := rfl
@[simp] theorem setRing_chans (w k : Nat) (x : Ring) : (setRing d w k x).chans = d.chans := rfl
@[simp] theorem setRing_bundles (w k : Nat) (x : Ring) : (setRing d w k x).bundles = d.bundles := rfl
@[simp] theorem setRing_evt (w k : Nat) (x : Ring) : (setRing d w k x).evt = d.evt := rfl
@[simp] theorem setRing_events (w k : Nat) (x : Ring) : (setRing d w k x).events = d.events := rfl
@[simp] theorem setRing_freeN (w k : Nat) (x : Ring) : (setRing d w k x).freeN = d.freeN := rfl
@[simp] theorem setRing_estSnap (w k : Nat) (x : Ring) : (setRing d w k x).estSnap = d.estSnap := rfl
@[simp] theorem setRing_direct (w k : Nat) (x : Ring) : (setRing d w k x).direct = d.direct := rfl
@[simp] theorem setRing_kenl (w k : Nat) (x : Ring) : (setRing d w k x).kenl = d.kenl := rfl
@[simp] theorem setRing_fieldFuse (w k : Nat) (x : Ring) : (setRing d w k x).fieldFuse = d.fieldFuse := rfl
@[simp] theorem setRing_log (w k : Nat) (x : Ring) : (setRing d w k x).log = d.log := rfl
@[simp] theorem setRing_saved (w k : Nat) (x : Ring) : (setRing d w k x).saved = d.saved := rfl
@[simp] theorem setRing_fuseMaps (w k : Nat) (x : Ring) : (setRing d w k x).fuseMaps = d.fuseMaps := rfl
@[simp] theorem setRing_sens (w k : Nat) (x : Ring) : (setRing d w k x).sens = d.sens := rfl
@[simp] theorem setRing_narta (w k : Nat) (x : Ring) : (setRing d w k x).narta = d.narta := rfl
@[simp] theorem setRing_failover (w k : Nat) (x : Ring) : (setRing d w k x).failover = d.failover := rfl
@[simp] theorem setRing_heldTlps (w k : Nat) (x : Ring) : (setRing d w k x).heldTlps = d.heldTlps := rfl
@[simp] theorem setRing_change (w k : Nat) (x : Ring) : (setRing d w k x).change = d.change := rfl
@[simp] theorem setRing_changeTlps (w k : Nat) (x : Ring) : (setRing d w k x).changeTlps = d.changeTlps := rfl
@[simp] theorem setRing_jobs (w k : Nat) (x : Ring) : (setRing d w k x).jobs = d.jobs := rfl
@[simp] theorem setRing_nextJob (w k : Nat) (x : Ring) : (setRing d w k x).nextJob = d.nextJob := rfl
@[simp] theorem setRing_plans (w k : Nat) (x : Ring) : (setRing d w k x).plans = d.plans := rfl
@[simp] theorem setRing_rqs (w k : Nat) (x : Ring) : (setRing d w k x).rqs = d.rqs := rfl
@[simp] theorem setRing_items (w k : Nat) (x : Ring) : (setRing d w k x).items = d.items := rfl
@[simp] theorem setRing_nextItem (w k : Nat) (x : Ring) : (setRing d w k x).nextItem = d.nextItem := rfl
@[simp] theorem setRing_hk (w k : Nat) (x : Ring) : (setRing d w k x).hk = d.hk := rfl
@[simp] theorem setRing_accts (w k : Nat) (x : Ring) : (setRing d w k x).accts = d.accts := rfl
@[simp] theorem setRing_period (w k : Nat) (x : Ring) : (setRing d w k x).period = d.period := rfl
@[simp] theorem setRing_series (w k : Nat) (x : Ring) : (setRing d w k x).series = d.series := rfl
@[simp] theorem setRing_batch (w k : Nat) (x : Ring) : (setRing d w k x).batch = d.batch := rfl
@[simp] theorem setRing_batches (w k : Nat) (x : Ring) : (setRing d w k x).batches = d.batches := rfl
@[simp] theorem setRing_rcptQ (w k : Nat) (x : Ring) : (setRing d w k x).rcptQ = d.rcptQ := rfl
@[simp] theorem setRing_rcptTail (w k : Nat) (x : Ring) : (setRing d w k x).rcptTail = d.rcptTail := rfl
@[simp] theorem setRing_rcptPhase (w k : Nat) (x : Ring) : (setRing d w k x).rcptPhase = d.rcptPhase := rfl
@[simp] theorem setRing_quads (w k : Nat) (x : Ring) : (setRing d w k x).quads = d.quads := rfl
@[simp] theorem setRing_zones (w k : Nat) (x : Ring) : (setRing d w k x).zones = d.zones := rfl
@[simp] theorem setRing_heat (w k : Nat) (x : Ring) : (setRing d w k x).heat = d.heat := rfl
@[simp] theorem setRing_shared (w k : Nat) (x : Ring) : (setRing d w k x).shared = d.shared := rfl
@[simp] theorem setRing_eacc (w k : Nat) (x : Ring) : (setRing d w k x).eacc = d.eacc := rfl
@[simp] theorem setRing_gapEst (w k : Nat) (x : Ring) : (setRing d w k x).gapEst = d.gapEst := rfl
@[simp] theorem setRing_gapN (w k : Nat) (x : Ring) : (setRing d w k x).gapN = d.gapN := rfl
@[simp] theorem setRing_resid (w k : Nat) (x : Ring) : (setRing d w k x).resid = d.resid := rfl
@[simp] theorem setRing_boot (w k : Nat) (x : Ring) : (setRing d w k x).boot = d.boot := rfl
@[simp] theorem setRing_drain (w k : Nat) (x : Ring) : (setRing d w k x).drain = d.drain := rfl
@[simp] theorem setRing_slots (w k : Nat) (x : Ring) : (setRing d w k x).slots = d.slots := rfl
@[simp] theorem setRing_rollback (w k : Nat) (x : Ring) : (setRing d w k x).rollback = d.rollback := rfl
@[simp] theorem setRing_mkBanks (w k : Nat) (x : Ring) : (setRing d w k x).mkBanks = d.mkBanks := rfl
@[simp] theorem setRing_report (w k : Nat) (x : Ring) : (setRing d w k x).report = d.report := rfl
@[simp] theorem setRing_thermtrip (w k : Nat) (x : Ring) : (setRing d w k x).thermtrip = d.thermtrip := rfl
@[simp] theorem setRing_alertPin (w k : Nat) (x : Ring) : (setRing d w k x).alertPin = d.alertPin := rfl
@[simp] theorem setRing_smb (w k : Nat) (x : Ring) : (setRing d w k x).smb = d.smb := rfl
@[simp] theorem setRing_jtag (w k : Nat) (x : Ring) : (setRing d w k x).jtag = d.jtag := rfl
@[simp] theorem setRing_ticks (w k : Nat) (x : Ring) : (setRing d w k x).ticks = d.ticks := rfl
@[simp] theorem setRing_notes (w k : Nat) (x : Ring) : (setRing d w k x).notes = d.notes := rfl
@[simp] theorem setRing_note (w k : Nat) (x : Ring) : (setRing d w k x).note = d.note := rfl
@[simp] theorem setRing_noteAt (w k : Nat) (x : Ring) : (setRing d w k x).noteAt = d.noteAt := rfl
@[simp] theorem setRing_ageing (w k : Nat) (x : Ring) : (setRing d w k x).ageing = d.ageing := rfl
@[simp] theorem setRing_sramBad (w k : Nat) (x : Ring) : (setRing d w k x).sramBad = d.sramBad := rfl
@[simp] theorem setRing_rstWait (w k : Nat) (x : Ring) : (setRing d w k x).rstWait = d.rstWait := rfl
@[simp] theorem setRing_lifeUj (w k : Nat) (x : Ring) : (setRing d w k x).lifeUj = d.lifeUj := rfl
@[simp] theorem setRing_wearBarked (w k : Nat) (x : Ring) : (setRing d w k x).wearBarked = d.wearBarked := rfl
@[simp] theorem setRing_erases (w k : Nat) (x : Ring) : (setRing d w k x).erases = d.erases := rfl

/-! ## setTower -/

@[simp] theorem setTower_kind (t : Nat) (x : Tower) : (setTower d t x).kind = d.kind := rfl
@[simp] theorem setTower_regs (t : Nat) (x : Tower) : (setTower d t x).regs = d.regs := rfl
@[simp] theorem setTower_guards (t : Nat) (x : Tower) : (setTower d t x).guards = d.guards := rfl
@[simp] theorem setTower_cores (t : Nat) (x : Tower) : (setTower d t x).cores = d.cores := rfl
@[simp] theorem setTower_spares (t : Nat) (x : Tower) : (setTower d t x).spares = d.spares := rfl
@[simp] theorem setTower_ports (t : Nat) (x : Tower) : (setTower d t x).ports = d.ports := rfl
@[simp] theorem setTower_slices (t : Nat) (x : Tower) : (setTower d t x).slices = d.slices := rfl
@[simp] theorem setTower_badSlice (t : Nat) (x : Tower) : (setTower d t x).badSlice = d.badSlice := rfl
@[simp] theorem setTower_rings (t : Nat) (x : Tower) : (setTower d t x).rings = d.rings := rfl
@[simp] theorem setTower_wmsgs (t : Nat) (x : Tower) : (setTower d t x).wmsgs = d.wmsgs := rfl
@[simp] theorem setTower_wseq (t : Nat) (x : Tower) : (setTower d t x).wseq = d.wseq := rfl
@[simp] theorem setTower_links (t : Nat) (x : Tower) : (setTower d t x).links = d.links := rfl
@[simp] theorem setTower_chans (t : Nat) (x : Tower) : (setTower d t x).chans = d.chans := rfl
@[simp] theorem setTower_bundles (t : Nat) (x : Tower) : (setTower d t x).bundles = d.bundles := rfl
@[simp] theorem setTower_evt (t : Nat) (x : Tower) : (setTower d t x).evt = d.evt := rfl
@[simp] theorem setTower_events (t : Nat) (x : Tower) : (setTower d t x).events = d.events := rfl
@[simp] theorem setTower_freeN (t : Nat) (x : Tower) : (setTower d t x).freeN = d.freeN := rfl
@[simp] theorem setTower_estSnap (t : Nat) (x : Tower) : (setTower d t x).estSnap = d.estSnap := rfl
@[simp] theorem setTower_direct (t : Nat) (x : Tower) : (setTower d t x).direct = d.direct := rfl
@[simp] theorem setTower_kenl (t : Nat) (x : Tower) : (setTower d t x).kenl = d.kenl := rfl
@[simp] theorem setTower_fieldFuse (t : Nat) (x : Tower) : (setTower d t x).fieldFuse = d.fieldFuse := rfl
@[simp] theorem setTower_log (t : Nat) (x : Tower) : (setTower d t x).log = d.log := rfl
@[simp] theorem setTower_saved (t : Nat) (x : Tower) : (setTower d t x).saved = d.saved := rfl
@[simp] theorem setTower_fuseMaps (t : Nat) (x : Tower) : (setTower d t x).fuseMaps = d.fuseMaps := rfl
@[simp] theorem setTower_sens (t : Nat) (x : Tower) : (setTower d t x).sens = d.sens := rfl
@[simp] theorem setTower_narta (t : Nat) (x : Tower) : (setTower d t x).narta = d.narta := rfl
@[simp] theorem setTower_failover (t : Nat) (x : Tower) : (setTower d t x).failover = d.failover := rfl
@[simp] theorem setTower_heldTlps (t : Nat) (x : Tower) : (setTower d t x).heldTlps = d.heldTlps := rfl
@[simp] theorem setTower_change (t : Nat) (x : Tower) : (setTower d t x).change = d.change := rfl
@[simp] theorem setTower_changeTlps (t : Nat) (x : Tower) : (setTower d t x).changeTlps = d.changeTlps := rfl
@[simp] theorem setTower_jobs (t : Nat) (x : Tower) : (setTower d t x).jobs = d.jobs := rfl
@[simp] theorem setTower_nextJob (t : Nat) (x : Tower) : (setTower d t x).nextJob = d.nextJob := rfl
@[simp] theorem setTower_plans (t : Nat) (x : Tower) : (setTower d t x).plans = d.plans := rfl
@[simp] theorem setTower_rqs (t : Nat) (x : Tower) : (setTower d t x).rqs = d.rqs := rfl
@[simp] theorem setTower_items (t : Nat) (x : Tower) : (setTower d t x).items = d.items := rfl
@[simp] theorem setTower_nextItem (t : Nat) (x : Tower) : (setTower d t x).nextItem = d.nextItem := rfl
@[simp] theorem setTower_hk (t : Nat) (x : Tower) : (setTower d t x).hk = d.hk := rfl
@[simp] theorem setTower_accts (t : Nat) (x : Tower) : (setTower d t x).accts = d.accts := rfl
@[simp] theorem setTower_period (t : Nat) (x : Tower) : (setTower d t x).period = d.period := rfl
@[simp] theorem setTower_series (t : Nat) (x : Tower) : (setTower d t x).series = d.series := rfl
@[simp] theorem setTower_batch (t : Nat) (x : Tower) : (setTower d t x).batch = d.batch := rfl
@[simp] theorem setTower_batches (t : Nat) (x : Tower) : (setTower d t x).batches = d.batches := rfl
@[simp] theorem setTower_rcptQ (t : Nat) (x : Tower) : (setTower d t x).rcptQ = d.rcptQ := rfl
@[simp] theorem setTower_rcptTail (t : Nat) (x : Tower) : (setTower d t x).rcptTail = d.rcptTail := rfl
@[simp] theorem setTower_rcptPhase (t : Nat) (x : Tower) : (setTower d t x).rcptPhase = d.rcptPhase := rfl
@[simp] theorem setTower_quads (t : Nat) (x : Tower) : (setTower d t x).quads = d.quads := rfl
@[simp] theorem setTower_zones (t : Nat) (x : Tower) : (setTower d t x).zones = d.zones := rfl
@[simp] theorem setTower_heat (t : Nat) (x : Tower) : (setTower d t x).heat = d.heat := rfl
@[simp] theorem setTower_shared (t : Nat) (x : Tower) : (setTower d t x).shared = d.shared := rfl
@[simp] theorem setTower_eacc (t : Nat) (x : Tower) : (setTower d t x).eacc = d.eacc := rfl
@[simp] theorem setTower_gapEst (t : Nat) (x : Tower) : (setTower d t x).gapEst = d.gapEst := rfl
@[simp] theorem setTower_gapN (t : Nat) (x : Tower) : (setTower d t x).gapN = d.gapN := rfl
@[simp] theorem setTower_resid (t : Nat) (x : Tower) : (setTower d t x).resid = d.resid := rfl
@[simp] theorem setTower_boot (t : Nat) (x : Tower) : (setTower d t x).boot = d.boot := rfl
@[simp] theorem setTower_drain (t : Nat) (x : Tower) : (setTower d t x).drain = d.drain := rfl
@[simp] theorem setTower_slots (t : Nat) (x : Tower) : (setTower d t x).slots = d.slots := rfl
@[simp] theorem setTower_rollback (t : Nat) (x : Tower) : (setTower d t x).rollback = d.rollback := rfl
@[simp] theorem setTower_mkBanks (t : Nat) (x : Tower) : (setTower d t x).mkBanks = d.mkBanks := rfl
@[simp] theorem setTower_report (t : Nat) (x : Tower) : (setTower d t x).report = d.report := rfl
@[simp] theorem setTower_thermtrip (t : Nat) (x : Tower) : (setTower d t x).thermtrip = d.thermtrip := rfl
@[simp] theorem setTower_alertPin (t : Nat) (x : Tower) : (setTower d t x).alertPin = d.alertPin := rfl
@[simp] theorem setTower_smb (t : Nat) (x : Tower) : (setTower d t x).smb = d.smb := rfl
@[simp] theorem setTower_jtag (t : Nat) (x : Tower) : (setTower d t x).jtag = d.jtag := rfl
@[simp] theorem setTower_ticks (t : Nat) (x : Tower) : (setTower d t x).ticks = d.ticks := rfl
@[simp] theorem setTower_notes (t : Nat) (x : Tower) : (setTower d t x).notes = d.notes := rfl
@[simp] theorem setTower_note (t : Nat) (x : Tower) : (setTower d t x).note = d.note := rfl
@[simp] theorem setTower_noteAt (t : Nat) (x : Tower) : (setTower d t x).noteAt = d.noteAt := rfl
@[simp] theorem setTower_ageing (t : Nat) (x : Tower) : (setTower d t x).ageing = d.ageing := rfl
@[simp] theorem setTower_sramBad (t : Nat) (x : Tower) : (setTower d t x).sramBad = d.sramBad := rfl
@[simp] theorem setTower_rstWait (t : Nat) (x : Tower) : (setTower d t x).rstWait = d.rstWait := rfl
@[simp] theorem setTower_lifeUj (t : Nat) (x : Tower) : (setTower d t x).lifeUj = d.lifeUj := rfl
@[simp] theorem setTower_wearBarked (t : Nat) (x : Tower) : (setTower d t x).wearBarked = d.wearBarked := rfl
@[simp] theorem setTower_erases (t : Nat) (x : Tower) : (setTower d t x).erases = d.erases := rfl

/-! ## setFloor -/

@[simp] theorem setFloor_kind (t : Nat) (f : Floor) : (setFloor d t f).kind = d.kind := rfl
@[simp] theorem setFloor_regs (t : Nat) (f : Floor) : (setFloor d t f).regs = d.regs := rfl
@[simp] theorem setFloor_guards (t : Nat) (f : Floor) : (setFloor d t f).guards = d.guards := rfl
@[simp] theorem setFloor_cores (t : Nat) (f : Floor) : (setFloor d t f).cores = d.cores := rfl
@[simp] theorem setFloor_spares (t : Nat) (f : Floor) : (setFloor d t f).spares = d.spares := rfl
@[simp] theorem setFloor_ports (t : Nat) (f : Floor) : (setFloor d t f).ports = d.ports := rfl
@[simp] theorem setFloor_slices (t : Nat) (f : Floor) : (setFloor d t f).slices = d.slices := rfl
@[simp] theorem setFloor_badSlice (t : Nat) (f : Floor) : (setFloor d t f).badSlice = d.badSlice := rfl
@[simp] theorem setFloor_rings (t : Nat) (f : Floor) : (setFloor d t f).rings = d.rings := rfl
@[simp] theorem setFloor_wmsgs (t : Nat) (f : Floor) : (setFloor d t f).wmsgs = d.wmsgs := rfl
@[simp] theorem setFloor_wseq (t : Nat) (f : Floor) : (setFloor d t f).wseq = d.wseq := rfl
@[simp] theorem setFloor_links (t : Nat) (f : Floor) : (setFloor d t f).links = d.links := rfl
@[simp] theorem setFloor_chans (t : Nat) (f : Floor) : (setFloor d t f).chans = d.chans := rfl
@[simp] theorem setFloor_bundles (t : Nat) (f : Floor) : (setFloor d t f).bundles = d.bundles := rfl
@[simp] theorem setFloor_evt (t : Nat) (f : Floor) : (setFloor d t f).evt = d.evt := rfl
@[simp] theorem setFloor_events (t : Nat) (f : Floor) : (setFloor d t f).events = d.events := rfl
@[simp] theorem setFloor_freeN (t : Nat) (f : Floor) : (setFloor d t f).freeN = d.freeN := rfl
@[simp] theorem setFloor_estSnap (t : Nat) (f : Floor) : (setFloor d t f).estSnap = d.estSnap := rfl
@[simp] theorem setFloor_direct (t : Nat) (f : Floor) : (setFloor d t f).direct = d.direct := rfl
@[simp] theorem setFloor_kenl (t : Nat) (f : Floor) : (setFloor d t f).kenl = d.kenl := rfl
@[simp] theorem setFloor_fieldFuse (t : Nat) (f : Floor) : (setFloor d t f).fieldFuse = d.fieldFuse := rfl
@[simp] theorem setFloor_log (t : Nat) (f : Floor) : (setFloor d t f).log = d.log := rfl
@[simp] theorem setFloor_saved (t : Nat) (f : Floor) : (setFloor d t f).saved = d.saved := rfl
@[simp] theorem setFloor_fuseMaps (t : Nat) (f : Floor) : (setFloor d t f).fuseMaps = d.fuseMaps := rfl
@[simp] theorem setFloor_sens (t : Nat) (f : Floor) : (setFloor d t f).sens = d.sens := rfl
@[simp] theorem setFloor_narta (t : Nat) (f : Floor) : (setFloor d t f).narta = d.narta := rfl
@[simp] theorem setFloor_failover (t : Nat) (f : Floor) : (setFloor d t f).failover = d.failover := rfl
@[simp] theorem setFloor_heldTlps (t : Nat) (f : Floor) : (setFloor d t f).heldTlps = d.heldTlps := rfl
@[simp] theorem setFloor_change (t : Nat) (f : Floor) : (setFloor d t f).change = d.change := rfl
@[simp] theorem setFloor_changeTlps (t : Nat) (f : Floor) : (setFloor d t f).changeTlps = d.changeTlps := rfl
@[simp] theorem setFloor_jobs (t : Nat) (f : Floor) : (setFloor d t f).jobs = d.jobs := rfl
@[simp] theorem setFloor_nextJob (t : Nat) (f : Floor) : (setFloor d t f).nextJob = d.nextJob := rfl
@[simp] theorem setFloor_plans (t : Nat) (f : Floor) : (setFloor d t f).plans = d.plans := rfl
@[simp] theorem setFloor_rqs (t : Nat) (f : Floor) : (setFloor d t f).rqs = d.rqs := rfl
@[simp] theorem setFloor_items (t : Nat) (f : Floor) : (setFloor d t f).items = d.items := rfl
@[simp] theorem setFloor_nextItem (t : Nat) (f : Floor) : (setFloor d t f).nextItem = d.nextItem := rfl
@[simp] theorem setFloor_hk (t : Nat) (f : Floor) : (setFloor d t f).hk = d.hk := rfl
@[simp] theorem setFloor_accts (t : Nat) (f : Floor) : (setFloor d t f).accts = d.accts := rfl
@[simp] theorem setFloor_period (t : Nat) (f : Floor) : (setFloor d t f).period = d.period := rfl
@[simp] theorem setFloor_series (t : Nat) (f : Floor) : (setFloor d t f).series = d.series := rfl
@[simp] theorem setFloor_batch (t : Nat) (f : Floor) : (setFloor d t f).batch = d.batch := rfl
@[simp] theorem setFloor_batches (t : Nat) (f : Floor) : (setFloor d t f).batches = d.batches := rfl
@[simp] theorem setFloor_rcptQ (t : Nat) (f : Floor) : (setFloor d t f).rcptQ = d.rcptQ := rfl
@[simp] theorem setFloor_rcptTail (t : Nat) (f : Floor) : (setFloor d t f).rcptTail = d.rcptTail := rfl
@[simp] theorem setFloor_rcptPhase (t : Nat) (f : Floor) : (setFloor d t f).rcptPhase = d.rcptPhase := rfl
@[simp] theorem setFloor_quads (t : Nat) (f : Floor) : (setFloor d t f).quads = d.quads := rfl
@[simp] theorem setFloor_zones (t : Nat) (f : Floor) : (setFloor d t f).zones = d.zones := rfl
@[simp] theorem setFloor_heat (t : Nat) (f : Floor) : (setFloor d t f).heat = d.heat := rfl
@[simp] theorem setFloor_shared (t : Nat) (f : Floor) : (setFloor d t f).shared = d.shared := rfl
@[simp] theorem setFloor_eacc (t : Nat) (f : Floor) : (setFloor d t f).eacc = d.eacc := rfl
@[simp] theorem setFloor_gapEst (t : Nat) (f : Floor) : (setFloor d t f).gapEst = d.gapEst := rfl
@[simp] theorem setFloor_gapN (t : Nat) (f : Floor) : (setFloor d t f).gapN = d.gapN := rfl
@[simp] theorem setFloor_resid (t : Nat) (f : Floor) : (setFloor d t f).resid = d.resid := rfl
@[simp] theorem setFloor_boot (t : Nat) (f : Floor) : (setFloor d t f).boot = d.boot := rfl
@[simp] theorem setFloor_drain (t : Nat) (f : Floor) : (setFloor d t f).drain = d.drain := rfl
@[simp] theorem setFloor_slots (t : Nat) (f : Floor) : (setFloor d t f).slots = d.slots := rfl
@[simp] theorem setFloor_rollback (t : Nat) (f : Floor) : (setFloor d t f).rollback = d.rollback := rfl
@[simp] theorem setFloor_mkBanks (t : Nat) (f : Floor) : (setFloor d t f).mkBanks = d.mkBanks := rfl
@[simp] theorem setFloor_report (t : Nat) (f : Floor) : (setFloor d t f).report = d.report := rfl
@[simp] theorem setFloor_thermtrip (t : Nat) (f : Floor) : (setFloor d t f).thermtrip = d.thermtrip := rfl
@[simp] theorem setFloor_alertPin (t : Nat) (f : Floor) : (setFloor d t f).alertPin = d.alertPin := rfl
@[simp] theorem setFloor_smb (t : Nat) (f : Floor) : (setFloor d t f).smb = d.smb := rfl
@[simp] theorem setFloor_jtag (t : Nat) (f : Floor) : (setFloor d t f).jtag = d.jtag := rfl
@[simp] theorem setFloor_ticks (t : Nat) (f : Floor) : (setFloor d t f).ticks = d.ticks := rfl
@[simp] theorem setFloor_notes (t : Nat) (f : Floor) : (setFloor d t f).notes = d.notes := rfl
@[simp] theorem setFloor_note (t : Nat) (f : Floor) : (setFloor d t f).note = d.note := rfl
@[simp] theorem setFloor_noteAt (t : Nat) (f : Floor) : (setFloor d t f).noteAt = d.noteAt := rfl
@[simp] theorem setFloor_ageing (t : Nat) (f : Floor) : (setFloor d t f).ageing = d.ageing := rfl
@[simp] theorem setFloor_sramBad (t : Nat) (f : Floor) : (setFloor d t f).sramBad = d.sramBad := rfl
@[simp] theorem setFloor_rstWait (t : Nat) (f : Floor) : (setFloor d t f).rstWait = d.rstWait := rfl
@[simp] theorem setFloor_lifeUj (t : Nat) (f : Floor) : (setFloor d t f).lifeUj = d.lifeUj := rfl
@[simp] theorem setFloor_wearBarked (t : Nat) (f : Floor) : (setFloor d t f).wearBarked = d.wearBarked := rfl
@[simp] theorem setFloor_erases (t : Nat) (f : Floor) : (setFloor d t f).erases = d.erases := rfl

/-! ## setColumn -/

@[simp] theorem setColumn_kind (t b : Nat) (c : Column) : (setColumn d t b c).kind = d.kind := rfl
@[simp] theorem setColumn_regs (t b : Nat) (c : Column) : (setColumn d t b c).regs = d.regs := rfl
@[simp] theorem setColumn_guards (t b : Nat) (c : Column) : (setColumn d t b c).guards = d.guards := rfl
@[simp] theorem setColumn_cores (t b : Nat) (c : Column) : (setColumn d t b c).cores = d.cores := rfl
@[simp] theorem setColumn_spares (t b : Nat) (c : Column) : (setColumn d t b c).spares = d.spares := rfl
@[simp] theorem setColumn_ports (t b : Nat) (c : Column) : (setColumn d t b c).ports = d.ports := rfl
@[simp] theorem setColumn_slices (t b : Nat) (c : Column) : (setColumn d t b c).slices = d.slices := rfl
@[simp] theorem setColumn_badSlice (t b : Nat) (c : Column) : (setColumn d t b c).badSlice = d.badSlice := rfl
@[simp] theorem setColumn_rings (t b : Nat) (c : Column) : (setColumn d t b c).rings = d.rings := rfl
@[simp] theorem setColumn_wmsgs (t b : Nat) (c : Column) : (setColumn d t b c).wmsgs = d.wmsgs := rfl
@[simp] theorem setColumn_wseq (t b : Nat) (c : Column) : (setColumn d t b c).wseq = d.wseq := rfl
@[simp] theorem setColumn_links (t b : Nat) (c : Column) : (setColumn d t b c).links = d.links := rfl
@[simp] theorem setColumn_chans (t b : Nat) (c : Column) : (setColumn d t b c).chans = d.chans := rfl
@[simp] theorem setColumn_bundles (t b : Nat) (c : Column) : (setColumn d t b c).bundles = d.bundles := rfl
@[simp] theorem setColumn_evt (t b : Nat) (c : Column) : (setColumn d t b c).evt = d.evt := rfl
@[simp] theorem setColumn_events (t b : Nat) (c : Column) : (setColumn d t b c).events = d.events := rfl
@[simp] theorem setColumn_freeN (t b : Nat) (c : Column) : (setColumn d t b c).freeN = d.freeN := rfl
@[simp] theorem setColumn_estSnap (t b : Nat) (c : Column) : (setColumn d t b c).estSnap = d.estSnap := rfl
@[simp] theorem setColumn_direct (t b : Nat) (c : Column) : (setColumn d t b c).direct = d.direct := rfl
@[simp] theorem setColumn_kenl (t b : Nat) (c : Column) : (setColumn d t b c).kenl = d.kenl := rfl
@[simp] theorem setColumn_fieldFuse (t b : Nat) (c : Column) : (setColumn d t b c).fieldFuse = d.fieldFuse := rfl
@[simp] theorem setColumn_log (t b : Nat) (c : Column) : (setColumn d t b c).log = d.log := rfl
@[simp] theorem setColumn_saved (t b : Nat) (c : Column) : (setColumn d t b c).saved = d.saved := rfl
@[simp] theorem setColumn_fuseMaps (t b : Nat) (c : Column) : (setColumn d t b c).fuseMaps = d.fuseMaps := rfl
@[simp] theorem setColumn_sens (t b : Nat) (c : Column) : (setColumn d t b c).sens = d.sens := rfl
@[simp] theorem setColumn_narta (t b : Nat) (c : Column) : (setColumn d t b c).narta = d.narta := rfl
@[simp] theorem setColumn_failover (t b : Nat) (c : Column) : (setColumn d t b c).failover = d.failover := rfl
@[simp] theorem setColumn_heldTlps (t b : Nat) (c : Column) : (setColumn d t b c).heldTlps = d.heldTlps := rfl
@[simp] theorem setColumn_change (t b : Nat) (c : Column) : (setColumn d t b c).change = d.change := rfl
@[simp] theorem setColumn_changeTlps (t b : Nat) (c : Column) : (setColumn d t b c).changeTlps = d.changeTlps := rfl
@[simp] theorem setColumn_jobs (t b : Nat) (c : Column) : (setColumn d t b c).jobs = d.jobs := rfl
@[simp] theorem setColumn_nextJob (t b : Nat) (c : Column) : (setColumn d t b c).nextJob = d.nextJob := rfl
@[simp] theorem setColumn_plans (t b : Nat) (c : Column) : (setColumn d t b c).plans = d.plans := rfl
@[simp] theorem setColumn_rqs (t b : Nat) (c : Column) : (setColumn d t b c).rqs = d.rqs := rfl
@[simp] theorem setColumn_items (t b : Nat) (c : Column) : (setColumn d t b c).items = d.items := rfl
@[simp] theorem setColumn_nextItem (t b : Nat) (c : Column) : (setColumn d t b c).nextItem = d.nextItem := rfl
@[simp] theorem setColumn_hk (t b : Nat) (c : Column) : (setColumn d t b c).hk = d.hk := rfl
@[simp] theorem setColumn_accts (t b : Nat) (c : Column) : (setColumn d t b c).accts = d.accts := rfl
@[simp] theorem setColumn_period (t b : Nat) (c : Column) : (setColumn d t b c).period = d.period := rfl
@[simp] theorem setColumn_series (t b : Nat) (c : Column) : (setColumn d t b c).series = d.series := rfl
@[simp] theorem setColumn_batch (t b : Nat) (c : Column) : (setColumn d t b c).batch = d.batch := rfl
@[simp] theorem setColumn_batches (t b : Nat) (c : Column) : (setColumn d t b c).batches = d.batches := rfl
@[simp] theorem setColumn_rcptQ (t b : Nat) (c : Column) : (setColumn d t b c).rcptQ = d.rcptQ := rfl
@[simp] theorem setColumn_rcptTail (t b : Nat) (c : Column) : (setColumn d t b c).rcptTail = d.rcptTail := rfl
@[simp] theorem setColumn_rcptPhase (t b : Nat) (c : Column) : (setColumn d t b c).rcptPhase = d.rcptPhase := rfl
@[simp] theorem setColumn_quads (t b : Nat) (c : Column) : (setColumn d t b c).quads = d.quads := rfl
@[simp] theorem setColumn_zones (t b : Nat) (c : Column) : (setColumn d t b c).zones = d.zones := rfl
@[simp] theorem setColumn_heat (t b : Nat) (c : Column) : (setColumn d t b c).heat = d.heat := rfl
@[simp] theorem setColumn_shared (t b : Nat) (c : Column) : (setColumn d t b c).shared = d.shared := rfl
@[simp] theorem setColumn_eacc (t b : Nat) (c : Column) : (setColumn d t b c).eacc = d.eacc := rfl
@[simp] theorem setColumn_gapEst (t b : Nat) (c : Column) : (setColumn d t b c).gapEst = d.gapEst := rfl
@[simp] theorem setColumn_gapN (t b : Nat) (c : Column) : (setColumn d t b c).gapN = d.gapN := rfl
@[simp] theorem setColumn_resid (t b : Nat) (c : Column) : (setColumn d t b c).resid = d.resid := rfl
@[simp] theorem setColumn_boot (t b : Nat) (c : Column) : (setColumn d t b c).boot = d.boot := rfl
@[simp] theorem setColumn_drain (t b : Nat) (c : Column) : (setColumn d t b c).drain = d.drain := rfl
@[simp] theorem setColumn_slots (t b : Nat) (c : Column) : (setColumn d t b c).slots = d.slots := rfl
@[simp] theorem setColumn_rollback (t b : Nat) (c : Column) : (setColumn d t b c).rollback = d.rollback := rfl
@[simp] theorem setColumn_mkBanks (t b : Nat) (c : Column) : (setColumn d t b c).mkBanks = d.mkBanks := rfl
@[simp] theorem setColumn_report (t b : Nat) (c : Column) : (setColumn d t b c).report = d.report := rfl
@[simp] theorem setColumn_thermtrip (t b : Nat) (c : Column) : (setColumn d t b c).thermtrip = d.thermtrip := rfl
@[simp] theorem setColumn_alertPin (t b : Nat) (c : Column) : (setColumn d t b c).alertPin = d.alertPin := rfl
@[simp] theorem setColumn_smb (t b : Nat) (c : Column) : (setColumn d t b c).smb = d.smb := rfl
@[simp] theorem setColumn_jtag (t b : Nat) (c : Column) : (setColumn d t b c).jtag = d.jtag := rfl
@[simp] theorem setColumn_ticks (t b : Nat) (c : Column) : (setColumn d t b c).ticks = d.ticks := rfl
@[simp] theorem setColumn_notes (t b : Nat) (c : Column) : (setColumn d t b c).notes = d.notes := rfl
@[simp] theorem setColumn_note (t b : Nat) (c : Column) : (setColumn d t b c).note = d.note := rfl
@[simp] theorem setColumn_noteAt (t b : Nat) (c : Column) : (setColumn d t b c).noteAt = d.noteAt := rfl
@[simp] theorem setColumn_ageing (t b : Nat) (c : Column) : (setColumn d t b c).ageing = d.ageing := rfl
@[simp] theorem setColumn_sramBad (t b : Nat) (c : Column) : (setColumn d t b c).sramBad = d.sramBad := rfl
@[simp] theorem setColumn_rstWait (t b : Nat) (c : Column) : (setColumn d t b c).rstWait = d.rstWait := rfl
@[simp] theorem setColumn_lifeUj (t b : Nat) (c : Column) : (setColumn d t b c).lifeUj = d.lifeUj := rfl
@[simp] theorem setColumn_wearBarked (t b : Nat) (c : Column) : (setColumn d t b c).wearBarked = d.wearBarked := rfl
@[simp] theorem setColumn_erases (t b : Nat) (c : Column) : (setColumn d t b c).erases = d.erases := rfl

/-! ## setLink -/

@[simp] theorem setLink_kind (r v : Nat) (x : Link) : (setLink d r v x).kind = d.kind := rfl
@[simp] theorem setLink_regs (r v : Nat) (x : Link) : (setLink d r v x).regs = d.regs := rfl
@[simp] theorem setLink_guards (r v : Nat) (x : Link) : (setLink d r v x).guards = d.guards := rfl
@[simp] theorem setLink_cores (r v : Nat) (x : Link) : (setLink d r v x).cores = d.cores := rfl
@[simp] theorem setLink_spares (r v : Nat) (x : Link) : (setLink d r v x).spares = d.spares := rfl
@[simp] theorem setLink_ports (r v : Nat) (x : Link) : (setLink d r v x).ports = d.ports := rfl
@[simp] theorem setLink_slices (r v : Nat) (x : Link) : (setLink d r v x).slices = d.slices := rfl
@[simp] theorem setLink_badSlice (r v : Nat) (x : Link) : (setLink d r v x).badSlice = d.badSlice := rfl
@[simp] theorem setLink_rings (r v : Nat) (x : Link) : (setLink d r v x).rings = d.rings := rfl
@[simp] theorem setLink_wmsgs (r v : Nat) (x : Link) : (setLink d r v x).wmsgs = d.wmsgs := rfl
@[simp] theorem setLink_wseq (r v : Nat) (x : Link) : (setLink d r v x).wseq = d.wseq := rfl
@[simp] theorem setLink_towers (r v : Nat) (x : Link) : (setLink d r v x).towers = d.towers := rfl
@[simp] theorem setLink_chans (r v : Nat) (x : Link) : (setLink d r v x).chans = d.chans := rfl
@[simp] theorem setLink_bundles (r v : Nat) (x : Link) : (setLink d r v x).bundles = d.bundles := rfl
@[simp] theorem setLink_evt (r v : Nat) (x : Link) : (setLink d r v x).evt = d.evt := rfl
@[simp] theorem setLink_events (r v : Nat) (x : Link) : (setLink d r v x).events = d.events := rfl
@[simp] theorem setLink_freeN (r v : Nat) (x : Link) : (setLink d r v x).freeN = d.freeN := rfl
@[simp] theorem setLink_estSnap (r v : Nat) (x : Link) : (setLink d r v x).estSnap = d.estSnap := rfl
@[simp] theorem setLink_direct (r v : Nat) (x : Link) : (setLink d r v x).direct = d.direct := rfl
@[simp] theorem setLink_kenl (r v : Nat) (x : Link) : (setLink d r v x).kenl = d.kenl := rfl
@[simp] theorem setLink_fieldFuse (r v : Nat) (x : Link) : (setLink d r v x).fieldFuse = d.fieldFuse := rfl
@[simp] theorem setLink_log (r v : Nat) (x : Link) : (setLink d r v x).log = d.log := rfl
@[simp] theorem setLink_saved (r v : Nat) (x : Link) : (setLink d r v x).saved = d.saved := rfl
@[simp] theorem setLink_fuseMaps (r v : Nat) (x : Link) : (setLink d r v x).fuseMaps = d.fuseMaps := rfl
@[simp] theorem setLink_sens (r v : Nat) (x : Link) : (setLink d r v x).sens = d.sens := rfl
@[simp] theorem setLink_narta (r v : Nat) (x : Link) : (setLink d r v x).narta = d.narta := rfl
@[simp] theorem setLink_failover (r v : Nat) (x : Link) : (setLink d r v x).failover = d.failover := rfl
@[simp] theorem setLink_heldTlps (r v : Nat) (x : Link) : (setLink d r v x).heldTlps = d.heldTlps := rfl
@[simp] theorem setLink_change (r v : Nat) (x : Link) : (setLink d r v x).change = d.change := rfl
@[simp] theorem setLink_changeTlps (r v : Nat) (x : Link) : (setLink d r v x).changeTlps = d.changeTlps := rfl
@[simp] theorem setLink_jobs (r v : Nat) (x : Link) : (setLink d r v x).jobs = d.jobs := rfl
@[simp] theorem setLink_nextJob (r v : Nat) (x : Link) : (setLink d r v x).nextJob = d.nextJob := rfl
@[simp] theorem setLink_plans (r v : Nat) (x : Link) : (setLink d r v x).plans = d.plans := rfl
@[simp] theorem setLink_rqs (r v : Nat) (x : Link) : (setLink d r v x).rqs = d.rqs := rfl
@[simp] theorem setLink_items (r v : Nat) (x : Link) : (setLink d r v x).items = d.items := rfl
@[simp] theorem setLink_nextItem (r v : Nat) (x : Link) : (setLink d r v x).nextItem = d.nextItem := rfl
@[simp] theorem setLink_hk (r v : Nat) (x : Link) : (setLink d r v x).hk = d.hk := rfl
@[simp] theorem setLink_accts (r v : Nat) (x : Link) : (setLink d r v x).accts = d.accts := rfl
@[simp] theorem setLink_period (r v : Nat) (x : Link) : (setLink d r v x).period = d.period := rfl
@[simp] theorem setLink_series (r v : Nat) (x : Link) : (setLink d r v x).series = d.series := rfl
@[simp] theorem setLink_batch (r v : Nat) (x : Link) : (setLink d r v x).batch = d.batch := rfl
@[simp] theorem setLink_batches (r v : Nat) (x : Link) : (setLink d r v x).batches = d.batches := rfl
@[simp] theorem setLink_rcptQ (r v : Nat) (x : Link) : (setLink d r v x).rcptQ = d.rcptQ := rfl
@[simp] theorem setLink_rcptTail (r v : Nat) (x : Link) : (setLink d r v x).rcptTail = d.rcptTail := rfl
@[simp] theorem setLink_rcptPhase (r v : Nat) (x : Link) : (setLink d r v x).rcptPhase = d.rcptPhase := rfl
@[simp] theorem setLink_quads (r v : Nat) (x : Link) : (setLink d r v x).quads = d.quads := rfl
@[simp] theorem setLink_zones (r v : Nat) (x : Link) : (setLink d r v x).zones = d.zones := rfl
@[simp] theorem setLink_heat (r v : Nat) (x : Link) : (setLink d r v x).heat = d.heat := rfl
@[simp] theorem setLink_shared (r v : Nat) (x : Link) : (setLink d r v x).shared = d.shared := rfl
@[simp] theorem setLink_eacc (r v : Nat) (x : Link) : (setLink d r v x).eacc = d.eacc := rfl
@[simp] theorem setLink_gapEst (r v : Nat) (x : Link) : (setLink d r v x).gapEst = d.gapEst := rfl
@[simp] theorem setLink_gapN (r v : Nat) (x : Link) : (setLink d r v x).gapN = d.gapN := rfl
@[simp] theorem setLink_resid (r v : Nat) (x : Link) : (setLink d r v x).resid = d.resid := rfl
@[simp] theorem setLink_boot (r v : Nat) (x : Link) : (setLink d r v x).boot = d.boot := rfl
@[simp] theorem setLink_drain (r v : Nat) (x : Link) : (setLink d r v x).drain = d.drain := rfl
@[simp] theorem setLink_slots (r v : Nat) (x : Link) : (setLink d r v x).slots = d.slots := rfl
@[simp] theorem setLink_rollback (r v : Nat) (x : Link) : (setLink d r v x).rollback = d.rollback := rfl
@[simp] theorem setLink_mkBanks (r v : Nat) (x : Link) : (setLink d r v x).mkBanks = d.mkBanks := rfl
@[simp] theorem setLink_report (r v : Nat) (x : Link) : (setLink d r v x).report = d.report := rfl
@[simp] theorem setLink_thermtrip (r v : Nat) (x : Link) : (setLink d r v x).thermtrip = d.thermtrip := rfl
@[simp] theorem setLink_alertPin (r v : Nat) (x : Link) : (setLink d r v x).alertPin = d.alertPin := rfl
@[simp] theorem setLink_smb (r v : Nat) (x : Link) : (setLink d r v x).smb = d.smb := rfl
@[simp] theorem setLink_jtag (r v : Nat) (x : Link) : (setLink d r v x).jtag = d.jtag := rfl
@[simp] theorem setLink_ticks (r v : Nat) (x : Link) : (setLink d r v x).ticks = d.ticks := rfl
@[simp] theorem setLink_notes (r v : Nat) (x : Link) : (setLink d r v x).notes = d.notes := rfl
@[simp] theorem setLink_note (r v : Nat) (x : Link) : (setLink d r v x).note = d.note := rfl
@[simp] theorem setLink_noteAt (r v : Nat) (x : Link) : (setLink d r v x).noteAt = d.noteAt := rfl
@[simp] theorem setLink_ageing (r v : Nat) (x : Link) : (setLink d r v x).ageing = d.ageing := rfl
@[simp] theorem setLink_sramBad (r v : Nat) (x : Link) : (setLink d r v x).sramBad = d.sramBad := rfl
@[simp] theorem setLink_rstWait (r v : Nat) (x : Link) : (setLink d r v x).rstWait = d.rstWait := rfl
@[simp] theorem setLink_lifeUj (r v : Nat) (x : Link) : (setLink d r v x).lifeUj = d.lifeUj := rfl
@[simp] theorem setLink_wearBarked (r v : Nat) (x : Link) : (setLink d r v x).wearBarked = d.wearBarked := rfl
@[simp] theorem setLink_erases (r v : Nat) (x : Link) : (setLink d r v x).erases = d.erases := rfl

/-! ## setChan -/

@[simp] theorem setChan_kind (i j : Nat) (x : Chan) : (setChan d i j x).kind = d.kind := rfl
@[simp] theorem setChan_regs (i j : Nat) (x : Chan) : (setChan d i j x).regs = d.regs := rfl
@[simp] theorem setChan_guards (i j : Nat) (x : Chan) : (setChan d i j x).guards = d.guards := rfl
@[simp] theorem setChan_cores (i j : Nat) (x : Chan) : (setChan d i j x).cores = d.cores := rfl
@[simp] theorem setChan_spares (i j : Nat) (x : Chan) : (setChan d i j x).spares = d.spares := rfl
@[simp] theorem setChan_ports (i j : Nat) (x : Chan) : (setChan d i j x).ports = d.ports := rfl
@[simp] theorem setChan_slices (i j : Nat) (x : Chan) : (setChan d i j x).slices = d.slices := rfl
@[simp] theorem setChan_badSlice (i j : Nat) (x : Chan) : (setChan d i j x).badSlice = d.badSlice := rfl
@[simp] theorem setChan_rings (i j : Nat) (x : Chan) : (setChan d i j x).rings = d.rings := rfl
@[simp] theorem setChan_wmsgs (i j : Nat) (x : Chan) : (setChan d i j x).wmsgs = d.wmsgs := rfl
@[simp] theorem setChan_wseq (i j : Nat) (x : Chan) : (setChan d i j x).wseq = d.wseq := rfl
@[simp] theorem setChan_towers (i j : Nat) (x : Chan) : (setChan d i j x).towers = d.towers := rfl
@[simp] theorem setChan_links (i j : Nat) (x : Chan) : (setChan d i j x).links = d.links := rfl
@[simp] theorem setChan_bundles (i j : Nat) (x : Chan) : (setChan d i j x).bundles = d.bundles := rfl
@[simp] theorem setChan_evt (i j : Nat) (x : Chan) : (setChan d i j x).evt = d.evt := rfl
@[simp] theorem setChan_events (i j : Nat) (x : Chan) : (setChan d i j x).events = d.events := rfl
@[simp] theorem setChan_freeN (i j : Nat) (x : Chan) : (setChan d i j x).freeN = d.freeN := rfl
@[simp] theorem setChan_estSnap (i j : Nat) (x : Chan) : (setChan d i j x).estSnap = d.estSnap := rfl
@[simp] theorem setChan_direct (i j : Nat) (x : Chan) : (setChan d i j x).direct = d.direct := rfl
@[simp] theorem setChan_kenl (i j : Nat) (x : Chan) : (setChan d i j x).kenl = d.kenl := rfl
@[simp] theorem setChan_fieldFuse (i j : Nat) (x : Chan) : (setChan d i j x).fieldFuse = d.fieldFuse := rfl
@[simp] theorem setChan_log (i j : Nat) (x : Chan) : (setChan d i j x).log = d.log := rfl
@[simp] theorem setChan_saved (i j : Nat) (x : Chan) : (setChan d i j x).saved = d.saved := rfl
@[simp] theorem setChan_fuseMaps (i j : Nat) (x : Chan) : (setChan d i j x).fuseMaps = d.fuseMaps := rfl
@[simp] theorem setChan_sens (i j : Nat) (x : Chan) : (setChan d i j x).sens = d.sens := rfl
@[simp] theorem setChan_narta (i j : Nat) (x : Chan) : (setChan d i j x).narta = d.narta := rfl
@[simp] theorem setChan_failover (i j : Nat) (x : Chan) : (setChan d i j x).failover = d.failover := rfl
@[simp] theorem setChan_heldTlps (i j : Nat) (x : Chan) : (setChan d i j x).heldTlps = d.heldTlps := rfl
@[simp] theorem setChan_change (i j : Nat) (x : Chan) : (setChan d i j x).change = d.change := rfl
@[simp] theorem setChan_changeTlps (i j : Nat) (x : Chan) : (setChan d i j x).changeTlps = d.changeTlps := rfl
@[simp] theorem setChan_jobs (i j : Nat) (x : Chan) : (setChan d i j x).jobs = d.jobs := rfl
@[simp] theorem setChan_nextJob (i j : Nat) (x : Chan) : (setChan d i j x).nextJob = d.nextJob := rfl
@[simp] theorem setChan_plans (i j : Nat) (x : Chan) : (setChan d i j x).plans = d.plans := rfl
@[simp] theorem setChan_rqs (i j : Nat) (x : Chan) : (setChan d i j x).rqs = d.rqs := rfl
@[simp] theorem setChan_items (i j : Nat) (x : Chan) : (setChan d i j x).items = d.items := rfl
@[simp] theorem setChan_nextItem (i j : Nat) (x : Chan) : (setChan d i j x).nextItem = d.nextItem := rfl
@[simp] theorem setChan_hk (i j : Nat) (x : Chan) : (setChan d i j x).hk = d.hk := rfl
@[simp] theorem setChan_accts (i j : Nat) (x : Chan) : (setChan d i j x).accts = d.accts := rfl
@[simp] theorem setChan_period (i j : Nat) (x : Chan) : (setChan d i j x).period = d.period := rfl
@[simp] theorem setChan_series (i j : Nat) (x : Chan) : (setChan d i j x).series = d.series := rfl
@[simp] theorem setChan_batch (i j : Nat) (x : Chan) : (setChan d i j x).batch = d.batch := rfl
@[simp] theorem setChan_batches (i j : Nat) (x : Chan) : (setChan d i j x).batches = d.batches := rfl
@[simp] theorem setChan_rcptQ (i j : Nat) (x : Chan) : (setChan d i j x).rcptQ = d.rcptQ := rfl
@[simp] theorem setChan_rcptTail (i j : Nat) (x : Chan) : (setChan d i j x).rcptTail = d.rcptTail := rfl
@[simp] theorem setChan_rcptPhase (i j : Nat) (x : Chan) : (setChan d i j x).rcptPhase = d.rcptPhase := rfl
@[simp] theorem setChan_quads (i j : Nat) (x : Chan) : (setChan d i j x).quads = d.quads := rfl
@[simp] theorem setChan_zones (i j : Nat) (x : Chan) : (setChan d i j x).zones = d.zones := rfl
@[simp] theorem setChan_heat (i j : Nat) (x : Chan) : (setChan d i j x).heat = d.heat := rfl
@[simp] theorem setChan_shared (i j : Nat) (x : Chan) : (setChan d i j x).shared = d.shared := rfl
@[simp] theorem setChan_eacc (i j : Nat) (x : Chan) : (setChan d i j x).eacc = d.eacc := rfl
@[simp] theorem setChan_gapEst (i j : Nat) (x : Chan) : (setChan d i j x).gapEst = d.gapEst := rfl
@[simp] theorem setChan_gapN (i j : Nat) (x : Chan) : (setChan d i j x).gapN = d.gapN := rfl
@[simp] theorem setChan_resid (i j : Nat) (x : Chan) : (setChan d i j x).resid = d.resid := rfl
@[simp] theorem setChan_boot (i j : Nat) (x : Chan) : (setChan d i j x).boot = d.boot := rfl
@[simp] theorem setChan_drain (i j : Nat) (x : Chan) : (setChan d i j x).drain = d.drain := rfl
@[simp] theorem setChan_slots (i j : Nat) (x : Chan) : (setChan d i j x).slots = d.slots := rfl
@[simp] theorem setChan_rollback (i j : Nat) (x : Chan) : (setChan d i j x).rollback = d.rollback := rfl
@[simp] theorem setChan_mkBanks (i j : Nat) (x : Chan) : (setChan d i j x).mkBanks = d.mkBanks := rfl
@[simp] theorem setChan_report (i j : Nat) (x : Chan) : (setChan d i j x).report = d.report := rfl
@[simp] theorem setChan_thermtrip (i j : Nat) (x : Chan) : (setChan d i j x).thermtrip = d.thermtrip := rfl
@[simp] theorem setChan_alertPin (i j : Nat) (x : Chan) : (setChan d i j x).alertPin = d.alertPin := rfl
@[simp] theorem setChan_smb (i j : Nat) (x : Chan) : (setChan d i j x).smb = d.smb := rfl
@[simp] theorem setChan_jtag (i j : Nat) (x : Chan) : (setChan d i j x).jtag = d.jtag := rfl
@[simp] theorem setChan_ticks (i j : Nat) (x : Chan) : (setChan d i j x).ticks = d.ticks := rfl
@[simp] theorem setChan_notes (i j : Nat) (x : Chan) : (setChan d i j x).notes = d.notes := rfl
@[simp] theorem setChan_note (i j : Nat) (x : Chan) : (setChan d i j x).note = d.note := rfl
@[simp] theorem setChan_noteAt (i j : Nat) (x : Chan) : (setChan d i j x).noteAt = d.noteAt := rfl
@[simp] theorem setChan_ageing (i j : Nat) (x : Chan) : (setChan d i j x).ageing = d.ageing := rfl
@[simp] theorem setChan_sramBad (i j : Nat) (x : Chan) : (setChan d i j x).sramBad = d.sramBad := rfl
@[simp] theorem setChan_rstWait (i j : Nat) (x : Chan) : (setChan d i j x).rstWait = d.rstWait := rfl
@[simp] theorem setChan_lifeUj (i j : Nat) (x : Chan) : (setChan d i j x).lifeUj = d.lifeUj := rfl
@[simp] theorem setChan_wearBarked (i j : Nat) (x : Chan) : (setChan d i j x).wearBarked = d.wearBarked := rfl
@[simp] theorem setChan_erases (i j : Nat) (x : Chan) : (setChan d i j x).erases = d.erases := rfl

/-! ## setBundle -/

@[simp] theorem setBundle_kind (t b : Nat) (u : Bool) (x : Chan) : (setBundle d t b u x).kind = d.kind := rfl
@[simp] theorem setBundle_regs (t b : Nat) (u : Bool) (x : Chan) : (setBundle d t b u x).regs = d.regs := rfl
@[simp] theorem setBundle_guards (t b : Nat) (u : Bool) (x : Chan) : (setBundle d t b u x).guards = d.guards := rfl
@[simp] theorem setBundle_cores (t b : Nat) (u : Bool) (x : Chan) : (setBundle d t b u x).cores = d.cores := rfl
@[simp] theorem setBundle_spares (t b : Nat) (u : Bool) (x : Chan) : (setBundle d t b u x).spares = d.spares := rfl
@[simp] theorem setBundle_ports (t b : Nat) (u : Bool) (x : Chan) : (setBundle d t b u x).ports = d.ports := rfl
@[simp] theorem setBundle_slices (t b : Nat) (u : Bool) (x : Chan) : (setBundle d t b u x).slices = d.slices := rfl
@[simp] theorem setBundle_badSlice (t b : Nat) (u : Bool) (x : Chan) : (setBundle d t b u x).badSlice = d.badSlice := rfl
@[simp] theorem setBundle_rings (t b : Nat) (u : Bool) (x : Chan) : (setBundle d t b u x).rings = d.rings := rfl
@[simp] theorem setBundle_wmsgs (t b : Nat) (u : Bool) (x : Chan) : (setBundle d t b u x).wmsgs = d.wmsgs := rfl
@[simp] theorem setBundle_wseq (t b : Nat) (u : Bool) (x : Chan) : (setBundle d t b u x).wseq = d.wseq := rfl
@[simp] theorem setBundle_towers (t b : Nat) (u : Bool) (x : Chan) : (setBundle d t b u x).towers = d.towers := rfl
@[simp] theorem setBundle_links (t b : Nat) (u : Bool) (x : Chan) : (setBundle d t b u x).links = d.links := rfl
@[simp] theorem setBundle_chans (t b : Nat) (u : Bool) (x : Chan) : (setBundle d t b u x).chans = d.chans := rfl
@[simp] theorem setBundle_evt (t b : Nat) (u : Bool) (x : Chan) : (setBundle d t b u x).evt = d.evt := rfl
@[simp] theorem setBundle_events (t b : Nat) (u : Bool) (x : Chan) : (setBundle d t b u x).events = d.events := rfl
@[simp] theorem setBundle_freeN (t b : Nat) (u : Bool) (x : Chan) : (setBundle d t b u x).freeN = d.freeN := rfl
@[simp] theorem setBundle_estSnap (t b : Nat) (u : Bool) (x : Chan) : (setBundle d t b u x).estSnap = d.estSnap := rfl
@[simp] theorem setBundle_direct (t b : Nat) (u : Bool) (x : Chan) : (setBundle d t b u x).direct = d.direct := rfl
@[simp] theorem setBundle_kenl (t b : Nat) (u : Bool) (x : Chan) : (setBundle d t b u x).kenl = d.kenl := rfl
@[simp] theorem setBundle_fieldFuse (t b : Nat) (u : Bool) (x : Chan) : (setBundle d t b u x).fieldFuse = d.fieldFuse := rfl
@[simp] theorem setBundle_log (t b : Nat) (u : Bool) (x : Chan) : (setBundle d t b u x).log = d.log := rfl
@[simp] theorem setBundle_saved (t b : Nat) (u : Bool) (x : Chan) : (setBundle d t b u x).saved = d.saved := rfl
@[simp] theorem setBundle_fuseMaps (t b : Nat) (u : Bool) (x : Chan) : (setBundle d t b u x).fuseMaps = d.fuseMaps := rfl
@[simp] theorem setBundle_sens (t b : Nat) (u : Bool) (x : Chan) : (setBundle d t b u x).sens = d.sens := rfl
@[simp] theorem setBundle_narta (t b : Nat) (u : Bool) (x : Chan) : (setBundle d t b u x).narta = d.narta := rfl
@[simp] theorem setBundle_failover (t b : Nat) (u : Bool) (x : Chan) : (setBundle d t b u x).failover = d.failover := rfl
@[simp] theorem setBundle_heldTlps (t b : Nat) (u : Bool) (x : Chan) : (setBundle d t b u x).heldTlps = d.heldTlps := rfl
@[simp] theorem setBundle_change (t b : Nat) (u : Bool) (x : Chan) : (setBundle d t b u x).change = d.change := rfl
@[simp] theorem setBundle_changeTlps (t b : Nat) (u : Bool) (x : Chan) : (setBundle d t b u x).changeTlps = d.changeTlps := rfl
@[simp] theorem setBundle_jobs (t b : Nat) (u : Bool) (x : Chan) : (setBundle d t b u x).jobs = d.jobs := rfl
@[simp] theorem setBundle_nextJob (t b : Nat) (u : Bool) (x : Chan) : (setBundle d t b u x).nextJob = d.nextJob := rfl
@[simp] theorem setBundle_plans (t b : Nat) (u : Bool) (x : Chan) : (setBundle d t b u x).plans = d.plans := rfl
@[simp] theorem setBundle_rqs (t b : Nat) (u : Bool) (x : Chan) : (setBundle d t b u x).rqs = d.rqs := rfl
@[simp] theorem setBundle_items (t b : Nat) (u : Bool) (x : Chan) : (setBundle d t b u x).items = d.items := rfl
@[simp] theorem setBundle_nextItem (t b : Nat) (u : Bool) (x : Chan) : (setBundle d t b u x).nextItem = d.nextItem := rfl
@[simp] theorem setBundle_hk (t b : Nat) (u : Bool) (x : Chan) : (setBundle d t b u x).hk = d.hk := rfl
@[simp] theorem setBundle_accts (t b : Nat) (u : Bool) (x : Chan) : (setBundle d t b u x).accts = d.accts := rfl
@[simp] theorem setBundle_period (t b : Nat) (u : Bool) (x : Chan) : (setBundle d t b u x).period = d.period := rfl
@[simp] theorem setBundle_series (t b : Nat) (u : Bool) (x : Chan) : (setBundle d t b u x).series = d.series := rfl
@[simp] theorem setBundle_batch (t b : Nat) (u : Bool) (x : Chan) : (setBundle d t b u x).batch = d.batch := rfl
@[simp] theorem setBundle_batches (t b : Nat) (u : Bool) (x : Chan) : (setBundle d t b u x).batches = d.batches := rfl
@[simp] theorem setBundle_rcptQ (t b : Nat) (u : Bool) (x : Chan) : (setBundle d t b u x).rcptQ = d.rcptQ := rfl
@[simp] theorem setBundle_rcptTail (t b : Nat) (u : Bool) (x : Chan) : (setBundle d t b u x).rcptTail = d.rcptTail := rfl
@[simp] theorem setBundle_rcptPhase (t b : Nat) (u : Bool) (x : Chan) : (setBundle d t b u x).rcptPhase = d.rcptPhase := rfl
@[simp] theorem setBundle_quads (t b : Nat) (u : Bool) (x : Chan) : (setBundle d t b u x).quads = d.quads := rfl
@[simp] theorem setBundle_zones (t b : Nat) (u : Bool) (x : Chan) : (setBundle d t b u x).zones = d.zones := rfl
@[simp] theorem setBundle_heat (t b : Nat) (u : Bool) (x : Chan) : (setBundle d t b u x).heat = d.heat := rfl
@[simp] theorem setBundle_shared (t b : Nat) (u : Bool) (x : Chan) : (setBundle d t b u x).shared = d.shared := rfl
@[simp] theorem setBundle_eacc (t b : Nat) (u : Bool) (x : Chan) : (setBundle d t b u x).eacc = d.eacc := rfl
@[simp] theorem setBundle_gapEst (t b : Nat) (u : Bool) (x : Chan) : (setBundle d t b u x).gapEst = d.gapEst := rfl
@[simp] theorem setBundle_gapN (t b : Nat) (u : Bool) (x : Chan) : (setBundle d t b u x).gapN = d.gapN := rfl
@[simp] theorem setBundle_resid (t b : Nat) (u : Bool) (x : Chan) : (setBundle d t b u x).resid = d.resid := rfl
@[simp] theorem setBundle_boot (t b : Nat) (u : Bool) (x : Chan) : (setBundle d t b u x).boot = d.boot := rfl
@[simp] theorem setBundle_drain (t b : Nat) (u : Bool) (x : Chan) : (setBundle d t b u x).drain = d.drain := rfl
@[simp] theorem setBundle_slots (t b : Nat) (u : Bool) (x : Chan) : (setBundle d t b u x).slots = d.slots := rfl
@[simp] theorem setBundle_rollback (t b : Nat) (u : Bool) (x : Chan) : (setBundle d t b u x).rollback = d.rollback := rfl
@[simp] theorem setBundle_mkBanks (t b : Nat) (u : Bool) (x : Chan) : (setBundle d t b u x).mkBanks = d.mkBanks := rfl
@[simp] theorem setBundle_report (t b : Nat) (u : Bool) (x : Chan) : (setBundle d t b u x).report = d.report := rfl
@[simp] theorem setBundle_thermtrip (t b : Nat) (u : Bool) (x : Chan) : (setBundle d t b u x).thermtrip = d.thermtrip := rfl
@[simp] theorem setBundle_alertPin (t b : Nat) (u : Bool) (x : Chan) : (setBundle d t b u x).alertPin = d.alertPin := rfl
@[simp] theorem setBundle_smb (t b : Nat) (u : Bool) (x : Chan) : (setBundle d t b u x).smb = d.smb := rfl
@[simp] theorem setBundle_jtag (t b : Nat) (u : Bool) (x : Chan) : (setBundle d t b u x).jtag = d.jtag := rfl
@[simp] theorem setBundle_ticks (t b : Nat) (u : Bool) (x : Chan) : (setBundle d t b u x).ticks = d.ticks := rfl
@[simp] theorem setBundle_notes (t b : Nat) (u : Bool) (x : Chan) : (setBundle d t b u x).notes = d.notes := rfl
@[simp] theorem setBundle_note (t b : Nat) (u : Bool) (x : Chan) : (setBundle d t b u x).note = d.note := rfl
@[simp] theorem setBundle_noteAt (t b : Nat) (u : Bool) (x : Chan) : (setBundle d t b u x).noteAt = d.noteAt := rfl
@[simp] theorem setBundle_ageing (t b : Nat) (u : Bool) (x : Chan) : (setBundle d t b u x).ageing = d.ageing := rfl
@[simp] theorem setBundle_sramBad (t b : Nat) (u : Bool) (x : Chan) : (setBundle d t b u x).sramBad = d.sramBad := rfl
@[simp] theorem setBundle_rstWait (t b : Nat) (u : Bool) (x : Chan) : (setBundle d t b u x).rstWait = d.rstWait := rfl
@[simp] theorem setBundle_lifeUj (t b : Nat) (u : Bool) (x : Chan) : (setBundle d t b u x).lifeUj = d.lifeUj := rfl
@[simp] theorem setBundle_wearBarked (t b : Nat) (u : Bool) (x : Chan) : (setBundle d t b u x).wearBarked = d.wearBarked := rfl
@[simp] theorem setBundle_erases (t b : Nat) (u : Bool) (x : Chan) : (setBundle d t b u x).erases = d.erases := rfl

/-! ## setNarta -/

@[simp] theorem setNarta_kind (h : Nat) (n : Narta) : (setNarta d h n).kind = d.kind := rfl
@[simp] theorem setNarta_regs (h : Nat) (n : Narta) : (setNarta d h n).regs = d.regs := rfl
@[simp] theorem setNarta_guards (h : Nat) (n : Narta) : (setNarta d h n).guards = d.guards := rfl
@[simp] theorem setNarta_cores (h : Nat) (n : Narta) : (setNarta d h n).cores = d.cores := rfl
@[simp] theorem setNarta_spares (h : Nat) (n : Narta) : (setNarta d h n).spares = d.spares := rfl
@[simp] theorem setNarta_ports (h : Nat) (n : Narta) : (setNarta d h n).ports = d.ports := rfl
@[simp] theorem setNarta_slices (h : Nat) (n : Narta) : (setNarta d h n).slices = d.slices := rfl
@[simp] theorem setNarta_badSlice (h : Nat) (n : Narta) : (setNarta d h n).badSlice = d.badSlice := rfl
@[simp] theorem setNarta_rings (h : Nat) (n : Narta) : (setNarta d h n).rings = d.rings := rfl
@[simp] theorem setNarta_wmsgs (h : Nat) (n : Narta) : (setNarta d h n).wmsgs = d.wmsgs := rfl
@[simp] theorem setNarta_wseq (h : Nat) (n : Narta) : (setNarta d h n).wseq = d.wseq := rfl
@[simp] theorem setNarta_towers (h : Nat) (n : Narta) : (setNarta d h n).towers = d.towers := rfl
@[simp] theorem setNarta_links (h : Nat) (n : Narta) : (setNarta d h n).links = d.links := rfl
@[simp] theorem setNarta_chans (h : Nat) (n : Narta) : (setNarta d h n).chans = d.chans := rfl
@[simp] theorem setNarta_bundles (h : Nat) (n : Narta) : (setNarta d h n).bundles = d.bundles := rfl
@[simp] theorem setNarta_evt (h : Nat) (n : Narta) : (setNarta d h n).evt = d.evt := rfl
@[simp] theorem setNarta_events (h : Nat) (n : Narta) : (setNarta d h n).events = d.events := rfl
@[simp] theorem setNarta_freeN (h : Nat) (n : Narta) : (setNarta d h n).freeN = d.freeN := rfl
@[simp] theorem setNarta_estSnap (h : Nat) (n : Narta) : (setNarta d h n).estSnap = d.estSnap := rfl
@[simp] theorem setNarta_direct (h : Nat) (n : Narta) : (setNarta d h n).direct = d.direct := rfl
@[simp] theorem setNarta_kenl (h : Nat) (n : Narta) : (setNarta d h n).kenl = d.kenl := rfl
@[simp] theorem setNarta_fieldFuse (h : Nat) (n : Narta) : (setNarta d h n).fieldFuse = d.fieldFuse := rfl
@[simp] theorem setNarta_log (h : Nat) (n : Narta) : (setNarta d h n).log = d.log := rfl
@[simp] theorem setNarta_saved (h : Nat) (n : Narta) : (setNarta d h n).saved = d.saved := rfl
@[simp] theorem setNarta_fuseMaps (h : Nat) (n : Narta) : (setNarta d h n).fuseMaps = d.fuseMaps := rfl
@[simp] theorem setNarta_sens (h : Nat) (n : Narta) : (setNarta d h n).sens = d.sens := rfl
@[simp] theorem setNarta_failover (h : Nat) (n : Narta) : (setNarta d h n).failover = d.failover := rfl
@[simp] theorem setNarta_heldTlps (h : Nat) (n : Narta) : (setNarta d h n).heldTlps = d.heldTlps := rfl
@[simp] theorem setNarta_change (h : Nat) (n : Narta) : (setNarta d h n).change = d.change := rfl
@[simp] theorem setNarta_changeTlps (h : Nat) (n : Narta) : (setNarta d h n).changeTlps = d.changeTlps := rfl
@[simp] theorem setNarta_jobs (h : Nat) (n : Narta) : (setNarta d h n).jobs = d.jobs := rfl
@[simp] theorem setNarta_nextJob (h : Nat) (n : Narta) : (setNarta d h n).nextJob = d.nextJob := rfl
@[simp] theorem setNarta_plans (h : Nat) (n : Narta) : (setNarta d h n).plans = d.plans := rfl
@[simp] theorem setNarta_rqs (h : Nat) (n : Narta) : (setNarta d h n).rqs = d.rqs := rfl
@[simp] theorem setNarta_items (h : Nat) (n : Narta) : (setNarta d h n).items = d.items := rfl
@[simp] theorem setNarta_nextItem (h : Nat) (n : Narta) : (setNarta d h n).nextItem = d.nextItem := rfl
@[simp] theorem setNarta_hk (h : Nat) (n : Narta) : (setNarta d h n).hk = d.hk := rfl
@[simp] theorem setNarta_accts (h : Nat) (n : Narta) : (setNarta d h n).accts = d.accts := rfl
@[simp] theorem setNarta_period (h : Nat) (n : Narta) : (setNarta d h n).period = d.period := rfl
@[simp] theorem setNarta_series (h : Nat) (n : Narta) : (setNarta d h n).series = d.series := rfl
@[simp] theorem setNarta_batch (h : Nat) (n : Narta) : (setNarta d h n).batch = d.batch := rfl
@[simp] theorem setNarta_batches (h : Nat) (n : Narta) : (setNarta d h n).batches = d.batches := rfl
@[simp] theorem setNarta_rcptQ (h : Nat) (n : Narta) : (setNarta d h n).rcptQ = d.rcptQ := rfl
@[simp] theorem setNarta_rcptTail (h : Nat) (n : Narta) : (setNarta d h n).rcptTail = d.rcptTail := rfl
@[simp] theorem setNarta_rcptPhase (h : Nat) (n : Narta) : (setNarta d h n).rcptPhase = d.rcptPhase := rfl
@[simp] theorem setNarta_quads (h : Nat) (n : Narta) : (setNarta d h n).quads = d.quads := rfl
@[simp] theorem setNarta_zones (h : Nat) (n : Narta) : (setNarta d h n).zones = d.zones := rfl
@[simp] theorem setNarta_heat (h : Nat) (n : Narta) : (setNarta d h n).heat = d.heat := rfl
@[simp] theorem setNarta_shared (h : Nat) (n : Narta) : (setNarta d h n).shared = d.shared := rfl
@[simp] theorem setNarta_eacc (h : Nat) (n : Narta) : (setNarta d h n).eacc = d.eacc := rfl
@[simp] theorem setNarta_gapEst (h : Nat) (n : Narta) : (setNarta d h n).gapEst = d.gapEst := rfl
@[simp] theorem setNarta_gapN (h : Nat) (n : Narta) : (setNarta d h n).gapN = d.gapN := rfl
@[simp] theorem setNarta_resid (h : Nat) (n : Narta) : (setNarta d h n).resid = d.resid := rfl
@[simp] theorem setNarta_boot (h : Nat) (n : Narta) : (setNarta d h n).boot = d.boot := rfl
@[simp] theorem setNarta_drain (h : Nat) (n : Narta) : (setNarta d h n).drain = d.drain := rfl
@[simp] theorem setNarta_slots (h : Nat) (n : Narta) : (setNarta d h n).slots = d.slots := rfl
@[simp] theorem setNarta_rollback (h : Nat) (n : Narta) : (setNarta d h n).rollback = d.rollback := rfl
@[simp] theorem setNarta_mkBanks (h : Nat) (n : Narta) : (setNarta d h n).mkBanks = d.mkBanks := rfl
@[simp] theorem setNarta_report (h : Nat) (n : Narta) : (setNarta d h n).report = d.report := rfl
@[simp] theorem setNarta_thermtrip (h : Nat) (n : Narta) : (setNarta d h n).thermtrip = d.thermtrip := rfl
@[simp] theorem setNarta_alertPin (h : Nat) (n : Narta) : (setNarta d h n).alertPin = d.alertPin := rfl
@[simp] theorem setNarta_smb (h : Nat) (n : Narta) : (setNarta d h n).smb = d.smb := rfl
@[simp] theorem setNarta_jtag (h : Nat) (n : Narta) : (setNarta d h n).jtag = d.jtag := rfl
@[simp] theorem setNarta_ticks (h : Nat) (n : Narta) : (setNarta d h n).ticks = d.ticks := rfl
@[simp] theorem setNarta_notes (h : Nat) (n : Narta) : (setNarta d h n).notes = d.notes := rfl
@[simp] theorem setNarta_note (h : Nat) (n : Narta) : (setNarta d h n).note = d.note := rfl
@[simp] theorem setNarta_noteAt (h : Nat) (n : Narta) : (setNarta d h n).noteAt = d.noteAt := rfl
@[simp] theorem setNarta_ageing (h : Nat) (n : Narta) : (setNarta d h n).ageing = d.ageing := rfl
@[simp] theorem setNarta_sramBad (h : Nat) (n : Narta) : (setNarta d h n).sramBad = d.sramBad := rfl
@[simp] theorem setNarta_rstWait (h : Nat) (n : Narta) : (setNarta d h n).rstWait = d.rstWait := rfl
@[simp] theorem setNarta_lifeUj (h : Nat) (n : Narta) : (setNarta d h n).lifeUj = d.lifeUj := rfl
@[simp] theorem setNarta_wearBarked (h : Nat) (n : Narta) : (setNarta d h n).wearBarked = d.wearBarked := rfl
@[simp] theorem setNarta_erases (h : Nat) (n : Narta) : (setNarta d h n).erases = d.erases := rfl

/-! ## setRq -/

@[simp] theorem setRq_kind (p q : Nat) (r : RingQ) : (setRq d p q r).kind = d.kind := rfl
@[simp] theorem setRq_regs (p q : Nat) (r : RingQ) : (setRq d p q r).regs = d.regs := rfl
@[simp] theorem setRq_guards (p q : Nat) (r : RingQ) : (setRq d p q r).guards = d.guards := rfl
@[simp] theorem setRq_cores (p q : Nat) (r : RingQ) : (setRq d p q r).cores = d.cores := rfl
@[simp] theorem setRq_spares (p q : Nat) (r : RingQ) : (setRq d p q r).spares = d.spares := rfl
@[simp] theorem setRq_ports (p q : Nat) (r : RingQ) : (setRq d p q r).ports = d.ports := rfl
@[simp] theorem setRq_slices (p q : Nat) (r : RingQ) : (setRq d p q r).slices = d.slices := rfl
@[simp] theorem setRq_badSlice (p q : Nat) (r : RingQ) : (setRq d p q r).badSlice = d.badSlice := rfl
@[simp] theorem setRq_rings (p q : Nat) (r : RingQ) : (setRq d p q r).rings = d.rings := rfl
@[simp] theorem setRq_wmsgs (p q : Nat) (r : RingQ) : (setRq d p q r).wmsgs = d.wmsgs := rfl
@[simp] theorem setRq_wseq (p q : Nat) (r : RingQ) : (setRq d p q r).wseq = d.wseq := rfl
@[simp] theorem setRq_towers (p q : Nat) (r : RingQ) : (setRq d p q r).towers = d.towers := rfl
@[simp] theorem setRq_links (p q : Nat) (r : RingQ) : (setRq d p q r).links = d.links := rfl
@[simp] theorem setRq_chans (p q : Nat) (r : RingQ) : (setRq d p q r).chans = d.chans := rfl
@[simp] theorem setRq_bundles (p q : Nat) (r : RingQ) : (setRq d p q r).bundles = d.bundles := rfl
@[simp] theorem setRq_evt (p q : Nat) (r : RingQ) : (setRq d p q r).evt = d.evt := rfl
@[simp] theorem setRq_events (p q : Nat) (r : RingQ) : (setRq d p q r).events = d.events := rfl
@[simp] theorem setRq_freeN (p q : Nat) (r : RingQ) : (setRq d p q r).freeN = d.freeN := rfl
@[simp] theorem setRq_estSnap (p q : Nat) (r : RingQ) : (setRq d p q r).estSnap = d.estSnap := rfl
@[simp] theorem setRq_direct (p q : Nat) (r : RingQ) : (setRq d p q r).direct = d.direct := rfl
@[simp] theorem setRq_kenl (p q : Nat) (r : RingQ) : (setRq d p q r).kenl = d.kenl := rfl
@[simp] theorem setRq_fieldFuse (p q : Nat) (r : RingQ) : (setRq d p q r).fieldFuse = d.fieldFuse := rfl
@[simp] theorem setRq_log (p q : Nat) (r : RingQ) : (setRq d p q r).log = d.log := rfl
@[simp] theorem setRq_saved (p q : Nat) (r : RingQ) : (setRq d p q r).saved = d.saved := rfl
@[simp] theorem setRq_fuseMaps (p q : Nat) (r : RingQ) : (setRq d p q r).fuseMaps = d.fuseMaps := rfl
@[simp] theorem setRq_sens (p q : Nat) (r : RingQ) : (setRq d p q r).sens = d.sens := rfl
@[simp] theorem setRq_narta (p q : Nat) (r : RingQ) : (setRq d p q r).narta = d.narta := rfl
@[simp] theorem setRq_failover (p q : Nat) (r : RingQ) : (setRq d p q r).failover = d.failover := rfl
@[simp] theorem setRq_heldTlps (p q : Nat) (r : RingQ) : (setRq d p q r).heldTlps = d.heldTlps := rfl
@[simp] theorem setRq_change (p q : Nat) (r : RingQ) : (setRq d p q r).change = d.change := rfl
@[simp] theorem setRq_changeTlps (p q : Nat) (r : RingQ) : (setRq d p q r).changeTlps = d.changeTlps := rfl
@[simp] theorem setRq_jobs (p q : Nat) (r : RingQ) : (setRq d p q r).jobs = d.jobs := rfl
@[simp] theorem setRq_nextJob (p q : Nat) (r : RingQ) : (setRq d p q r).nextJob = d.nextJob := rfl
@[simp] theorem setRq_plans (p q : Nat) (r : RingQ) : (setRq d p q r).plans = d.plans := rfl
@[simp] theorem setRq_items (p q : Nat) (r : RingQ) : (setRq d p q r).items = d.items := rfl
@[simp] theorem setRq_nextItem (p q : Nat) (r : RingQ) : (setRq d p q r).nextItem = d.nextItem := rfl
@[simp] theorem setRq_hk (p q : Nat) (r : RingQ) : (setRq d p q r).hk = d.hk := rfl
@[simp] theorem setRq_accts (p q : Nat) (r : RingQ) : (setRq d p q r).accts = d.accts := rfl
@[simp] theorem setRq_period (p q : Nat) (r : RingQ) : (setRq d p q r).period = d.period := rfl
@[simp] theorem setRq_series (p q : Nat) (r : RingQ) : (setRq d p q r).series = d.series := rfl
@[simp] theorem setRq_batch (p q : Nat) (r : RingQ) : (setRq d p q r).batch = d.batch := rfl
@[simp] theorem setRq_batches (p q : Nat) (r : RingQ) : (setRq d p q r).batches = d.batches := rfl
@[simp] theorem setRq_rcptQ (p q : Nat) (r : RingQ) : (setRq d p q r).rcptQ = d.rcptQ := rfl
@[simp] theorem setRq_rcptTail (p q : Nat) (r : RingQ) : (setRq d p q r).rcptTail = d.rcptTail := rfl
@[simp] theorem setRq_rcptPhase (p q : Nat) (r : RingQ) : (setRq d p q r).rcptPhase = d.rcptPhase := rfl
@[simp] theorem setRq_quads (p q : Nat) (r : RingQ) : (setRq d p q r).quads = d.quads := rfl
@[simp] theorem setRq_zones (p q : Nat) (r : RingQ) : (setRq d p q r).zones = d.zones := rfl
@[simp] theorem setRq_heat (p q : Nat) (r : RingQ) : (setRq d p q r).heat = d.heat := rfl
@[simp] theorem setRq_shared (p q : Nat) (r : RingQ) : (setRq d p q r).shared = d.shared := rfl
@[simp] theorem setRq_eacc (p q : Nat) (r : RingQ) : (setRq d p q r).eacc = d.eacc := rfl
@[simp] theorem setRq_gapEst (p q : Nat) (r : RingQ) : (setRq d p q r).gapEst = d.gapEst := rfl
@[simp] theorem setRq_gapN (p q : Nat) (r : RingQ) : (setRq d p q r).gapN = d.gapN := rfl
@[simp] theorem setRq_resid (p q : Nat) (r : RingQ) : (setRq d p q r).resid = d.resid := rfl
@[simp] theorem setRq_boot (p q : Nat) (r : RingQ) : (setRq d p q r).boot = d.boot := rfl
@[simp] theorem setRq_drain (p q : Nat) (r : RingQ) : (setRq d p q r).drain = d.drain := rfl
@[simp] theorem setRq_slots (p q : Nat) (r : RingQ) : (setRq d p q r).slots = d.slots := rfl
@[simp] theorem setRq_rollback (p q : Nat) (r : RingQ) : (setRq d p q r).rollback = d.rollback := rfl
@[simp] theorem setRq_mkBanks (p q : Nat) (r : RingQ) : (setRq d p q r).mkBanks = d.mkBanks := rfl
@[simp] theorem setRq_report (p q : Nat) (r : RingQ) : (setRq d p q r).report = d.report := rfl
@[simp] theorem setRq_thermtrip (p q : Nat) (r : RingQ) : (setRq d p q r).thermtrip = d.thermtrip := rfl
@[simp] theorem setRq_alertPin (p q : Nat) (r : RingQ) : (setRq d p q r).alertPin = d.alertPin := rfl
@[simp] theorem setRq_smb (p q : Nat) (r : RingQ) : (setRq d p q r).smb = d.smb := rfl
@[simp] theorem setRq_jtag (p q : Nat) (r : RingQ) : (setRq d p q r).jtag = d.jtag := rfl
@[simp] theorem setRq_ticks (p q : Nat) (r : RingQ) : (setRq d p q r).ticks = d.ticks := rfl
@[simp] theorem setRq_notes (p q : Nat) (r : RingQ) : (setRq d p q r).notes = d.notes := rfl
@[simp] theorem setRq_note (p q : Nat) (r : RingQ) : (setRq d p q r).note = d.note := rfl
@[simp] theorem setRq_noteAt (p q : Nat) (r : RingQ) : (setRq d p q r).noteAt = d.noteAt := rfl
@[simp] theorem setRq_ageing (p q : Nat) (r : RingQ) : (setRq d p q r).ageing = d.ageing := rfl
@[simp] theorem setRq_sramBad (p q : Nat) (r : RingQ) : (setRq d p q r).sramBad = d.sramBad := rfl
@[simp] theorem setRq_rstWait (p q : Nat) (r : RingQ) : (setRq d p q r).rstWait = d.rstWait := rfl
@[simp] theorem setRq_lifeUj (p q : Nat) (r : RingQ) : (setRq d p q r).lifeUj = d.lifeUj := rfl
@[simp] theorem setRq_wearBarked (p q : Nat) (r : RingQ) : (setRq d p q r).wearBarked = d.wearBarked := rfl
@[simp] theorem setRq_erases (p q : Nat) (r : RingQ) : (setRq d p q r).erases = d.erases := rfl

/-! ## setItem -/

@[simp] theorem setItem_kind (i : Nat) (x : Option Item) : (setItem d i x).kind = d.kind := rfl
@[simp] theorem setItem_regs (i : Nat) (x : Option Item) : (setItem d i x).regs = d.regs := rfl
@[simp] theorem setItem_guards (i : Nat) (x : Option Item) : (setItem d i x).guards = d.guards := rfl
@[simp] theorem setItem_cores (i : Nat) (x : Option Item) : (setItem d i x).cores = d.cores := rfl
@[simp] theorem setItem_spares (i : Nat) (x : Option Item) : (setItem d i x).spares = d.spares := rfl
@[simp] theorem setItem_ports (i : Nat) (x : Option Item) : (setItem d i x).ports = d.ports := rfl
@[simp] theorem setItem_slices (i : Nat) (x : Option Item) : (setItem d i x).slices = d.slices := rfl
@[simp] theorem setItem_badSlice (i : Nat) (x : Option Item) : (setItem d i x).badSlice = d.badSlice := rfl
@[simp] theorem setItem_rings (i : Nat) (x : Option Item) : (setItem d i x).rings = d.rings := rfl
@[simp] theorem setItem_wmsgs (i : Nat) (x : Option Item) : (setItem d i x).wmsgs = d.wmsgs := rfl
@[simp] theorem setItem_wseq (i : Nat) (x : Option Item) : (setItem d i x).wseq = d.wseq := rfl
@[simp] theorem setItem_towers (i : Nat) (x : Option Item) : (setItem d i x).towers = d.towers := rfl
@[simp] theorem setItem_links (i : Nat) (x : Option Item) : (setItem d i x).links = d.links := rfl
@[simp] theorem setItem_chans (i : Nat) (x : Option Item) : (setItem d i x).chans = d.chans := rfl
@[simp] theorem setItem_bundles (i : Nat) (x : Option Item) : (setItem d i x).bundles = d.bundles := rfl
@[simp] theorem setItem_evt (i : Nat) (x : Option Item) : (setItem d i x).evt = d.evt := rfl
@[simp] theorem setItem_events (i : Nat) (x : Option Item) : (setItem d i x).events = d.events := rfl
@[simp] theorem setItem_freeN (i : Nat) (x : Option Item) : (setItem d i x).freeN = d.freeN := rfl
@[simp] theorem setItem_estSnap (i : Nat) (x : Option Item) : (setItem d i x).estSnap = d.estSnap := rfl
@[simp] theorem setItem_direct (i : Nat) (x : Option Item) : (setItem d i x).direct = d.direct := rfl
@[simp] theorem setItem_kenl (i : Nat) (x : Option Item) : (setItem d i x).kenl = d.kenl := rfl
@[simp] theorem setItem_fieldFuse (i : Nat) (x : Option Item) : (setItem d i x).fieldFuse = d.fieldFuse := rfl
@[simp] theorem setItem_log (i : Nat) (x : Option Item) : (setItem d i x).log = d.log := rfl
@[simp] theorem setItem_saved (i : Nat) (x : Option Item) : (setItem d i x).saved = d.saved := rfl
@[simp] theorem setItem_fuseMaps (i : Nat) (x : Option Item) : (setItem d i x).fuseMaps = d.fuseMaps := rfl
@[simp] theorem setItem_sens (i : Nat) (x : Option Item) : (setItem d i x).sens = d.sens := rfl
@[simp] theorem setItem_narta (i : Nat) (x : Option Item) : (setItem d i x).narta = d.narta := rfl
@[simp] theorem setItem_failover (i : Nat) (x : Option Item) : (setItem d i x).failover = d.failover := rfl
@[simp] theorem setItem_heldTlps (i : Nat) (x : Option Item) : (setItem d i x).heldTlps = d.heldTlps := rfl
@[simp] theorem setItem_change (i : Nat) (x : Option Item) : (setItem d i x).change = d.change := rfl
@[simp] theorem setItem_changeTlps (i : Nat) (x : Option Item) : (setItem d i x).changeTlps = d.changeTlps := rfl
@[simp] theorem setItem_jobs (i : Nat) (x : Option Item) : (setItem d i x).jobs = d.jobs := rfl
@[simp] theorem setItem_nextJob (i : Nat) (x : Option Item) : (setItem d i x).nextJob = d.nextJob := rfl
@[simp] theorem setItem_plans (i : Nat) (x : Option Item) : (setItem d i x).plans = d.plans := rfl
@[simp] theorem setItem_rqs (i : Nat) (x : Option Item) : (setItem d i x).rqs = d.rqs := rfl
@[simp] theorem setItem_nextItem (i : Nat) (x : Option Item) : (setItem d i x).nextItem = d.nextItem := rfl
@[simp] theorem setItem_hk (i : Nat) (x : Option Item) : (setItem d i x).hk = d.hk := rfl
@[simp] theorem setItem_accts (i : Nat) (x : Option Item) : (setItem d i x).accts = d.accts := rfl
@[simp] theorem setItem_period (i : Nat) (x : Option Item) : (setItem d i x).period = d.period := rfl
@[simp] theorem setItem_series (i : Nat) (x : Option Item) : (setItem d i x).series = d.series := rfl
@[simp] theorem setItem_batch (i : Nat) (x : Option Item) : (setItem d i x).batch = d.batch := rfl
@[simp] theorem setItem_batches (i : Nat) (x : Option Item) : (setItem d i x).batches = d.batches := rfl
@[simp] theorem setItem_rcptQ (i : Nat) (x : Option Item) : (setItem d i x).rcptQ = d.rcptQ := rfl
@[simp] theorem setItem_rcptTail (i : Nat) (x : Option Item) : (setItem d i x).rcptTail = d.rcptTail := rfl
@[simp] theorem setItem_rcptPhase (i : Nat) (x : Option Item) : (setItem d i x).rcptPhase = d.rcptPhase := rfl
@[simp] theorem setItem_quads (i : Nat) (x : Option Item) : (setItem d i x).quads = d.quads := rfl
@[simp] theorem setItem_zones (i : Nat) (x : Option Item) : (setItem d i x).zones = d.zones := rfl
@[simp] theorem setItem_heat (i : Nat) (x : Option Item) : (setItem d i x).heat = d.heat := rfl
@[simp] theorem setItem_shared (i : Nat) (x : Option Item) : (setItem d i x).shared = d.shared := rfl
@[simp] theorem setItem_eacc (i : Nat) (x : Option Item) : (setItem d i x).eacc = d.eacc := rfl
@[simp] theorem setItem_gapEst (i : Nat) (x : Option Item) : (setItem d i x).gapEst = d.gapEst := rfl
@[simp] theorem setItem_gapN (i : Nat) (x : Option Item) : (setItem d i x).gapN = d.gapN := rfl
@[simp] theorem setItem_resid (i : Nat) (x : Option Item) : (setItem d i x).resid = d.resid := rfl
@[simp] theorem setItem_boot (i : Nat) (x : Option Item) : (setItem d i x).boot = d.boot := rfl
@[simp] theorem setItem_drain (i : Nat) (x : Option Item) : (setItem d i x).drain = d.drain := rfl
@[simp] theorem setItem_slots (i : Nat) (x : Option Item) : (setItem d i x).slots = d.slots := rfl
@[simp] theorem setItem_rollback (i : Nat) (x : Option Item) : (setItem d i x).rollback = d.rollback := rfl
@[simp] theorem setItem_mkBanks (i : Nat) (x : Option Item) : (setItem d i x).mkBanks = d.mkBanks := rfl
@[simp] theorem setItem_report (i : Nat) (x : Option Item) : (setItem d i x).report = d.report := rfl
@[simp] theorem setItem_thermtrip (i : Nat) (x : Option Item) : (setItem d i x).thermtrip = d.thermtrip := rfl
@[simp] theorem setItem_alertPin (i : Nat) (x : Option Item) : (setItem d i x).alertPin = d.alertPin := rfl
@[simp] theorem setItem_smb (i : Nat) (x : Option Item) : (setItem d i x).smb = d.smb := rfl
@[simp] theorem setItem_jtag (i : Nat) (x : Option Item) : (setItem d i x).jtag = d.jtag := rfl
@[simp] theorem setItem_ticks (i : Nat) (x : Option Item) : (setItem d i x).ticks = d.ticks := rfl
@[simp] theorem setItem_notes (i : Nat) (x : Option Item) : (setItem d i x).notes = d.notes := rfl
@[simp] theorem setItem_note (i : Nat) (x : Option Item) : (setItem d i x).note = d.note := rfl
@[simp] theorem setItem_noteAt (i : Nat) (x : Option Item) : (setItem d i x).noteAt = d.noteAt := rfl
@[simp] theorem setItem_ageing (i : Nat) (x : Option Item) : (setItem d i x).ageing = d.ageing := rfl
@[simp] theorem setItem_sramBad (i : Nat) (x : Option Item) : (setItem d i x).sramBad = d.sramBad := rfl
@[simp] theorem setItem_rstWait (i : Nat) (x : Option Item) : (setItem d i x).rstWait = d.rstWait := rfl
@[simp] theorem setItem_lifeUj (i : Nat) (x : Option Item) : (setItem d i x).lifeUj = d.lifeUj := rfl
@[simp] theorem setItem_wearBarked (i : Nat) (x : Option Item) : (setItem d i x).wearBarked = d.wearBarked := rfl
@[simp] theorem setItem_erases (i : Nat) (x : Option Item) : (setItem d i x).erases = d.erases := rfl

/-! ## setHk -/

@[simp] theorem setHk_kind (n : Nat) (h : HkRec) : (setHk d n h).kind = d.kind := rfl
@[simp] theorem setHk_regs (n : Nat) (h : HkRec) : (setHk d n h).regs = d.regs := rfl
@[simp] theorem setHk_guards (n : Nat) (h : HkRec) : (setHk d n h).guards = d.guards := rfl
@[simp] theorem setHk_cores (n : Nat) (h : HkRec) : (setHk d n h).cores = d.cores := rfl
@[simp] theorem setHk_spares (n : Nat) (h : HkRec) : (setHk d n h).spares = d.spares := rfl
@[simp] theorem setHk_ports (n : Nat) (h : HkRec) : (setHk d n h).ports = d.ports := rfl
@[simp] theorem setHk_slices (n : Nat) (h : HkRec) : (setHk d n h).slices = d.slices := rfl
@[simp] theorem setHk_badSlice (n : Nat) (h : HkRec) : (setHk d n h).badSlice = d.badSlice := rfl
@[simp] theorem setHk_rings (n : Nat) (h : HkRec) : (setHk d n h).rings = d.rings := rfl
@[simp] theorem setHk_wmsgs (n : Nat) (h : HkRec) : (setHk d n h).wmsgs = d.wmsgs := rfl
@[simp] theorem setHk_wseq (n : Nat) (h : HkRec) : (setHk d n h).wseq = d.wseq := rfl
@[simp] theorem setHk_towers (n : Nat) (h : HkRec) : (setHk d n h).towers = d.towers := rfl
@[simp] theorem setHk_links (n : Nat) (h : HkRec) : (setHk d n h).links = d.links := rfl
@[simp] theorem setHk_chans (n : Nat) (h : HkRec) : (setHk d n h).chans = d.chans := rfl
@[simp] theorem setHk_bundles (n : Nat) (h : HkRec) : (setHk d n h).bundles = d.bundles := rfl
@[simp] theorem setHk_evt (n : Nat) (h : HkRec) : (setHk d n h).evt = d.evt := rfl
@[simp] theorem setHk_events (n : Nat) (h : HkRec) : (setHk d n h).events = d.events := rfl
@[simp] theorem setHk_freeN (n : Nat) (h : HkRec) : (setHk d n h).freeN = d.freeN := rfl
@[simp] theorem setHk_estSnap (n : Nat) (h : HkRec) : (setHk d n h).estSnap = d.estSnap := rfl
@[simp] theorem setHk_direct (n : Nat) (h : HkRec) : (setHk d n h).direct = d.direct := rfl
@[simp] theorem setHk_kenl (n : Nat) (h : HkRec) : (setHk d n h).kenl = d.kenl := rfl
@[simp] theorem setHk_fieldFuse (n : Nat) (h : HkRec) : (setHk d n h).fieldFuse = d.fieldFuse := rfl
@[simp] theorem setHk_log (n : Nat) (h : HkRec) : (setHk d n h).log = d.log := rfl
@[simp] theorem setHk_saved (n : Nat) (h : HkRec) : (setHk d n h).saved = d.saved := rfl
@[simp] theorem setHk_fuseMaps (n : Nat) (h : HkRec) : (setHk d n h).fuseMaps = d.fuseMaps := rfl
@[simp] theorem setHk_sens (n : Nat) (h : HkRec) : (setHk d n h).sens = d.sens := rfl
@[simp] theorem setHk_narta (n : Nat) (h : HkRec) : (setHk d n h).narta = d.narta := rfl
@[simp] theorem setHk_failover (n : Nat) (h : HkRec) : (setHk d n h).failover = d.failover := rfl
@[simp] theorem setHk_heldTlps (n : Nat) (h : HkRec) : (setHk d n h).heldTlps = d.heldTlps := rfl
@[simp] theorem setHk_change (n : Nat) (h : HkRec) : (setHk d n h).change = d.change := rfl
@[simp] theorem setHk_changeTlps (n : Nat) (h : HkRec) : (setHk d n h).changeTlps = d.changeTlps := rfl
@[simp] theorem setHk_jobs (n : Nat) (h : HkRec) : (setHk d n h).jobs = d.jobs := rfl
@[simp] theorem setHk_nextJob (n : Nat) (h : HkRec) : (setHk d n h).nextJob = d.nextJob := rfl
@[simp] theorem setHk_plans (n : Nat) (h : HkRec) : (setHk d n h).plans = d.plans := rfl
@[simp] theorem setHk_rqs (n : Nat) (h : HkRec) : (setHk d n h).rqs = d.rqs := rfl
@[simp] theorem setHk_items (n : Nat) (h : HkRec) : (setHk d n h).items = d.items := rfl
@[simp] theorem setHk_nextItem (n : Nat) (h : HkRec) : (setHk d n h).nextItem = d.nextItem := rfl
@[simp] theorem setHk_accts (n : Nat) (h : HkRec) : (setHk d n h).accts = d.accts := rfl
@[simp] theorem setHk_period (n : Nat) (h : HkRec) : (setHk d n h).period = d.period := rfl
@[simp] theorem setHk_series (n : Nat) (h : HkRec) : (setHk d n h).series = d.series := rfl
@[simp] theorem setHk_batch (n : Nat) (h : HkRec) : (setHk d n h).batch = d.batch := rfl
@[simp] theorem setHk_batches (n : Nat) (h : HkRec) : (setHk d n h).batches = d.batches := rfl
@[simp] theorem setHk_rcptQ (n : Nat) (h : HkRec) : (setHk d n h).rcptQ = d.rcptQ := rfl
@[simp] theorem setHk_rcptTail (n : Nat) (h : HkRec) : (setHk d n h).rcptTail = d.rcptTail := rfl
@[simp] theorem setHk_rcptPhase (n : Nat) (h : HkRec) : (setHk d n h).rcptPhase = d.rcptPhase := rfl
@[simp] theorem setHk_quads (n : Nat) (h : HkRec) : (setHk d n h).quads = d.quads := rfl
@[simp] theorem setHk_zones (n : Nat) (h : HkRec) : (setHk d n h).zones = d.zones := rfl
@[simp] theorem setHk_heat (n : Nat) (h : HkRec) : (setHk d n h).heat = d.heat := rfl
@[simp] theorem setHk_shared (n : Nat) (h : HkRec) : (setHk d n h).shared = d.shared := rfl
@[simp] theorem setHk_eacc (n : Nat) (h : HkRec) : (setHk d n h).eacc = d.eacc := rfl
@[simp] theorem setHk_gapEst (n : Nat) (h : HkRec) : (setHk d n h).gapEst = d.gapEst := rfl
@[simp] theorem setHk_gapN (n : Nat) (h : HkRec) : (setHk d n h).gapN = d.gapN := rfl
@[simp] theorem setHk_resid (n : Nat) (h : HkRec) : (setHk d n h).resid = d.resid := rfl
@[simp] theorem setHk_boot (n : Nat) (h : HkRec) : (setHk d n h).boot = d.boot := rfl
@[simp] theorem setHk_drain (n : Nat) (h : HkRec) : (setHk d n h).drain = d.drain := rfl
@[simp] theorem setHk_slots (n : Nat) (h : HkRec) : (setHk d n h).slots = d.slots := rfl
@[simp] theorem setHk_rollback (n : Nat) (h : HkRec) : (setHk d n h).rollback = d.rollback := rfl
@[simp] theorem setHk_mkBanks (n : Nat) (h : HkRec) : (setHk d n h).mkBanks = d.mkBanks := rfl
@[simp] theorem setHk_report (n : Nat) (h : HkRec) : (setHk d n h).report = d.report := rfl
@[simp] theorem setHk_thermtrip (n : Nat) (h : HkRec) : (setHk d n h).thermtrip = d.thermtrip := rfl
@[simp] theorem setHk_alertPin (n : Nat) (h : HkRec) : (setHk d n h).alertPin = d.alertPin := rfl
@[simp] theorem setHk_smb (n : Nat) (h : HkRec) : (setHk d n h).smb = d.smb := rfl
@[simp] theorem setHk_jtag (n : Nat) (h : HkRec) : (setHk d n h).jtag = d.jtag := rfl
@[simp] theorem setHk_ticks (n : Nat) (h : HkRec) : (setHk d n h).ticks = d.ticks := rfl
@[simp] theorem setHk_notes (n : Nat) (h : HkRec) : (setHk d n h).notes = d.notes := rfl
@[simp] theorem setHk_note (n : Nat) (h : HkRec) : (setHk d n h).note = d.note := rfl
@[simp] theorem setHk_noteAt (n : Nat) (h : HkRec) : (setHk d n h).noteAt = d.noteAt := rfl
@[simp] theorem setHk_ageing (n : Nat) (h : HkRec) : (setHk d n h).ageing = d.ageing := rfl
@[simp] theorem setHk_sramBad (n : Nat) (h : HkRec) : (setHk d n h).sramBad = d.sramBad := rfl
@[simp] theorem setHk_rstWait (n : Nat) (h : HkRec) : (setHk d n h).rstWait = d.rstWait := rfl
@[simp] theorem setHk_lifeUj (n : Nat) (h : HkRec) : (setHk d n h).lifeUj = d.lifeUj := rfl
@[simp] theorem setHk_wearBarked (n : Nat) (h : HkRec) : (setHk d n h).wearBarked = d.wearBarked := rfl
@[simp] theorem setHk_erases (n : Nat) (h : HkRec) : (setHk d n h).erases = d.erases := rfl

/-! ## setAcct -/

@[simp] theorem setAcct_kind (k : Nat) (a : Option Acct) : (setAcct d k a).kind = d.kind := rfl
@[simp] theorem setAcct_regs (k : Nat) (a : Option Acct) : (setAcct d k a).regs = d.regs := rfl
@[simp] theorem setAcct_guards (k : Nat) (a : Option Acct) : (setAcct d k a).guards = d.guards := rfl
@[simp] theorem setAcct_cores (k : Nat) (a : Option Acct) : (setAcct d k a).cores = d.cores := rfl
@[simp] theorem setAcct_spares (k : Nat) (a : Option Acct) : (setAcct d k a).spares = d.spares := rfl
@[simp] theorem setAcct_ports (k : Nat) (a : Option Acct) : (setAcct d k a).ports = d.ports := rfl
@[simp] theorem setAcct_slices (k : Nat) (a : Option Acct) : (setAcct d k a).slices = d.slices := rfl
@[simp] theorem setAcct_badSlice (k : Nat) (a : Option Acct) : (setAcct d k a).badSlice = d.badSlice := rfl
@[simp] theorem setAcct_rings (k : Nat) (a : Option Acct) : (setAcct d k a).rings = d.rings := rfl
@[simp] theorem setAcct_wmsgs (k : Nat) (a : Option Acct) : (setAcct d k a).wmsgs = d.wmsgs := rfl
@[simp] theorem setAcct_wseq (k : Nat) (a : Option Acct) : (setAcct d k a).wseq = d.wseq := rfl
@[simp] theorem setAcct_towers (k : Nat) (a : Option Acct) : (setAcct d k a).towers = d.towers := rfl
@[simp] theorem setAcct_links (k : Nat) (a : Option Acct) : (setAcct d k a).links = d.links := rfl
@[simp] theorem setAcct_chans (k : Nat) (a : Option Acct) : (setAcct d k a).chans = d.chans := rfl
@[simp] theorem setAcct_bundles (k : Nat) (a : Option Acct) : (setAcct d k a).bundles = d.bundles := rfl
@[simp] theorem setAcct_evt (k : Nat) (a : Option Acct) : (setAcct d k a).evt = d.evt := rfl
@[simp] theorem setAcct_events (k : Nat) (a : Option Acct) : (setAcct d k a).events = d.events := rfl
@[simp] theorem setAcct_freeN (k : Nat) (a : Option Acct) : (setAcct d k a).freeN = d.freeN := rfl
@[simp] theorem setAcct_estSnap (k : Nat) (a : Option Acct) : (setAcct d k a).estSnap = d.estSnap := rfl
@[simp] theorem setAcct_direct (k : Nat) (a : Option Acct) : (setAcct d k a).direct = d.direct := rfl
@[simp] theorem setAcct_kenl (k : Nat) (a : Option Acct) : (setAcct d k a).kenl = d.kenl := rfl
@[simp] theorem setAcct_fieldFuse (k : Nat) (a : Option Acct) : (setAcct d k a).fieldFuse = d.fieldFuse := rfl
@[simp] theorem setAcct_log (k : Nat) (a : Option Acct) : (setAcct d k a).log = d.log := rfl
@[simp] theorem setAcct_saved (k : Nat) (a : Option Acct) : (setAcct d k a).saved = d.saved := rfl
@[simp] theorem setAcct_fuseMaps (k : Nat) (a : Option Acct) : (setAcct d k a).fuseMaps = d.fuseMaps := rfl
@[simp] theorem setAcct_sens (k : Nat) (a : Option Acct) : (setAcct d k a).sens = d.sens := rfl
@[simp] theorem setAcct_narta (k : Nat) (a : Option Acct) : (setAcct d k a).narta = d.narta := rfl
@[simp] theorem setAcct_failover (k : Nat) (a : Option Acct) : (setAcct d k a).failover = d.failover := rfl
@[simp] theorem setAcct_heldTlps (k : Nat) (a : Option Acct) : (setAcct d k a).heldTlps = d.heldTlps := rfl
@[simp] theorem setAcct_change (k : Nat) (a : Option Acct) : (setAcct d k a).change = d.change := rfl
@[simp] theorem setAcct_changeTlps (k : Nat) (a : Option Acct) : (setAcct d k a).changeTlps = d.changeTlps := rfl
@[simp] theorem setAcct_jobs (k : Nat) (a : Option Acct) : (setAcct d k a).jobs = d.jobs := rfl
@[simp] theorem setAcct_nextJob (k : Nat) (a : Option Acct) : (setAcct d k a).nextJob = d.nextJob := rfl
@[simp] theorem setAcct_plans (k : Nat) (a : Option Acct) : (setAcct d k a).plans = d.plans := rfl
@[simp] theorem setAcct_rqs (k : Nat) (a : Option Acct) : (setAcct d k a).rqs = d.rqs := rfl
@[simp] theorem setAcct_items (k : Nat) (a : Option Acct) : (setAcct d k a).items = d.items := rfl
@[simp] theorem setAcct_nextItem (k : Nat) (a : Option Acct) : (setAcct d k a).nextItem = d.nextItem := rfl
@[simp] theorem setAcct_hk (k : Nat) (a : Option Acct) : (setAcct d k a).hk = d.hk := rfl
@[simp] theorem setAcct_period (k : Nat) (a : Option Acct) : (setAcct d k a).period = d.period := rfl
@[simp] theorem setAcct_series (k : Nat) (a : Option Acct) : (setAcct d k a).series = d.series := rfl
@[simp] theorem setAcct_batch (k : Nat) (a : Option Acct) : (setAcct d k a).batch = d.batch := rfl
@[simp] theorem setAcct_batches (k : Nat) (a : Option Acct) : (setAcct d k a).batches = d.batches := rfl
@[simp] theorem setAcct_rcptQ (k : Nat) (a : Option Acct) : (setAcct d k a).rcptQ = d.rcptQ := rfl
@[simp] theorem setAcct_rcptTail (k : Nat) (a : Option Acct) : (setAcct d k a).rcptTail = d.rcptTail := rfl
@[simp] theorem setAcct_rcptPhase (k : Nat) (a : Option Acct) : (setAcct d k a).rcptPhase = d.rcptPhase := rfl
@[simp] theorem setAcct_quads (k : Nat) (a : Option Acct) : (setAcct d k a).quads = d.quads := rfl
@[simp] theorem setAcct_zones (k : Nat) (a : Option Acct) : (setAcct d k a).zones = d.zones := rfl
@[simp] theorem setAcct_heat (k : Nat) (a : Option Acct) : (setAcct d k a).heat = d.heat := rfl
@[simp] theorem setAcct_shared (k : Nat) (a : Option Acct) : (setAcct d k a).shared = d.shared := rfl
@[simp] theorem setAcct_eacc (k : Nat) (a : Option Acct) : (setAcct d k a).eacc = d.eacc := rfl
@[simp] theorem setAcct_gapEst (k : Nat) (a : Option Acct) : (setAcct d k a).gapEst = d.gapEst := rfl
@[simp] theorem setAcct_gapN (k : Nat) (a : Option Acct) : (setAcct d k a).gapN = d.gapN := rfl
@[simp] theorem setAcct_resid (k : Nat) (a : Option Acct) : (setAcct d k a).resid = d.resid := rfl
@[simp] theorem setAcct_boot (k : Nat) (a : Option Acct) : (setAcct d k a).boot = d.boot := rfl
@[simp] theorem setAcct_drain (k : Nat) (a : Option Acct) : (setAcct d k a).drain = d.drain := rfl
@[simp] theorem setAcct_slots (k : Nat) (a : Option Acct) : (setAcct d k a).slots = d.slots := rfl
@[simp] theorem setAcct_rollback (k : Nat) (a : Option Acct) : (setAcct d k a).rollback = d.rollback := rfl
@[simp] theorem setAcct_mkBanks (k : Nat) (a : Option Acct) : (setAcct d k a).mkBanks = d.mkBanks := rfl
@[simp] theorem setAcct_report (k : Nat) (a : Option Acct) : (setAcct d k a).report = d.report := rfl
@[simp] theorem setAcct_thermtrip (k : Nat) (a : Option Acct) : (setAcct d k a).thermtrip = d.thermtrip := rfl
@[simp] theorem setAcct_alertPin (k : Nat) (a : Option Acct) : (setAcct d k a).alertPin = d.alertPin := rfl
@[simp] theorem setAcct_smb (k : Nat) (a : Option Acct) : (setAcct d k a).smb = d.smb := rfl
@[simp] theorem setAcct_jtag (k : Nat) (a : Option Acct) : (setAcct d k a).jtag = d.jtag := rfl
@[simp] theorem setAcct_ticks (k : Nat) (a : Option Acct) : (setAcct d k a).ticks = d.ticks := rfl
@[simp] theorem setAcct_notes (k : Nat) (a : Option Acct) : (setAcct d k a).notes = d.notes := rfl
@[simp] theorem setAcct_note (k : Nat) (a : Option Acct) : (setAcct d k a).note = d.note := rfl
@[simp] theorem setAcct_noteAt (k : Nat) (a : Option Acct) : (setAcct d k a).noteAt = d.noteAt := rfl
@[simp] theorem setAcct_ageing (k : Nat) (a : Option Acct) : (setAcct d k a).ageing = d.ageing := rfl
@[simp] theorem setAcct_sramBad (k : Nat) (a : Option Acct) : (setAcct d k a).sramBad = d.sramBad := rfl
@[simp] theorem setAcct_rstWait (k : Nat) (a : Option Acct) : (setAcct d k a).rstWait = d.rstWait := rfl
@[simp] theorem setAcct_lifeUj (k : Nat) (a : Option Acct) : (setAcct d k a).lifeUj = d.lifeUj := rfl
@[simp] theorem setAcct_wearBarked (k : Nat) (a : Option Acct) : (setAcct d k a).wearBarked = d.wearBarked := rfl
@[simp] theorem setAcct_erases (k : Nat) (a : Option Acct) : (setAcct d k a).erases = d.erases := rfl

/-! ## event -/

@[simp] theorem event_kind (e : UnitEv) : (event d e).kind = d.kind := rfl
@[simp] theorem event_regs (e : UnitEv) : (event d e).regs = d.regs := rfl
@[simp] theorem event_guards (e : UnitEv) : (event d e).guards = d.guards := rfl
@[simp] theorem event_cores (e : UnitEv) : (event d e).cores = d.cores := rfl
@[simp] theorem event_spares (e : UnitEv) : (event d e).spares = d.spares := rfl
@[simp] theorem event_ports (e : UnitEv) : (event d e).ports = d.ports := rfl
@[simp] theorem event_slices (e : UnitEv) : (event d e).slices = d.slices := rfl
@[simp] theorem event_badSlice (e : UnitEv) : (event d e).badSlice = d.badSlice := rfl
@[simp] theorem event_rings (e : UnitEv) : (event d e).rings = d.rings := rfl
@[simp] theorem event_wmsgs (e : UnitEv) : (event d e).wmsgs = d.wmsgs := rfl
@[simp] theorem event_wseq (e : UnitEv) : (event d e).wseq = d.wseq := rfl
@[simp] theorem event_towers (e : UnitEv) : (event d e).towers = d.towers := rfl
@[simp] theorem event_links (e : UnitEv) : (event d e).links = d.links := rfl
@[simp] theorem event_chans (e : UnitEv) : (event d e).chans = d.chans := rfl
@[simp] theorem event_bundles (e : UnitEv) : (event d e).bundles = d.bundles := rfl
@[simp] theorem event_evt (e : UnitEv) : (event d e).evt = d.evt := rfl
@[simp] theorem event_freeN (e : UnitEv) : (event d e).freeN = d.freeN := rfl
@[simp] theorem event_estSnap (e : UnitEv) : (event d e).estSnap = d.estSnap := rfl
@[simp] theorem event_direct (e : UnitEv) : (event d e).direct = d.direct := rfl
@[simp] theorem event_kenl (e : UnitEv) : (event d e).kenl = d.kenl := rfl
@[simp] theorem event_fieldFuse (e : UnitEv) : (event d e).fieldFuse = d.fieldFuse := rfl
@[simp] theorem event_log (e : UnitEv) : (event d e).log = d.log := rfl
@[simp] theorem event_saved (e : UnitEv) : (event d e).saved = d.saved := rfl
@[simp] theorem event_fuseMaps (e : UnitEv) : (event d e).fuseMaps = d.fuseMaps := rfl
@[simp] theorem event_sens (e : UnitEv) : (event d e).sens = d.sens := rfl
@[simp] theorem event_narta (e : UnitEv) : (event d e).narta = d.narta := rfl
@[simp] theorem event_failover (e : UnitEv) : (event d e).failover = d.failover := rfl
@[simp] theorem event_heldTlps (e : UnitEv) : (event d e).heldTlps = d.heldTlps := rfl
@[simp] theorem event_change (e : UnitEv) : (event d e).change = d.change := rfl
@[simp] theorem event_changeTlps (e : UnitEv) : (event d e).changeTlps = d.changeTlps := rfl
@[simp] theorem event_jobs (e : UnitEv) : (event d e).jobs = d.jobs := rfl
@[simp] theorem event_nextJob (e : UnitEv) : (event d e).nextJob = d.nextJob := rfl
@[simp] theorem event_plans (e : UnitEv) : (event d e).plans = d.plans := rfl
@[simp] theorem event_rqs (e : UnitEv) : (event d e).rqs = d.rqs := rfl
@[simp] theorem event_items (e : UnitEv) : (event d e).items = d.items := rfl
@[simp] theorem event_nextItem (e : UnitEv) : (event d e).nextItem = d.nextItem := rfl
@[simp] theorem event_hk (e : UnitEv) : (event d e).hk = d.hk := rfl
@[simp] theorem event_accts (e : UnitEv) : (event d e).accts = d.accts := rfl
@[simp] theorem event_period (e : UnitEv) : (event d e).period = d.period := rfl
@[simp] theorem event_series (e : UnitEv) : (event d e).series = d.series := rfl
@[simp] theorem event_batch (e : UnitEv) : (event d e).batch = d.batch := rfl
@[simp] theorem event_batches (e : UnitEv) : (event d e).batches = d.batches := rfl
@[simp] theorem event_rcptQ (e : UnitEv) : (event d e).rcptQ = d.rcptQ := rfl
@[simp] theorem event_rcptTail (e : UnitEv) : (event d e).rcptTail = d.rcptTail := rfl
@[simp] theorem event_rcptPhase (e : UnitEv) : (event d e).rcptPhase = d.rcptPhase := rfl
@[simp] theorem event_quads (e : UnitEv) : (event d e).quads = d.quads := rfl
@[simp] theorem event_zones (e : UnitEv) : (event d e).zones = d.zones := rfl
@[simp] theorem event_heat (e : UnitEv) : (event d e).heat = d.heat := rfl
@[simp] theorem event_shared (e : UnitEv) : (event d e).shared = d.shared := rfl
@[simp] theorem event_eacc (e : UnitEv) : (event d e).eacc = d.eacc := rfl
@[simp] theorem event_gapEst (e : UnitEv) : (event d e).gapEst = d.gapEst := rfl
@[simp] theorem event_gapN (e : UnitEv) : (event d e).gapN = d.gapN := rfl
@[simp] theorem event_resid (e : UnitEv) : (event d e).resid = d.resid := rfl
@[simp] theorem event_boot (e : UnitEv) : (event d e).boot = d.boot := rfl
@[simp] theorem event_drain (e : UnitEv) : (event d e).drain = d.drain := rfl
@[simp] theorem event_slots (e : UnitEv) : (event d e).slots = d.slots := rfl
@[simp] theorem event_rollback (e : UnitEv) : (event d e).rollback = d.rollback := rfl
@[simp] theorem event_mkBanks (e : UnitEv) : (event d e).mkBanks = d.mkBanks := rfl
@[simp] theorem event_report (e : UnitEv) : (event d e).report = d.report := rfl
@[simp] theorem event_thermtrip (e : UnitEv) : (event d e).thermtrip = d.thermtrip := rfl
@[simp] theorem event_alertPin (e : UnitEv) : (event d e).alertPin = d.alertPin := rfl
@[simp] theorem event_smb (e : UnitEv) : (event d e).smb = d.smb := rfl
@[simp] theorem event_jtag (e : UnitEv) : (event d e).jtag = d.jtag := rfl
@[simp] theorem event_ticks (e : UnitEv) : (event d e).ticks = d.ticks := rfl
@[simp] theorem event_notes (e : UnitEv) : (event d e).notes = d.notes := rfl
@[simp] theorem event_note (e : UnitEv) : (event d e).note = d.note := rfl
@[simp] theorem event_noteAt (e : UnitEv) : (event d e).noteAt = d.noteAt := rfl
@[simp] theorem event_ageing (e : UnitEv) : (event d e).ageing = d.ageing := rfl
@[simp] theorem event_sramBad (e : UnitEv) : (event d e).sramBad = d.sramBad := rfl
@[simp] theorem event_rstWait (e : UnitEv) : (event d e).rstWait = d.rstWait := rfl
@[simp] theorem event_lifeUj (e : UnitEv) : (event d e).lifeUj = d.lifeUj := rfl
@[simp] theorem event_wearBarked (e : UnitEv) : (event d e).wearBarked = d.wearBarked := rfl
@[simp] theorem event_erases (e : UnitEv) : (event d e).erases = d.erases := rfl

/-! ## bark -/

@[simp] theorem bark_kind (y s k v : Nat) (p t : Option Nat) (l : List Byte) : (bark d y s k v p t l).kind = d.kind := rfl
@[simp] theorem bark_regs (y s k v : Nat) (p t : Option Nat) (l : List Byte) : (bark d y s k v p t l).regs = d.regs := rfl
@[simp] theorem bark_guards (y s k v : Nat) (p t : Option Nat) (l : List Byte) : (bark d y s k v p t l).guards = d.guards := rfl
@[simp] theorem bark_cores (y s k v : Nat) (p t : Option Nat) (l : List Byte) : (bark d y s k v p t l).cores = d.cores := rfl
@[simp] theorem bark_spares (y s k v : Nat) (p t : Option Nat) (l : List Byte) : (bark d y s k v p t l).spares = d.spares := rfl
@[simp] theorem bark_ports (y s k v : Nat) (p t : Option Nat) (l : List Byte) : (bark d y s k v p t l).ports = d.ports := rfl
@[simp] theorem bark_slices (y s k v : Nat) (p t : Option Nat) (l : List Byte) : (bark d y s k v p t l).slices = d.slices := rfl
@[simp] theorem bark_badSlice (y s k v : Nat) (p t : Option Nat) (l : List Byte) : (bark d y s k v p t l).badSlice = d.badSlice := rfl
@[simp] theorem bark_rings (y s k v : Nat) (p t : Option Nat) (l : List Byte) : (bark d y s k v p t l).rings = d.rings := rfl
@[simp] theorem bark_wmsgs (y s k v : Nat) (p t : Option Nat) (l : List Byte) : (bark d y s k v p t l).wmsgs = d.wmsgs := rfl
@[simp] theorem bark_wseq (y s k v : Nat) (p t : Option Nat) (l : List Byte) : (bark d y s k v p t l).wseq = d.wseq := rfl
@[simp] theorem bark_towers (y s k v : Nat) (p t : Option Nat) (l : List Byte) : (bark d y s k v p t l).towers = d.towers := rfl
@[simp] theorem bark_links (y s k v : Nat) (p t : Option Nat) (l : List Byte) : (bark d y s k v p t l).links = d.links := rfl
@[simp] theorem bark_chans (y s k v : Nat) (p t : Option Nat) (l : List Byte) : (bark d y s k v p t l).chans = d.chans := rfl
@[simp] theorem bark_bundles (y s k v : Nat) (p t : Option Nat) (l : List Byte) : (bark d y s k v p t l).bundles = d.bundles := rfl
@[simp] theorem bark_events (y s k v : Nat) (p t : Option Nat) (l : List Byte) : (bark d y s k v p t l).events = d.events := rfl
@[simp] theorem bark_freeN (y s k v : Nat) (p t : Option Nat) (l : List Byte) : (bark d y s k v p t l).freeN = d.freeN := rfl
@[simp] theorem bark_estSnap (y s k v : Nat) (p t : Option Nat) (l : List Byte) : (bark d y s k v p t l).estSnap = d.estSnap := rfl
@[simp] theorem bark_direct (y s k v : Nat) (p t : Option Nat) (l : List Byte) : (bark d y s k v p t l).direct = d.direct := rfl
@[simp] theorem bark_kenl (y s k v : Nat) (p t : Option Nat) (l : List Byte) : (bark d y s k v p t l).kenl = d.kenl := rfl
@[simp] theorem bark_fieldFuse (y s k v : Nat) (p t : Option Nat) (l : List Byte) : (bark d y s k v p t l).fieldFuse = d.fieldFuse := rfl
@[simp] theorem bark_log (y s k v : Nat) (p t : Option Nat) (l : List Byte) : (bark d y s k v p t l).log = d.log := rfl
@[simp] theorem bark_saved (y s k v : Nat) (p t : Option Nat) (l : List Byte) : (bark d y s k v p t l).saved = d.saved := rfl
@[simp] theorem bark_fuseMaps (y s k v : Nat) (p t : Option Nat) (l : List Byte) : (bark d y s k v p t l).fuseMaps = d.fuseMaps := rfl
@[simp] theorem bark_sens (y s k v : Nat) (p t : Option Nat) (l : List Byte) : (bark d y s k v p t l).sens = d.sens := rfl
@[simp] theorem bark_narta (y s k v : Nat) (p t : Option Nat) (l : List Byte) : (bark d y s k v p t l).narta = d.narta := rfl
@[simp] theorem bark_failover (y s k v : Nat) (p t : Option Nat) (l : List Byte) : (bark d y s k v p t l).failover = d.failover := rfl
@[simp] theorem bark_heldTlps (y s k v : Nat) (p t : Option Nat) (l : List Byte) : (bark d y s k v p t l).heldTlps = d.heldTlps := rfl
@[simp] theorem bark_change (y s k v : Nat) (p t : Option Nat) (l : List Byte) : (bark d y s k v p t l).change = d.change := rfl
@[simp] theorem bark_changeTlps (y s k v : Nat) (p t : Option Nat) (l : List Byte) : (bark d y s k v p t l).changeTlps = d.changeTlps := rfl
@[simp] theorem bark_jobs (y s k v : Nat) (p t : Option Nat) (l : List Byte) : (bark d y s k v p t l).jobs = d.jobs := rfl
@[simp] theorem bark_nextJob (y s k v : Nat) (p t : Option Nat) (l : List Byte) : (bark d y s k v p t l).nextJob = d.nextJob := rfl
@[simp] theorem bark_plans (y s k v : Nat) (p t : Option Nat) (l : List Byte) : (bark d y s k v p t l).plans = d.plans := rfl
@[simp] theorem bark_rqs (y s k v : Nat) (p t : Option Nat) (l : List Byte) : (bark d y s k v p t l).rqs = d.rqs := rfl
@[simp] theorem bark_items (y s k v : Nat) (p t : Option Nat) (l : List Byte) : (bark d y s k v p t l).items = d.items := rfl
@[simp] theorem bark_nextItem (y s k v : Nat) (p t : Option Nat) (l : List Byte) : (bark d y s k v p t l).nextItem = d.nextItem := rfl
@[simp] theorem bark_hk (y s k v : Nat) (p t : Option Nat) (l : List Byte) : (bark d y s k v p t l).hk = d.hk := rfl
@[simp] theorem bark_accts (y s k v : Nat) (p t : Option Nat) (l : List Byte) : (bark d y s k v p t l).accts = d.accts := rfl
@[simp] theorem bark_period (y s k v : Nat) (p t : Option Nat) (l : List Byte) : (bark d y s k v p t l).period = d.period := rfl
@[simp] theorem bark_series (y s k v : Nat) (p t : Option Nat) (l : List Byte) : (bark d y s k v p t l).series = d.series := rfl
@[simp] theorem bark_batch (y s k v : Nat) (p t : Option Nat) (l : List Byte) : (bark d y s k v p t l).batch = d.batch := rfl
@[simp] theorem bark_batches (y s k v : Nat) (p t : Option Nat) (l : List Byte) : (bark d y s k v p t l).batches = d.batches := rfl
@[simp] theorem bark_rcptQ (y s k v : Nat) (p t : Option Nat) (l : List Byte) : (bark d y s k v p t l).rcptQ = d.rcptQ := rfl
@[simp] theorem bark_rcptTail (y s k v : Nat) (p t : Option Nat) (l : List Byte) : (bark d y s k v p t l).rcptTail = d.rcptTail := rfl
@[simp] theorem bark_rcptPhase (y s k v : Nat) (p t : Option Nat) (l : List Byte) : (bark d y s k v p t l).rcptPhase = d.rcptPhase := rfl
@[simp] theorem bark_quads (y s k v : Nat) (p t : Option Nat) (l : List Byte) : (bark d y s k v p t l).quads = d.quads := rfl
@[simp] theorem bark_zones (y s k v : Nat) (p t : Option Nat) (l : List Byte) : (bark d y s k v p t l).zones = d.zones := rfl
@[simp] theorem bark_heat (y s k v : Nat) (p t : Option Nat) (l : List Byte) : (bark d y s k v p t l).heat = d.heat := rfl
@[simp] theorem bark_shared (y s k v : Nat) (p t : Option Nat) (l : List Byte) : (bark d y s k v p t l).shared = d.shared := rfl
@[simp] theorem bark_eacc (y s k v : Nat) (p t : Option Nat) (l : List Byte) : (bark d y s k v p t l).eacc = d.eacc := rfl
@[simp] theorem bark_gapEst (y s k v : Nat) (p t : Option Nat) (l : List Byte) : (bark d y s k v p t l).gapEst = d.gapEst := rfl
@[simp] theorem bark_gapN (y s k v : Nat) (p t : Option Nat) (l : List Byte) : (bark d y s k v p t l).gapN = d.gapN := rfl
@[simp] theorem bark_resid (y s k v : Nat) (p t : Option Nat) (l : List Byte) : (bark d y s k v p t l).resid = d.resid := rfl
@[simp] theorem bark_boot (y s k v : Nat) (p t : Option Nat) (l : List Byte) : (bark d y s k v p t l).boot = d.boot := rfl
@[simp] theorem bark_drain (y s k v : Nat) (p t : Option Nat) (l : List Byte) : (bark d y s k v p t l).drain = d.drain := rfl
@[simp] theorem bark_slots (y s k v : Nat) (p t : Option Nat) (l : List Byte) : (bark d y s k v p t l).slots = d.slots := rfl
@[simp] theorem bark_rollback (y s k v : Nat) (p t : Option Nat) (l : List Byte) : (bark d y s k v p t l).rollback = d.rollback := rfl
@[simp] theorem bark_mkBanks (y s k v : Nat) (p t : Option Nat) (l : List Byte) : (bark d y s k v p t l).mkBanks = d.mkBanks := rfl
@[simp] theorem bark_report (y s k v : Nat) (p t : Option Nat) (l : List Byte) : (bark d y s k v p t l).report = d.report := rfl
@[simp] theorem bark_thermtrip (y s k v : Nat) (p t : Option Nat) (l : List Byte) : (bark d y s k v p t l).thermtrip = d.thermtrip := rfl
@[simp] theorem bark_alertPin (y s k v : Nat) (p t : Option Nat) (l : List Byte) : (bark d y s k v p t l).alertPin = d.alertPin := rfl
@[simp] theorem bark_smb (y s k v : Nat) (p t : Option Nat) (l : List Byte) : (bark d y s k v p t l).smb = d.smb := rfl
@[simp] theorem bark_jtag (y s k v : Nat) (p t : Option Nat) (l : List Byte) : (bark d y s k v p t l).jtag = d.jtag := rfl
@[simp] theorem bark_ticks (y s k v : Nat) (p t : Option Nat) (l : List Byte) : (bark d y s k v p t l).ticks = d.ticks := rfl
@[simp] theorem bark_notes (y s k v : Nat) (p t : Option Nat) (l : List Byte) : (bark d y s k v p t l).notes = d.notes := rfl
@[simp] theorem bark_note (y s k v : Nat) (p t : Option Nat) (l : List Byte) : (bark d y s k v p t l).note = d.note := rfl
@[simp] theorem bark_noteAt (y s k v : Nat) (p t : Option Nat) (l : List Byte) : (bark d y s k v p t l).noteAt = d.noteAt := rfl
@[simp] theorem bark_ageing (y s k v : Nat) (p t : Option Nat) (l : List Byte) : (bark d y s k v p t l).ageing = d.ageing := rfl
@[simp] theorem bark_sramBad (y s k v : Nat) (p t : Option Nat) (l : List Byte) : (bark d y s k v p t l).sramBad = d.sramBad := rfl
@[simp] theorem bark_rstWait (y s k v : Nat) (p t : Option Nat) (l : List Byte) : (bark d y s k v p t l).rstWait = d.rstWait := rfl
@[simp] theorem bark_lifeUj (y s k v : Nat) (p t : Option Nat) (l : List Byte) : (bark d y s k v p t l).lifeUj = d.lifeUj := rfl
@[simp] theorem bark_wearBarked (y s k v : Nat) (p t : Option Nat) (l : List Byte) : (bark d y s k v p t l).wearBarked = d.wearBarked := rfl
@[simp] theorem bark_erases (y s k v : Nat) (p t : Option Nat) (l : List Byte) : (bark d y s k v p t l).erases = d.erases := rfl

/-! ## setBootDie -/

@[simp] theorem setBootDie_kind (k : Nat) (x : BootDie) : (setBootDie d k x).kind = d.kind := rfl
@[simp] theorem setBootDie_regs (k : Nat) (x : BootDie) : (setBootDie d k x).regs = d.regs := rfl
@[simp] theorem setBootDie_guards (k : Nat) (x : BootDie) : (setBootDie d k x).guards = d.guards := rfl
@[simp] theorem setBootDie_cores (k : Nat) (x : BootDie) : (setBootDie d k x).cores = d.cores := rfl
@[simp] theorem setBootDie_spares (k : Nat) (x : BootDie) : (setBootDie d k x).spares = d.spares := rfl
@[simp] theorem setBootDie_ports (k : Nat) (x : BootDie) : (setBootDie d k x).ports = d.ports := rfl
@[simp] theorem setBootDie_slices (k : Nat) (x : BootDie) : (setBootDie d k x).slices = d.slices := rfl
@[simp] theorem setBootDie_badSlice (k : Nat) (x : BootDie) : (setBootDie d k x).badSlice = d.badSlice := rfl
@[simp] theorem setBootDie_rings (k : Nat) (x : BootDie) : (setBootDie d k x).rings = d.rings := rfl
@[simp] theorem setBootDie_wmsgs (k : Nat) (x : BootDie) : (setBootDie d k x).wmsgs = d.wmsgs := rfl
@[simp] theorem setBootDie_wseq (k : Nat) (x : BootDie) : (setBootDie d k x).wseq = d.wseq := rfl
@[simp] theorem setBootDie_towers (k : Nat) (x : BootDie) : (setBootDie d k x).towers = d.towers := rfl
@[simp] theorem setBootDie_links (k : Nat) (x : BootDie) : (setBootDie d k x).links = d.links := rfl
@[simp] theorem setBootDie_chans (k : Nat) (x : BootDie) : (setBootDie d k x).chans = d.chans := rfl
@[simp] theorem setBootDie_bundles (k : Nat) (x : BootDie) : (setBootDie d k x).bundles = d.bundles := rfl
@[simp] theorem setBootDie_evt (k : Nat) (x : BootDie) : (setBootDie d k x).evt = d.evt := rfl
@[simp] theorem setBootDie_events (k : Nat) (x : BootDie) : (setBootDie d k x).events = d.events := rfl
@[simp] theorem setBootDie_freeN (k : Nat) (x : BootDie) : (setBootDie d k x).freeN = d.freeN := rfl
@[simp] theorem setBootDie_estSnap (k : Nat) (x : BootDie) : (setBootDie d k x).estSnap = d.estSnap := rfl
@[simp] theorem setBootDie_direct (k : Nat) (x : BootDie) : (setBootDie d k x).direct = d.direct := rfl
@[simp] theorem setBootDie_kenl (k : Nat) (x : BootDie) : (setBootDie d k x).kenl = d.kenl := rfl
@[simp] theorem setBootDie_fieldFuse (k : Nat) (x : BootDie) : (setBootDie d k x).fieldFuse = d.fieldFuse := rfl
@[simp] theorem setBootDie_log (k : Nat) (x : BootDie) : (setBootDie d k x).log = d.log := rfl
@[simp] theorem setBootDie_saved (k : Nat) (x : BootDie) : (setBootDie d k x).saved = d.saved := rfl
@[simp] theorem setBootDie_fuseMaps (k : Nat) (x : BootDie) : (setBootDie d k x).fuseMaps = d.fuseMaps := rfl
@[simp] theorem setBootDie_sens (k : Nat) (x : BootDie) : (setBootDie d k x).sens = d.sens := rfl
@[simp] theorem setBootDie_narta (k : Nat) (x : BootDie) : (setBootDie d k x).narta = d.narta := rfl
@[simp] theorem setBootDie_failover (k : Nat) (x : BootDie) : (setBootDie d k x).failover = d.failover := rfl
@[simp] theorem setBootDie_heldTlps (k : Nat) (x : BootDie) : (setBootDie d k x).heldTlps = d.heldTlps := rfl
@[simp] theorem setBootDie_change (k : Nat) (x : BootDie) : (setBootDie d k x).change = d.change := rfl
@[simp] theorem setBootDie_changeTlps (k : Nat) (x : BootDie) : (setBootDie d k x).changeTlps = d.changeTlps := rfl
@[simp] theorem setBootDie_jobs (k : Nat) (x : BootDie) : (setBootDie d k x).jobs = d.jobs := rfl
@[simp] theorem setBootDie_nextJob (k : Nat) (x : BootDie) : (setBootDie d k x).nextJob = d.nextJob := rfl
@[simp] theorem setBootDie_plans (k : Nat) (x : BootDie) : (setBootDie d k x).plans = d.plans := rfl
@[simp] theorem setBootDie_rqs (k : Nat) (x : BootDie) : (setBootDie d k x).rqs = d.rqs := rfl
@[simp] theorem setBootDie_items (k : Nat) (x : BootDie) : (setBootDie d k x).items = d.items := rfl
@[simp] theorem setBootDie_nextItem (k : Nat) (x : BootDie) : (setBootDie d k x).nextItem = d.nextItem := rfl
@[simp] theorem setBootDie_hk (k : Nat) (x : BootDie) : (setBootDie d k x).hk = d.hk := rfl
@[simp] theorem setBootDie_accts (k : Nat) (x : BootDie) : (setBootDie d k x).accts = d.accts := rfl
@[simp] theorem setBootDie_period (k : Nat) (x : BootDie) : (setBootDie d k x).period = d.period := rfl
@[simp] theorem setBootDie_series (k : Nat) (x : BootDie) : (setBootDie d k x).series = d.series := rfl
@[simp] theorem setBootDie_batch (k : Nat) (x : BootDie) : (setBootDie d k x).batch = d.batch := rfl
@[simp] theorem setBootDie_batches (k : Nat) (x : BootDie) : (setBootDie d k x).batches = d.batches := rfl
@[simp] theorem setBootDie_rcptQ (k : Nat) (x : BootDie) : (setBootDie d k x).rcptQ = d.rcptQ := rfl
@[simp] theorem setBootDie_rcptTail (k : Nat) (x : BootDie) : (setBootDie d k x).rcptTail = d.rcptTail := rfl
@[simp] theorem setBootDie_rcptPhase (k : Nat) (x : BootDie) : (setBootDie d k x).rcptPhase = d.rcptPhase := rfl
@[simp] theorem setBootDie_quads (k : Nat) (x : BootDie) : (setBootDie d k x).quads = d.quads := rfl
@[simp] theorem setBootDie_zones (k : Nat) (x : BootDie) : (setBootDie d k x).zones = d.zones := rfl
@[simp] theorem setBootDie_heat (k : Nat) (x : BootDie) : (setBootDie d k x).heat = d.heat := rfl
@[simp] theorem setBootDie_shared (k : Nat) (x : BootDie) : (setBootDie d k x).shared = d.shared := rfl
@[simp] theorem setBootDie_eacc (k : Nat) (x : BootDie) : (setBootDie d k x).eacc = d.eacc := rfl
@[simp] theorem setBootDie_gapEst (k : Nat) (x : BootDie) : (setBootDie d k x).gapEst = d.gapEst := rfl
@[simp] theorem setBootDie_gapN (k : Nat) (x : BootDie) : (setBootDie d k x).gapN = d.gapN := rfl
@[simp] theorem setBootDie_resid (k : Nat) (x : BootDie) : (setBootDie d k x).resid = d.resid := rfl
@[simp] theorem setBootDie_drain (k : Nat) (x : BootDie) : (setBootDie d k x).drain = d.drain := rfl
@[simp] theorem setBootDie_slots (k : Nat) (x : BootDie) : (setBootDie d k x).slots = d.slots := rfl
@[simp] theorem setBootDie_rollback (k : Nat) (x : BootDie) : (setBootDie d k x).rollback = d.rollback := rfl
@[simp] theorem setBootDie_mkBanks (k : Nat) (x : BootDie) : (setBootDie d k x).mkBanks = d.mkBanks := rfl
@[simp] theorem setBootDie_report (k : Nat) (x : BootDie) : (setBootDie d k x).report = d.report := rfl
@[simp] theorem setBootDie_thermtrip (k : Nat) (x : BootDie) : (setBootDie d k x).thermtrip = d.thermtrip := rfl
@[simp] theorem setBootDie_alertPin (k : Nat) (x : BootDie) : (setBootDie d k x).alertPin = d.alertPin := rfl
@[simp] theorem setBootDie_smb (k : Nat) (x : BootDie) : (setBootDie d k x).smb = d.smb := rfl
@[simp] theorem setBootDie_jtag (k : Nat) (x : BootDie) : (setBootDie d k x).jtag = d.jtag := rfl
@[simp] theorem setBootDie_ticks (k : Nat) (x : BootDie) : (setBootDie d k x).ticks = d.ticks := rfl
@[simp] theorem setBootDie_notes (k : Nat) (x : BootDie) : (setBootDie d k x).notes = d.notes := rfl
@[simp] theorem setBootDie_note (k : Nat) (x : BootDie) : (setBootDie d k x).note = d.note := rfl
@[simp] theorem setBootDie_noteAt (k : Nat) (x : BootDie) : (setBootDie d k x).noteAt = d.noteAt := rfl
@[simp] theorem setBootDie_ageing (k : Nat) (x : BootDie) : (setBootDie d k x).ageing = d.ageing := rfl
@[simp] theorem setBootDie_sramBad (k : Nat) (x : BootDie) : (setBootDie d k x).sramBad = d.sramBad := rfl
@[simp] theorem setBootDie_rstWait (k : Nat) (x : BootDie) : (setBootDie d k x).rstWait = d.rstWait := rfl
@[simp] theorem setBootDie_lifeUj (k : Nat) (x : BootDie) : (setBootDie d k x).lifeUj = d.lifeUj := rfl
@[simp] theorem setBootDie_wearBarked (k : Nat) (x : BootDie) : (setBootDie d k x).wearBarked = d.wearBarked := rfl
@[simp] theorem setBootDie_erases (k : Nat) (x : BootDie) : (setBootDie d k x).erases = d.erases := rfl

/-! ## setQuad -/

@[simp] theorem setQuad_kind (k : Nat) (q : Quad) : (setQuad d k q).kind = d.kind := rfl
@[simp] theorem setQuad_regs (k : Nat) (q : Quad) : (setQuad d k q).regs = d.regs := rfl
@[simp] theorem setQuad_guards (k : Nat) (q : Quad) : (setQuad d k q).guards = d.guards := rfl
@[simp] theorem setQuad_cores (k : Nat) (q : Quad) : (setQuad d k q).cores = d.cores := rfl
@[simp] theorem setQuad_spares (k : Nat) (q : Quad) : (setQuad d k q).spares = d.spares := rfl
@[simp] theorem setQuad_ports (k : Nat) (q : Quad) : (setQuad d k q).ports = d.ports := rfl
@[simp] theorem setQuad_slices (k : Nat) (q : Quad) : (setQuad d k q).slices = d.slices := rfl
@[simp] theorem setQuad_badSlice (k : Nat) (q : Quad) : (setQuad d k q).badSlice = d.badSlice := rfl
@[simp] theorem setQuad_rings (k : Nat) (q : Quad) : (setQuad d k q).rings = d.rings := rfl
@[simp] theorem setQuad_wmsgs (k : Nat) (q : Quad) : (setQuad d k q).wmsgs = d.wmsgs := rfl
@[simp] theorem setQuad_wseq (k : Nat) (q : Quad) : (setQuad d k q).wseq = d.wseq := rfl
@[simp] theorem setQuad_towers (k : Nat) (q : Quad) : (setQuad d k q).towers = d.towers := rfl
@[simp] theorem setQuad_links (k : Nat) (q : Quad) : (setQuad d k q).links = d.links := rfl
@[simp] theorem setQuad_chans (k : Nat) (q : Quad) : (setQuad d k q).chans = d.chans := rfl
@[simp] theorem setQuad_bundles (k : Nat) (q : Quad) : (setQuad d k q).bundles = d.bundles := rfl
@[simp] theorem setQuad_evt (k : Nat) (q : Quad) : (setQuad d k q).evt = d.evt := rfl
@[simp] theorem setQuad_events (k : Nat) (q : Quad) : (setQuad d k q).events = d.events := rfl
@[simp] theorem setQuad_freeN (k : Nat) (q : Quad) : (setQuad d k q).freeN = d.freeN := rfl
@[simp] theorem setQuad_estSnap (k : Nat) (q : Quad) : (setQuad d k q).estSnap = d.estSnap := rfl
@[simp] theorem setQuad_direct (k : Nat) (q : Quad) : (setQuad d k q).direct = d.direct := rfl
@[simp] theorem setQuad_kenl (k : Nat) (q : Quad) : (setQuad d k q).kenl = d.kenl := rfl
@[simp] theorem setQuad_fieldFuse (k : Nat) (q : Quad) : (setQuad d k q).fieldFuse = d.fieldFuse := rfl
@[simp] theorem setQuad_log (k : Nat) (q : Quad) : (setQuad d k q).log = d.log := rfl
@[simp] theorem setQuad_saved (k : Nat) (q : Quad) : (setQuad d k q).saved = d.saved := rfl
@[simp] theorem setQuad_fuseMaps (k : Nat) (q : Quad) : (setQuad d k q).fuseMaps = d.fuseMaps := rfl
@[simp] theorem setQuad_sens (k : Nat) (q : Quad) : (setQuad d k q).sens = d.sens := rfl
@[simp] theorem setQuad_narta (k : Nat) (q : Quad) : (setQuad d k q).narta = d.narta := rfl
@[simp] theorem setQuad_failover (k : Nat) (q : Quad) : (setQuad d k q).failover = d.failover := rfl
@[simp] theorem setQuad_heldTlps (k : Nat) (q : Quad) : (setQuad d k q).heldTlps = d.heldTlps := rfl
@[simp] theorem setQuad_change (k : Nat) (q : Quad) : (setQuad d k q).change = d.change := rfl
@[simp] theorem setQuad_changeTlps (k : Nat) (q : Quad) : (setQuad d k q).changeTlps = d.changeTlps := rfl
@[simp] theorem setQuad_jobs (k : Nat) (q : Quad) : (setQuad d k q).jobs = d.jobs := rfl
@[simp] theorem setQuad_nextJob (k : Nat) (q : Quad) : (setQuad d k q).nextJob = d.nextJob := rfl
@[simp] theorem setQuad_plans (k : Nat) (q : Quad) : (setQuad d k q).plans = d.plans := rfl
@[simp] theorem setQuad_rqs (k : Nat) (q : Quad) : (setQuad d k q).rqs = d.rqs := rfl
@[simp] theorem setQuad_items (k : Nat) (q : Quad) : (setQuad d k q).items = d.items := rfl
@[simp] theorem setQuad_nextItem (k : Nat) (q : Quad) : (setQuad d k q).nextItem = d.nextItem := rfl
@[simp] theorem setQuad_hk (k : Nat) (q : Quad) : (setQuad d k q).hk = d.hk := rfl
@[simp] theorem setQuad_accts (k : Nat) (q : Quad) : (setQuad d k q).accts = d.accts := rfl
@[simp] theorem setQuad_period (k : Nat) (q : Quad) : (setQuad d k q).period = d.period := rfl
@[simp] theorem setQuad_series (k : Nat) (q : Quad) : (setQuad d k q).series = d.series := rfl
@[simp] theorem setQuad_batch (k : Nat) (q : Quad) : (setQuad d k q).batch = d.batch := rfl
@[simp] theorem setQuad_batches (k : Nat) (q : Quad) : (setQuad d k q).batches = d.batches := rfl
@[simp] theorem setQuad_rcptQ (k : Nat) (q : Quad) : (setQuad d k q).rcptQ = d.rcptQ := rfl
@[simp] theorem setQuad_rcptTail (k : Nat) (q : Quad) : (setQuad d k q).rcptTail = d.rcptTail := rfl
@[simp] theorem setQuad_rcptPhase (k : Nat) (q : Quad) : (setQuad d k q).rcptPhase = d.rcptPhase := rfl
@[simp] theorem setQuad_zones (k : Nat) (q : Quad) : (setQuad d k q).zones = d.zones := rfl
@[simp] theorem setQuad_heat (k : Nat) (q : Quad) : (setQuad d k q).heat = d.heat := rfl
@[simp] theorem setQuad_shared (k : Nat) (q : Quad) : (setQuad d k q).shared = d.shared := rfl
@[simp] theorem setQuad_eacc (k : Nat) (q : Quad) : (setQuad d k q).eacc = d.eacc := rfl
@[simp] theorem setQuad_gapEst (k : Nat) (q : Quad) : (setQuad d k q).gapEst = d.gapEst := rfl
@[simp] theorem setQuad_gapN (k : Nat) (q : Quad) : (setQuad d k q).gapN = d.gapN := rfl
@[simp] theorem setQuad_resid (k : Nat) (q : Quad) : (setQuad d k q).resid = d.resid := rfl
@[simp] theorem setQuad_boot (k : Nat) (q : Quad) : (setQuad d k q).boot = d.boot := rfl
@[simp] theorem setQuad_drain (k : Nat) (q : Quad) : (setQuad d k q).drain = d.drain := rfl
@[simp] theorem setQuad_slots (k : Nat) (q : Quad) : (setQuad d k q).slots = d.slots := rfl
@[simp] theorem setQuad_rollback (k : Nat) (q : Quad) : (setQuad d k q).rollback = d.rollback := rfl
@[simp] theorem setQuad_mkBanks (k : Nat) (q : Quad) : (setQuad d k q).mkBanks = d.mkBanks := rfl
@[simp] theorem setQuad_report (k : Nat) (q : Quad) : (setQuad d k q).report = d.report := rfl
@[simp] theorem setQuad_thermtrip (k : Nat) (q : Quad) : (setQuad d k q).thermtrip = d.thermtrip := rfl
@[simp] theorem setQuad_alertPin (k : Nat) (q : Quad) : (setQuad d k q).alertPin = d.alertPin := rfl
@[simp] theorem setQuad_smb (k : Nat) (q : Quad) : (setQuad d k q).smb = d.smb := rfl
@[simp] theorem setQuad_jtag (k : Nat) (q : Quad) : (setQuad d k q).jtag = d.jtag := rfl
@[simp] theorem setQuad_ticks (k : Nat) (q : Quad) : (setQuad d k q).ticks = d.ticks := rfl
@[simp] theorem setQuad_notes (k : Nat) (q : Quad) : (setQuad d k q).notes = d.notes := rfl
@[simp] theorem setQuad_note (k : Nat) (q : Quad) : (setQuad d k q).note = d.note := rfl
@[simp] theorem setQuad_noteAt (k : Nat) (q : Quad) : (setQuad d k q).noteAt = d.noteAt := rfl
@[simp] theorem setQuad_ageing (k : Nat) (q : Quad) : (setQuad d k q).ageing = d.ageing := rfl
@[simp] theorem setQuad_sramBad (k : Nat) (q : Quad) : (setQuad d k q).sramBad = d.sramBad := rfl
@[simp] theorem setQuad_rstWait (k : Nat) (q : Quad) : (setQuad d k q).rstWait = d.rstWait := rfl
@[simp] theorem setQuad_lifeUj (k : Nat) (q : Quad) : (setQuad d k q).lifeUj = d.lifeUj := rfl
@[simp] theorem setQuad_wearBarked (k : Nat) (q : Quad) : (setQuad d k q).wearBarked = d.wearBarked := rfl
@[simp] theorem setQuad_erases (k : Nat) (q : Quad) : (setQuad d k q).erases = d.erases := rfl

/-! ## setZone -/

@[simp] theorem setZone_kind (z : Nat) (x : Zone) : (setZone d z x).kind = d.kind := rfl
@[simp] theorem setZone_regs (z : Nat) (x : Zone) : (setZone d z x).regs = d.regs := rfl
@[simp] theorem setZone_guards (z : Nat) (x : Zone) : (setZone d z x).guards = d.guards := rfl
@[simp] theorem setZone_cores (z : Nat) (x : Zone) : (setZone d z x).cores = d.cores := rfl
@[simp] theorem setZone_spares (z : Nat) (x : Zone) : (setZone d z x).spares = d.spares := rfl
@[simp] theorem setZone_ports (z : Nat) (x : Zone) : (setZone d z x).ports = d.ports := rfl
@[simp] theorem setZone_slices (z : Nat) (x : Zone) : (setZone d z x).slices = d.slices := rfl
@[simp] theorem setZone_badSlice (z : Nat) (x : Zone) : (setZone d z x).badSlice = d.badSlice := rfl
@[simp] theorem setZone_rings (z : Nat) (x : Zone) : (setZone d z x).rings = d.rings := rfl
@[simp] theorem setZone_wmsgs (z : Nat) (x : Zone) : (setZone d z x).wmsgs = d.wmsgs := rfl
@[simp] theorem setZone_wseq (z : Nat) (x : Zone) : (setZone d z x).wseq = d.wseq := rfl
@[simp] theorem setZone_towers (z : Nat) (x : Zone) : (setZone d z x).towers = d.towers := rfl
@[simp] theorem setZone_links (z : Nat) (x : Zone) : (setZone d z x).links = d.links := rfl
@[simp] theorem setZone_chans (z : Nat) (x : Zone) : (setZone d z x).chans = d.chans := rfl
@[simp] theorem setZone_bundles (z : Nat) (x : Zone) : (setZone d z x).bundles = d.bundles := rfl
@[simp] theorem setZone_evt (z : Nat) (x : Zone) : (setZone d z x).evt = d.evt := rfl
@[simp] theorem setZone_events (z : Nat) (x : Zone) : (setZone d z x).events = d.events := rfl
@[simp] theorem setZone_freeN (z : Nat) (x : Zone) : (setZone d z x).freeN = d.freeN := rfl
@[simp] theorem setZone_estSnap (z : Nat) (x : Zone) : (setZone d z x).estSnap = d.estSnap := rfl
@[simp] theorem setZone_direct (z : Nat) (x : Zone) : (setZone d z x).direct = d.direct := rfl
@[simp] theorem setZone_kenl (z : Nat) (x : Zone) : (setZone d z x).kenl = d.kenl := rfl
@[simp] theorem setZone_fieldFuse (z : Nat) (x : Zone) : (setZone d z x).fieldFuse = d.fieldFuse := rfl
@[simp] theorem setZone_log (z : Nat) (x : Zone) : (setZone d z x).log = d.log := rfl
@[simp] theorem setZone_saved (z : Nat) (x : Zone) : (setZone d z x).saved = d.saved := rfl
@[simp] theorem setZone_fuseMaps (z : Nat) (x : Zone) : (setZone d z x).fuseMaps = d.fuseMaps := rfl
@[simp] theorem setZone_sens (z : Nat) (x : Zone) : (setZone d z x).sens = d.sens := rfl
@[simp] theorem setZone_narta (z : Nat) (x : Zone) : (setZone d z x).narta = d.narta := rfl
@[simp] theorem setZone_failover (z : Nat) (x : Zone) : (setZone d z x).failover = d.failover := rfl
@[simp] theorem setZone_heldTlps (z : Nat) (x : Zone) : (setZone d z x).heldTlps = d.heldTlps := rfl
@[simp] theorem setZone_change (z : Nat) (x : Zone) : (setZone d z x).change = d.change := rfl
@[simp] theorem setZone_changeTlps (z : Nat) (x : Zone) : (setZone d z x).changeTlps = d.changeTlps := rfl
@[simp] theorem setZone_jobs (z : Nat) (x : Zone) : (setZone d z x).jobs = d.jobs := rfl
@[simp] theorem setZone_nextJob (z : Nat) (x : Zone) : (setZone d z x).nextJob = d.nextJob := rfl
@[simp] theorem setZone_plans (z : Nat) (x : Zone) : (setZone d z x).plans = d.plans := rfl
@[simp] theorem setZone_rqs (z : Nat) (x : Zone) : (setZone d z x).rqs = d.rqs := rfl
@[simp] theorem setZone_items (z : Nat) (x : Zone) : (setZone d z x).items = d.items := rfl
@[simp] theorem setZone_nextItem (z : Nat) (x : Zone) : (setZone d z x).nextItem = d.nextItem := rfl
@[simp] theorem setZone_hk (z : Nat) (x : Zone) : (setZone d z x).hk = d.hk := rfl
@[simp] theorem setZone_accts (z : Nat) (x : Zone) : (setZone d z x).accts = d.accts := rfl
@[simp] theorem setZone_period (z : Nat) (x : Zone) : (setZone d z x).period = d.period := rfl
@[simp] theorem setZone_series (z : Nat) (x : Zone) : (setZone d z x).series = d.series := rfl
@[simp] theorem setZone_batch (z : Nat) (x : Zone) : (setZone d z x).batch = d.batch := rfl
@[simp] theorem setZone_batches (z : Nat) (x : Zone) : (setZone d z x).batches = d.batches := rfl
@[simp] theorem setZone_rcptQ (z : Nat) (x : Zone) : (setZone d z x).rcptQ = d.rcptQ := rfl
@[simp] theorem setZone_rcptTail (z : Nat) (x : Zone) : (setZone d z x).rcptTail = d.rcptTail := rfl
@[simp] theorem setZone_rcptPhase (z : Nat) (x : Zone) : (setZone d z x).rcptPhase = d.rcptPhase := rfl
@[simp] theorem setZone_quads (z : Nat) (x : Zone) : (setZone d z x).quads = d.quads := rfl
@[simp] theorem setZone_heat (z : Nat) (x : Zone) : (setZone d z x).heat = d.heat := rfl
@[simp] theorem setZone_shared (z : Nat) (x : Zone) : (setZone d z x).shared = d.shared := rfl
@[simp] theorem setZone_eacc (z : Nat) (x : Zone) : (setZone d z x).eacc = d.eacc := rfl
@[simp] theorem setZone_gapEst (z : Nat) (x : Zone) : (setZone d z x).gapEst = d.gapEst := rfl
@[simp] theorem setZone_gapN (z : Nat) (x : Zone) : (setZone d z x).gapN = d.gapN := rfl
@[simp] theorem setZone_resid (z : Nat) (x : Zone) : (setZone d z x).resid = d.resid := rfl
@[simp] theorem setZone_boot (z : Nat) (x : Zone) : (setZone d z x).boot = d.boot := rfl
@[simp] theorem setZone_drain (z : Nat) (x : Zone) : (setZone d z x).drain = d.drain := rfl
@[simp] theorem setZone_slots (z : Nat) (x : Zone) : (setZone d z x).slots = d.slots := rfl
@[simp] theorem setZone_rollback (z : Nat) (x : Zone) : (setZone d z x).rollback = d.rollback := rfl
@[simp] theorem setZone_mkBanks (z : Nat) (x : Zone) : (setZone d z x).mkBanks = d.mkBanks := rfl
@[simp] theorem setZone_report (z : Nat) (x : Zone) : (setZone d z x).report = d.report := rfl
@[simp] theorem setZone_thermtrip (z : Nat) (x : Zone) : (setZone d z x).thermtrip = d.thermtrip := rfl
@[simp] theorem setZone_alertPin (z : Nat) (x : Zone) : (setZone d z x).alertPin = d.alertPin := rfl
@[simp] theorem setZone_smb (z : Nat) (x : Zone) : (setZone d z x).smb = d.smb := rfl
@[simp] theorem setZone_jtag (z : Nat) (x : Zone) : (setZone d z x).jtag = d.jtag := rfl
@[simp] theorem setZone_ticks (z : Nat) (x : Zone) : (setZone d z x).ticks = d.ticks := rfl
@[simp] theorem setZone_notes (z : Nat) (x : Zone) : (setZone d z x).notes = d.notes := rfl
@[simp] theorem setZone_note (z : Nat) (x : Zone) : (setZone d z x).note = d.note := rfl
@[simp] theorem setZone_noteAt (z : Nat) (x : Zone) : (setZone d z x).noteAt = d.noteAt := rfl
@[simp] theorem setZone_ageing (z : Nat) (x : Zone) : (setZone d z x).ageing = d.ageing := rfl
@[simp] theorem setZone_sramBad (z : Nat) (x : Zone) : (setZone d z x).sramBad = d.sramBad := rfl
@[simp] theorem setZone_rstWait (z : Nat) (x : Zone) : (setZone d z x).rstWait = d.rstWait := rfl
@[simp] theorem setZone_lifeUj (z : Nat) (x : Zone) : (setZone d z x).lifeUj = d.lifeUj := rfl
@[simp] theorem setZone_wearBarked (z : Nat) (x : Zone) : (setZone d z x).wearBarked = d.wearBarked := rfl
@[simp] theorem setZone_erases (z : Nat) (x : Zone) : (setZone d z x).erases = d.erases := rfl

/-! ## setSensor -/

@[simp] theorem setSensor_kind (n : Nat) (x : Sensor) : (setSensor d n x).kind = d.kind := rfl
@[simp] theorem setSensor_regs (n : Nat) (x : Sensor) : (setSensor d n x).regs = d.regs := rfl
@[simp] theorem setSensor_guards (n : Nat) (x : Sensor) : (setSensor d n x).guards = d.guards := rfl
@[simp] theorem setSensor_cores (n : Nat) (x : Sensor) : (setSensor d n x).cores = d.cores := rfl
@[simp] theorem setSensor_spares (n : Nat) (x : Sensor) : (setSensor d n x).spares = d.spares := rfl
@[simp] theorem setSensor_ports (n : Nat) (x : Sensor) : (setSensor d n x).ports = d.ports := rfl
@[simp] theorem setSensor_slices (n : Nat) (x : Sensor) : (setSensor d n x).slices = d.slices := rfl
@[simp] theorem setSensor_badSlice (n : Nat) (x : Sensor) : (setSensor d n x).badSlice = d.badSlice := rfl
@[simp] theorem setSensor_rings (n : Nat) (x : Sensor) : (setSensor d n x).rings = d.rings := rfl
@[simp] theorem setSensor_wmsgs (n : Nat) (x : Sensor) : (setSensor d n x).wmsgs = d.wmsgs := rfl
@[simp] theorem setSensor_wseq (n : Nat) (x : Sensor) : (setSensor d n x).wseq = d.wseq := rfl
@[simp] theorem setSensor_towers (n : Nat) (x : Sensor) : (setSensor d n x).towers = d.towers := rfl
@[simp] theorem setSensor_links (n : Nat) (x : Sensor) : (setSensor d n x).links = d.links := rfl
@[simp] theorem setSensor_chans (n : Nat) (x : Sensor) : (setSensor d n x).chans = d.chans := rfl
@[simp] theorem setSensor_bundles (n : Nat) (x : Sensor) : (setSensor d n x).bundles = d.bundles := rfl
@[simp] theorem setSensor_evt (n : Nat) (x : Sensor) : (setSensor d n x).evt = d.evt := rfl
@[simp] theorem setSensor_events (n : Nat) (x : Sensor) : (setSensor d n x).events = d.events := rfl
@[simp] theorem setSensor_freeN (n : Nat) (x : Sensor) : (setSensor d n x).freeN = d.freeN := rfl
@[simp] theorem setSensor_estSnap (n : Nat) (x : Sensor) : (setSensor d n x).estSnap = d.estSnap := rfl
@[simp] theorem setSensor_direct (n : Nat) (x : Sensor) : (setSensor d n x).direct = d.direct := rfl
@[simp] theorem setSensor_kenl (n : Nat) (x : Sensor) : (setSensor d n x).kenl = d.kenl := rfl
@[simp] theorem setSensor_fieldFuse (n : Nat) (x : Sensor) : (setSensor d n x).fieldFuse = d.fieldFuse := rfl
@[simp] theorem setSensor_log (n : Nat) (x : Sensor) : (setSensor d n x).log = d.log := rfl
@[simp] theorem setSensor_saved (n : Nat) (x : Sensor) : (setSensor d n x).saved = d.saved := rfl
@[simp] theorem setSensor_fuseMaps (n : Nat) (x : Sensor) : (setSensor d n x).fuseMaps = d.fuseMaps := rfl
@[simp] theorem setSensor_narta (n : Nat) (x : Sensor) : (setSensor d n x).narta = d.narta := rfl
@[simp] theorem setSensor_failover (n : Nat) (x : Sensor) : (setSensor d n x).failover = d.failover := rfl
@[simp] theorem setSensor_heldTlps (n : Nat) (x : Sensor) : (setSensor d n x).heldTlps = d.heldTlps := rfl
@[simp] theorem setSensor_change (n : Nat) (x : Sensor) : (setSensor d n x).change = d.change := rfl
@[simp] theorem setSensor_changeTlps (n : Nat) (x : Sensor) : (setSensor d n x).changeTlps = d.changeTlps := rfl
@[simp] theorem setSensor_jobs (n : Nat) (x : Sensor) : (setSensor d n x).jobs = d.jobs := rfl
@[simp] theorem setSensor_nextJob (n : Nat) (x : Sensor) : (setSensor d n x).nextJob = d.nextJob := rfl
@[simp] theorem setSensor_plans (n : Nat) (x : Sensor) : (setSensor d n x).plans = d.plans := rfl
@[simp] theorem setSensor_rqs (n : Nat) (x : Sensor) : (setSensor d n x).rqs = d.rqs := rfl
@[simp] theorem setSensor_items (n : Nat) (x : Sensor) : (setSensor d n x).items = d.items := rfl
@[simp] theorem setSensor_nextItem (n : Nat) (x : Sensor) : (setSensor d n x).nextItem = d.nextItem := rfl
@[simp] theorem setSensor_hk (n : Nat) (x : Sensor) : (setSensor d n x).hk = d.hk := rfl
@[simp] theorem setSensor_accts (n : Nat) (x : Sensor) : (setSensor d n x).accts = d.accts := rfl
@[simp] theorem setSensor_period (n : Nat) (x : Sensor) : (setSensor d n x).period = d.period := rfl
@[simp] theorem setSensor_series (n : Nat) (x : Sensor) : (setSensor d n x).series = d.series := rfl
@[simp] theorem setSensor_batch (n : Nat) (x : Sensor) : (setSensor d n x).batch = d.batch := rfl
@[simp] theorem setSensor_batches (n : Nat) (x : Sensor) : (setSensor d n x).batches = d.batches := rfl
@[simp] theorem setSensor_rcptQ (n : Nat) (x : Sensor) : (setSensor d n x).rcptQ = d.rcptQ := rfl
@[simp] theorem setSensor_rcptTail (n : Nat) (x : Sensor) : (setSensor d n x).rcptTail = d.rcptTail := rfl
@[simp] theorem setSensor_rcptPhase (n : Nat) (x : Sensor) : (setSensor d n x).rcptPhase = d.rcptPhase := rfl
@[simp] theorem setSensor_quads (n : Nat) (x : Sensor) : (setSensor d n x).quads = d.quads := rfl
@[simp] theorem setSensor_zones (n : Nat) (x : Sensor) : (setSensor d n x).zones = d.zones := rfl
@[simp] theorem setSensor_heat (n : Nat) (x : Sensor) : (setSensor d n x).heat = d.heat := rfl
@[simp] theorem setSensor_shared (n : Nat) (x : Sensor) : (setSensor d n x).shared = d.shared := rfl
@[simp] theorem setSensor_eacc (n : Nat) (x : Sensor) : (setSensor d n x).eacc = d.eacc := rfl
@[simp] theorem setSensor_gapEst (n : Nat) (x : Sensor) : (setSensor d n x).gapEst = d.gapEst := rfl
@[simp] theorem setSensor_gapN (n : Nat) (x : Sensor) : (setSensor d n x).gapN = d.gapN := rfl
@[simp] theorem setSensor_resid (n : Nat) (x : Sensor) : (setSensor d n x).resid = d.resid := rfl
@[simp] theorem setSensor_boot (n : Nat) (x : Sensor) : (setSensor d n x).boot = d.boot := rfl
@[simp] theorem setSensor_drain (n : Nat) (x : Sensor) : (setSensor d n x).drain = d.drain := rfl
@[simp] theorem setSensor_slots (n : Nat) (x : Sensor) : (setSensor d n x).slots = d.slots := rfl
@[simp] theorem setSensor_rollback (n : Nat) (x : Sensor) : (setSensor d n x).rollback = d.rollback := rfl
@[simp] theorem setSensor_mkBanks (n : Nat) (x : Sensor) : (setSensor d n x).mkBanks = d.mkBanks := rfl
@[simp] theorem setSensor_report (n : Nat) (x : Sensor) : (setSensor d n x).report = d.report := rfl
@[simp] theorem setSensor_thermtrip (n : Nat) (x : Sensor) : (setSensor d n x).thermtrip = d.thermtrip := rfl
@[simp] theorem setSensor_alertPin (n : Nat) (x : Sensor) : (setSensor d n x).alertPin = d.alertPin := rfl
@[simp] theorem setSensor_smb (n : Nat) (x : Sensor) : (setSensor d n x).smb = d.smb := rfl
@[simp] theorem setSensor_jtag (n : Nat) (x : Sensor) : (setSensor d n x).jtag = d.jtag := rfl
@[simp] theorem setSensor_ticks (n : Nat) (x : Sensor) : (setSensor d n x).ticks = d.ticks := rfl
@[simp] theorem setSensor_notes (n : Nat) (x : Sensor) : (setSensor d n x).notes = d.notes := rfl
@[simp] theorem setSensor_note (n : Nat) (x : Sensor) : (setSensor d n x).note = d.note := rfl
@[simp] theorem setSensor_noteAt (n : Nat) (x : Sensor) : (setSensor d n x).noteAt = d.noteAt := rfl
@[simp] theorem setSensor_ageing (n : Nat) (x : Sensor) : (setSensor d n x).ageing = d.ageing := rfl
@[simp] theorem setSensor_sramBad (n : Nat) (x : Sensor) : (setSensor d n x).sramBad = d.sramBad := rfl
@[simp] theorem setSensor_rstWait (n : Nat) (x : Sensor) : (setSensor d n x).rstWait = d.rstWait := rfl
@[simp] theorem setSensor_lifeUj (n : Nat) (x : Sensor) : (setSensor d n x).lifeUj = d.lifeUj := rfl
@[simp] theorem setSensor_wearBarked (n : Nat) (x : Sensor) : (setSensor d n x).wearBarked = d.wearBarked := rfl
@[simp] theorem setSensor_erases (n : Nat) (x : Sensor) : (setSensor d n x).erases = d.erases := rfl

/-! ## An activity event -/

@[simp] theorem act_kind (u k n : Nat) : (act d u k n).kind = d.kind := by unfold act; dsimp only; split <;> rfl
@[simp] theorem act_guards (u k n : Nat) : (act d u k n).guards = d.guards := by unfold act; dsimp only; split <;> rfl
@[simp] theorem act_cores (u k n : Nat) : (act d u k n).cores = d.cores := by unfold act; dsimp only; split <;> rfl
@[simp] theorem act_spares (u k n : Nat) : (act d u k n).spares = d.spares := by unfold act; dsimp only; split <;> rfl
@[simp] theorem act_ports (u k n : Nat) : (act d u k n).ports = d.ports := by unfold act; dsimp only; split <;> rfl
@[simp] theorem act_slices (u k n : Nat) : (act d u k n).slices = d.slices := by unfold act; dsimp only; split <;> rfl
@[simp] theorem act_badSlice (u k n : Nat) : (act d u k n).badSlice = d.badSlice := by unfold act; dsimp only; split <;> rfl
@[simp] theorem act_rings (u k n : Nat) : (act d u k n).rings = d.rings := by unfold act; dsimp only; split <;> rfl
@[simp] theorem act_wmsgs (u k n : Nat) : (act d u k n).wmsgs = d.wmsgs := by unfold act; dsimp only; split <;> rfl
@[simp] theorem act_wseq (u k n : Nat) : (act d u k n).wseq = d.wseq := by unfold act; dsimp only; split <;> rfl
@[simp] theorem act_towers (u k n : Nat) : (act d u k n).towers = d.towers := by unfold act; dsimp only; split <;> rfl
@[simp] theorem act_links (u k n : Nat) : (act d u k n).links = d.links := by unfold act; dsimp only; split <;> rfl
@[simp] theorem act_chans (u k n : Nat) : (act d u k n).chans = d.chans := by unfold act; dsimp only; split <;> rfl
@[simp] theorem act_bundles (u k n : Nat) : (act d u k n).bundles = d.bundles := by unfold act; dsimp only; split <;> rfl
@[simp] theorem act_evt (u k n : Nat) : (act d u k n).evt = d.evt := by unfold act; dsimp only; split <;> rfl
@[simp] theorem act_events (u k n : Nat) : (act d u k n).events = d.events := by unfold act; dsimp only; split <;> rfl
@[simp] theorem act_freeN (u k n : Nat) : (act d u k n).freeN = d.freeN := by unfold act; dsimp only; split <;> rfl
@[simp] theorem act_estSnap (u k n : Nat) : (act d u k n).estSnap = d.estSnap := by unfold act; dsimp only; split <;> rfl
@[simp] theorem act_kenl (u k n : Nat) : (act d u k n).kenl = d.kenl := by unfold act; dsimp only; split <;> rfl
@[simp] theorem act_fieldFuse (u k n : Nat) : (act d u k n).fieldFuse = d.fieldFuse := by unfold act; dsimp only; split <;> rfl
@[simp] theorem act_log (u k n : Nat) : (act d u k n).log = d.log := by unfold act; dsimp only; split <;> rfl
@[simp] theorem act_saved (u k n : Nat) : (act d u k n).saved = d.saved := by unfold act; dsimp only; split <;> rfl
@[simp] theorem act_fuseMaps (u k n : Nat) : (act d u k n).fuseMaps = d.fuseMaps := by unfold act; dsimp only; split <;> rfl
@[simp] theorem act_sens (u k n : Nat) : (act d u k n).sens = d.sens := by unfold act; dsimp only; split <;> rfl
@[simp] theorem act_narta (u k n : Nat) : (act d u k n).narta = d.narta := by unfold act; dsimp only; split <;> rfl
@[simp] theorem act_failover (u k n : Nat) : (act d u k n).failover = d.failover := by unfold act; dsimp only; split <;> rfl
@[simp] theorem act_heldTlps (u k n : Nat) : (act d u k n).heldTlps = d.heldTlps := by unfold act; dsimp only; split <;> rfl
@[simp] theorem act_change (u k n : Nat) : (act d u k n).change = d.change := by unfold act; dsimp only; split <;> rfl
@[simp] theorem act_changeTlps (u k n : Nat) : (act d u k n).changeTlps = d.changeTlps := by unfold act; dsimp only; split <;> rfl
@[simp] theorem act_jobs (u k n : Nat) : (act d u k n).jobs = d.jobs := by unfold act; dsimp only; split <;> rfl
@[simp] theorem act_nextJob (u k n : Nat) : (act d u k n).nextJob = d.nextJob := by unfold act; dsimp only; split <;> rfl
@[simp] theorem act_plans (u k n : Nat) : (act d u k n).plans = d.plans := by unfold act; dsimp only; split <;> rfl
@[simp] theorem act_rqs (u k n : Nat) : (act d u k n).rqs = d.rqs := by unfold act; dsimp only; split <;> rfl
@[simp] theorem act_items (u k n : Nat) : (act d u k n).items = d.items := by unfold act; dsimp only; split <;> rfl
@[simp] theorem act_nextItem (u k n : Nat) : (act d u k n).nextItem = d.nextItem := by unfold act; dsimp only; split <;> rfl
@[simp] theorem act_hk (u k n : Nat) : (act d u k n).hk = d.hk := by unfold act; dsimp only; split <;> rfl
@[simp] theorem act_accts (u k n : Nat) : (act d u k n).accts = d.accts := by unfold act; dsimp only; split <;> rfl
@[simp] theorem act_period (u k n : Nat) : (act d u k n).period = d.period := by unfold act; dsimp only; split <;> rfl
@[simp] theorem act_series (u k n : Nat) : (act d u k n).series = d.series := by unfold act; dsimp only; split <;> rfl
@[simp] theorem act_batch (u k n : Nat) : (act d u k n).batch = d.batch := by unfold act; dsimp only; split <;> rfl
@[simp] theorem act_batches (u k n : Nat) : (act d u k n).batches = d.batches := by unfold act; dsimp only; split <;> rfl
@[simp] theorem act_rcptQ (u k n : Nat) : (act d u k n).rcptQ = d.rcptQ := by unfold act; dsimp only; split <;> rfl
@[simp] theorem act_rcptTail (u k n : Nat) : (act d u k n).rcptTail = d.rcptTail := by unfold act; dsimp only; split <;> rfl
@[simp] theorem act_rcptPhase (u k n : Nat) : (act d u k n).rcptPhase = d.rcptPhase := by unfold act; dsimp only; split <;> rfl
@[simp] theorem act_quads (u k n : Nat) : (act d u k n).quads = d.quads := by unfold act; dsimp only; split <;> rfl
@[simp] theorem act_zones (u k n : Nat) : (act d u k n).zones = d.zones := by unfold act; dsimp only; split <;> rfl
@[simp] theorem act_heat (u k n : Nat) : (act d u k n).heat = d.heat := by unfold act; dsimp only; split <;> rfl
@[simp] theorem act_eacc (u k n : Nat) : (act d u k n).eacc = d.eacc := by unfold act; dsimp only; split <;> rfl
@[simp] theorem act_gapEst (u k n : Nat) : (act d u k n).gapEst = d.gapEst := by unfold act; dsimp only; split <;> rfl
@[simp] theorem act_gapN (u k n : Nat) : (act d u k n).gapN = d.gapN := by unfold act; dsimp only; split <;> rfl
@[simp] theorem act_resid (u k n : Nat) : (act d u k n).resid = d.resid := by unfold act; dsimp only; split <;> rfl
@[simp] theorem act_boot (u k n : Nat) : (act d u k n).boot = d.boot := by unfold act; dsimp only; split <;> rfl
@[simp] theorem act_drain (u k n : Nat) : (act d u k n).drain = d.drain := by unfold act; dsimp only; split <;> rfl
@[simp] theorem act_slots (u k n : Nat) : (act d u k n).slots = d.slots := by unfold act; dsimp only; split <;> rfl
@[simp] theorem act_rollback (u k n : Nat) : (act d u k n).rollback = d.rollback := by unfold act; dsimp only; split <;> rfl
@[simp] theorem act_mkBanks (u k n : Nat) : (act d u k n).mkBanks = d.mkBanks := by unfold act; dsimp only; split <;> rfl
@[simp] theorem act_report (u k n : Nat) : (act d u k n).report = d.report := by unfold act; dsimp only; split <;> rfl
@[simp] theorem act_thermtrip (u k n : Nat) : (act d u k n).thermtrip = d.thermtrip := by unfold act; dsimp only; split <;> rfl
@[simp] theorem act_alertPin (u k n : Nat) : (act d u k n).alertPin = d.alertPin := by unfold act; dsimp only; split <;> rfl
@[simp] theorem act_smb (u k n : Nat) : (act d u k n).smb = d.smb := by unfold act; dsimp only; split <;> rfl
@[simp] theorem act_jtag (u k n : Nat) : (act d u k n).jtag = d.jtag := by unfold act; dsimp only; split <;> rfl
@[simp] theorem act_ticks (u k n : Nat) : (act d u k n).ticks = d.ticks := by unfold act; dsimp only; split <;> rfl
@[simp] theorem act_notes (u k n : Nat) : (act d u k n).notes = d.notes := by unfold act; dsimp only; split <;> rfl
@[simp] theorem act_note (u k n : Nat) : (act d u k n).note = d.note := by unfold act; dsimp only; split <;> rfl
@[simp] theorem act_noteAt (u k n : Nat) : (act d u k n).noteAt = d.noteAt := by unfold act; dsimp only; split <;> rfl
@[simp] theorem act_ageing (u k n : Nat) : (act d u k n).ageing = d.ageing := by unfold act; dsimp only; split <;> rfl
@[simp] theorem act_sramBad (u k n : Nat) : (act d u k n).sramBad = d.sramBad := by unfold act; dsimp only; split <;> rfl
@[simp] theorem act_rstWait (u k n : Nat) : (act d u k n).rstWait = d.rstWait := by unfold act; dsimp only; split <;> rfl
@[simp] theorem act_lifeUj (u k n : Nat) : (act d u k n).lifeUj = d.lifeUj := by unfold act; dsimp only; split <;> rfl
@[simp] theorem act_wearBarked (u k n : Nat) : (act d u k n).wearBarked = d.wearBarked := by unfold act; dsimp only; split <;> rfl
@[simp] theorem act_erases (u k n : Nat) : (act d u k n).erases = d.erases := by unfold act; dsimp only; split <;> rfl

end Sys2Proof.Machine
end

