-- ==== Sys2Proof/Laws/Access.lean ====
section
/-!
SUPPORT. Reading after writing through the accessors of registers, fields and units.
-/
namespace Sys2Proof.Machine

/-! ## Registers and fields -/

@[simp] theorem getReg_setReg_self (d : Dev) (pg off : Nat) (v : Word64) : getReg (setReg d pg off v) pg off = v :=
  mget_mput_self _ _ _ _

theorem getReg_setReg_other (d : Dev) (pg off p o : Nat) (v : Word64) (h : regKey p o ≠ regKey pg off) :
    getReg (setReg d pg off v) p o = getReg d p o := mget_mput_off _ _ _ _ _ _ h

/-- A field read from a word in which it was written is the value, to its width. -/
theorem fieldOf_withField (w : Word64) (f : Fld) (v : Nat) (h : f.lo + f.w ≤ 64) : fieldOf (withField w f v) f = v % 2 ^ f.w := by
  have hp : (2 : Nat) ^ 64 = 2 ^ f.lo * 2 ^ f.w * 2 ^ (64 - (f.lo + f.w)) := by rw [← pow_add, ← pow_add]; congr 1; omega
  have ha := Nat.div_add_mod w.toNat (2 ^ f.lo)
  have hb := Nat.div_add_mod (w.toNat / 2 ^ f.lo) (2 ^ f.w)
  have hwlt := w.isLt
  set A := w.toNat % 2 ^ f.lo
  set Q := w.toNat / 2 ^ f.lo
  set F := Q % 2 ^ f.w
  set H := Q / 2 ^ f.w
  have hA : A < 2 ^ f.lo := Nat.mod_lt _ (by positivity)
  have hv : v % 2 ^ f.w < 2 ^ f.w := Nat.mod_lt _ (by positivity)
  have e1 : w.toNat - F * 2 ^ f.lo + v % 2 ^ f.w * 2 ^ f.lo = (2 ^ f.w * H + v % 2 ^ f.w) * 2 ^ f.lo + A := by
    have : w.toNat = (2 ^ f.w * H) * 2 ^ f.lo + F * 2 ^ f.lo + A := by rw [← ha, ← hb]; ring
    rw [this, Nat.add_mul]; omega
  have hH : H < 2 ^ (64 - (f.lo + f.w)) := by
    by_contra hc
    have hc : 2 ^ (64 - (f.lo + f.w)) ≤ H := by omega
    have : 2 ^ f.lo * 2 ^ f.w * 2 ^ (64 - (f.lo + f.w)) ≤ w.toNat := by
      calc 2 ^ f.lo * 2 ^ f.w * 2 ^ (64 - (f.lo + f.w)) ≤ 2 ^ f.lo * 2 ^ f.w * H := Nat.mul_le_mul_left _ hc
        _ = 2 ^ f.lo * (2 ^ f.w * H) := by ring
        _ ≤ 2 ^ f.lo * Q := Nat.mul_le_mul_left _ (by omega)
        _ ≤ w.toNat := by omega
    omega
  have hlt : (2 ^ f.w * H + v % 2 ^ f.w) * 2 ^ f.lo + A < 2 ^ 64 := by
    have h1 : 2 ^ f.w * H + v % 2 ^ f.w + 1 ≤ 2 ^ f.w * 2 ^ (64 - (f.lo + f.w)) := by
      calc 2 ^ f.w * H + v % 2 ^ f.w + 1 ≤ 2 ^ f.w * H + 2 ^ f.w := by omega
        _ = 2 ^ f.w * (H + 1) := by ring
        _ ≤ _ := Nat.mul_le_mul_left _ hH
    calc (2 ^ f.w * H + v % 2 ^ f.w) * 2 ^ f.lo + A < (2 ^ f.w * H + v % 2 ^ f.w) * 2 ^ f.lo + 2 ^ f.lo := by omega
      _ = (2 ^ f.w * H + v % 2 ^ f.w + 1) * 2 ^ f.lo := by ring
      _ ≤ 2 ^ f.w * 2 ^ (64 - (f.lo + f.w)) * 2 ^ f.lo := Nat.mul_le_mul_right _ h1
      _ = 2 ^ 64 := by rw [hp]; ring
  show BitVec.toNat (BitVec.ofNat 64 (w.toNat - F * 2 ^ f.lo + v % 2 ^ f.w * 2 ^ f.lo)) / 2 ^ f.lo % 2 ^ f.w = v % 2 ^ f.w
  rw [e1, BitVec.toNat_ofNat, Nat.mod_eq_of_lt hlt, Nat.mul_comm, Nat.mul_add_div (by positivity), Nat.div_eq_of_lt hA, Nat.add_zero,
    Nat.mul_add_mod, Nat.mod_mod]

theorem getF_setF_self (d : Dev) (pg : Nat) (f : Fld) (v : Nat) (h : f.lo + f.w ≤ 64) : getF (setF d pg f v) pg f = v % 2 ^ f.w := by
  simp [getF, setF, fieldOf_withField _ f v h]

/-- Bits of a word in which a field was written: the value's inside the field, the word's outside it. -/
theorem testBit_withField (w : Word64) (f : Fld) (v i : Nat) (h : f.lo + f.w ≤ 64) :
    (withField w f v).toNat.testBit i = if f.lo ≤ i ∧ i < f.lo + f.w then v.testBit (i - f.lo) else w.toNat.testBit i := by
  have hwlt := w.isLt
  have ha := Nat.div_add_mod w.toNat (2 ^ f.lo)
  have hb := Nat.div_add_mod (w.toNat / 2 ^ f.lo) (2 ^ f.w)
  set A := w.toNat % 2 ^ f.lo with hAd
  set Q := w.toNat / 2 ^ f.lo with hQd
  set F := Q % 2 ^ f.w
  set H := Q / 2 ^ f.w with hHd
  have hA : A < 2 ^ f.lo := Nat.mod_lt _ (by positivity)
  have hv : v % 2 ^ f.w < 2 ^ f.w := Nat.mod_lt _ (by positivity)
  have e1 : w.toNat - F * 2 ^ f.lo + v % 2 ^ f.w * 2 ^ f.lo = 2 ^ f.lo * (2 ^ f.w * H + v % 2 ^ f.w) + A := by
    have : w.toNat = 2 ^ f.lo * (2 ^ f.w * H) + F * 2 ^ f.lo + A := by rw [← ha, ← hb]; ring
    rw [this, Nat.mul_add]; have := Nat.mul_comm (2 ^ f.lo) (v % 2 ^ f.w); omega
  have bitsOf : ∀ i, (2 ^ f.lo * (2 ^ f.w * H + v % 2 ^ f.w) + A).testBit i =
      if f.lo ≤ i ∧ i < f.lo + f.w then v.testBit (i - f.lo) else w.toNat.testBit i := by
    intro i
    rw [Nat.testBit_two_pow_mul_add _ hA, Nat.testBit_two_pow_mul_add _ hv]
    by_cases h1 : i < f.lo
    · have : ¬ (f.lo ≤ i ∧ i < f.lo + f.w) := by omega
      simp [h1, this, hAd, Nat.testBit_mod_two_pow]
    · by_cases h2 : i - f.lo < f.w
      · have : f.lo ≤ i ∧ i < f.lo + f.w := by omega
        simp [h1, h2, this, Nat.testBit_mod_two_pow]
      · have h3 : ¬ (f.lo ≤ i ∧ i < f.lo + f.w) := by omega
        have h4 : f.lo + (f.w + (i - f.lo - f.w)) = i := by omega
        simp only [h1, h2, h3, if_false, hHd, hQd, Nat.testBit_div_two_pow]
        congr 1; omega
  show (BitVec.toNat (BitVec.ofNat 64 (w.toNat - F * 2 ^ f.lo + v % 2 ^ f.w * 2 ^ f.lo))).testBit i = _
  rw [e1, BitVec.toNat_ofNat, Nat.testBit_mod_two_pow, bitsOf]
  by_cases hi : i < 64
  · simp [hi]
  · have : ¬ (f.lo ≤ i ∧ i < f.lo + f.w) := by omega
    simp only [hi, this, if_false, decide_false, Bool.false_and]
    exact (Nat.testBit_lt_two_pow (Nat.lt_of_lt_of_le hwlt (Nat.pow_le_pow_right (by omega) (by omega)))).symm

/-- A field keeps its value where another field of its word is written. -/
theorem fieldOf_withField_off (w : Word64) (f g : Fld) (v : Nat) (h : f.lo + f.w ≤ 64) (hd : g.lo + g.w ≤ f.lo ∨ f.lo + f.w ≤ g.lo) :
    fieldOf (withField w f v) g = fieldOf w g := by
  apply Nat.eq_of_testBit_eq
  intro i
  show ((withField w f v).toNat / 2 ^ g.lo % 2 ^ g.w).testBit i = (w.toNat / 2 ^ g.lo % 2 ^ g.w).testBit i
  simp only [Nat.testBit_mod_two_pow, Nat.testBit_div_two_pow, testBit_withField w f v _ h]
  by_cases hi : i < g.w
  · have : ¬ (f.lo ≤ g.lo + i ∧ g.lo + i < f.lo + f.w) := by omega
    have : ¬ (f.lo ≤ i + g.lo ∧ i + g.lo < f.lo + f.w) := by omega
    simp [*]
  · simp [hi]

/-- A write of a field leaves the other fields of its register. -/
theorem getF_setF_off (d : Dev) (pg : Nat) (f g : Fld) (v : Nat) (h : f.lo + f.w ≤ 64) (ho : g.off = f.off)
    (hd : g.lo + g.w ≤ f.lo ∨ f.lo + f.w ≤ g.lo) : getF (setF d pg f v) pg g = getF d pg g := by
  simp [getF, setF, ho, fieldOf_withField_off _ f g v h hd]

theorem getF_setF_other (d : Dev) (pg p : Nat) (f g : Fld) (v : Nat) (h : regKey p g.off ≠ regKey pg f.off) :
    getF (setF d pg f v) p g = getF d p g := by
  simp [getF, setF, getReg_setReg_other d pg f.off p g.off _ h]

theorem getReg_count_other (d : Dev) (pg p o : Nat) (f : Fld) (k : Nat) (h : regKey p o ≠ regKey pg f.off) :
    getReg (count d pg f k) p o = getReg d p o := getReg_setReg_other d pg f.off p o _ h

/-! ## Units -/

@[simp] theorem core_setCore_self (d : Dev) (n : Nat) (c : Core) : core (setCore d n c) n = c := mget_mput_self _ _ _ _
theorem core_setCore_other (d : Dev) (n m : Nat) (c : Core) (h : m ≠ n) : core (setCore d n c) m = core d m :=
  mget_mput_off _ _ _ _ _ _ h
@[simp] theorem port_setPort_self (d : Dev) (r p : Nat) (x : Port) : port (setPort d r p x) r p = x := mget_mput_self _ _ _ _
theorem port_setPort_other (d : Dev) (r p r' p' : Nat) (x : Port) (h : portKey r' p' ≠ portKey r p) :
    port (setPort d r p x) r' p' = port d r' p' := mget_mput_off _ _ _ _ _ _ h
@[simp] theorem tower_setTower_self (d : Dev) (t : Nat) (x : Tower) : tower (setTower d t x) t = x := mget_mput_self _ _ _ _
theorem tower_setTower_other (d : Dev) (t u : Nat) (x : Tower) (h : u ≠ t) : tower (setTower d t x) u = tower d u :=
  mget_mput_off _ _ _ _ _ _ h
@[simp] theorem floor_setFloor_self (d : Dev) (t : Nat) (f : Floor) : floor (setFloor d t f) t = f := by simp [floor, setFloor]
theorem floor_setFloor_other (d : Dev) (t u : Nat) (f : Floor) (h : u ≠ t) : floor (setFloor d t f) u = floor d u := by
  simp [floor, setFloor, tower_setTower_other _ _ _ _ h]
@[simp] theorem column_setColumn_self (d : Dev) (t b : Nat) (c : Column) : column (setColumn d t b c) t b = c := by
  simp [column, setColumn]
theorem column_setColumn_other (d : Dev) (t b u a : Nat) (c : Column) (h : u ≠ t ∨ a ≠ b) :
    column (setColumn d t b c) u a = column d u a := by
  by_cases hu : u = t
  · subst hu
    have : a ≠ b := h.resolve_left (fun e => e rfl)
    simp [column, setColumn, mget_mput_off _ _ _ _ _ _ this]
  · simp [column, setColumn, tower_setTower_other _ _ _ _ hu]
@[simp] theorem ring_setRing_self (d : Dev) (w k : Nat) (x : Ring) : ring (setRing d w k x) w k = x := mget_mput_self _ _ _ _
@[simp] theorem link_setLink_self (d : Dev) (r v : Nat) (l : Link) : link (setLink d r v l) r v = l := mget_mput_self _ _ _ _
theorem link_setLink_other (d : Dev) (r v r' v' : Nat) (l : Link) (h : linkKey r' v' ≠ linkKey r v) :
    link (setLink d r v l) r' v' = link d r' v' := mget_mput_off _ _ _ _ _ _ h
@[simp] theorem chan_setChan_self (d : Dev) (i j : Nat) (c : Chan) : chan (setChan d i j c) i j = c := mget_mput_self _ _ _ _
theorem chan_setChan_other (d : Dev) (i j i' j' : Nat) (c : Chan) (h : 32 * i' + j' ≠ 32 * i + j) :
    chan (setChan d i j c) i' j' = chan d i' j' := mget_mput_off _ _ _ _ _ _ h
@[simp] theorem bundle_setBundle_self (d : Dev) (t b : Nat) (up : Bool) (c : Chan) : bundle (setBundle d t b up c) t b up = c :=
  mget_mput_self _ _ _ _
@[simp] theorem narta_setNarta_self (d : Dev) (h : Nat) (n : Narta) : narta (setNarta d h n) h = n := mget_mput_self _ _ _ _
theorem narta_setNarta_other (d : Dev) (h j : Nat) (n : Narta) (e : j ≠ h) : narta (setNarta d h n) j = narta d j := mget_mput_off _ _ _ _ _ _ e
@[simp] theorem quad_setQuad_self (d : Dev) (k : Nat) (q : Quad) : quad (setQuad d k q) k = q := mget_mput_self _ _ _ _
theorem quad_setQuad_other (d : Dev) (k j : Nat) (q : Quad) (e : j ≠ k) : quad (setQuad d k q) j = quad d j := mget_mput_off _ _ _ _ _ _ e
@[simp] theorem zoneOf_setZone_self (d : Dev) (z : Nat) (x : Zone) : zoneOf (setZone d z x) z = x := mget_mput_self _ _ _ _
theorem zoneOf_setZone_other (d : Dev) (z j : Nat) (x : Zone) (e : j ≠ z) : zoneOf (setZone d z x) j = zoneOf d j := mget_mput_off _ _ _ _ _ _ e
@[simp] theorem sensor_setSensor_self (d : Dev) (n : Nat) (x : Sensor) : sensor (setSensor d n x) n = x := mget_mput_self _ _ _ _
theorem sensor_setSensor_other (d : Dev) (n j : Nat) (x : Sensor) (e : j ≠ n) : sensor (setSensor d n x) j = sensor d j := mget_mput_off _ _ _ _ _ _ e
@[simp] theorem item_setItem_self (d : Dev) (i : Nat) (x : Option Item) : item (setItem d i x) i = x := mget_mput_self _ _ _ _
theorem item_setItem_other (d : Dev) (i j : Nat) (x : Option Item) (e : j ≠ i) : item (setItem d i x) j = item d j := mget_mput_off _ _ _ _ _ _ e
@[simp] theorem hkOf_setHk_self (d : Dev) (n : Nat) (h : HkRec) : hkOf (setHk d n h) n = h := mget_mput_self _ _ _ _
theorem hkOf_setHk_other (d : Dev) (n j : Nat) (h : HkRec) (e : j ≠ n) : hkOf (setHk d n h) j = hkOf d j := mget_mput_off _ _ _ _ _ _ e
@[simp] theorem rq_setRq_self (d : Dev) (p q : Nat) (r : RingQ) : rq (setRq d p q r) p q = r := mget_mput_self _ _ _ _

/-! ## The last of two writes stands -/

@[simp] theorem setReg_setReg (d : Dev) (pg off : Nat) (v w : Word64) : setReg (setReg d pg off v) pg off w = setReg d pg off w := by
  simp [setReg]
@[simp] theorem setCore_setCore (d : Dev) (n : Nat) (a b : Core) : setCore (setCore d n a) n b = setCore d n b := by simp [setCore]
@[simp] theorem setPort_setPort (d : Dev) (r p : Nat) (a b : Port) : setPort (setPort d r p a) r p b = setPort d r p b := by
  simp [setPort]
@[simp] theorem setTower_setTower (d : Dev) (t : Nat) (a b : Tower) : setTower (setTower d t a) t b = setTower d t b := by
  simp [setTower]
@[simp] theorem setFloor_setFloor (d : Dev) (t : Nat) (a b : Floor) : setFloor (setFloor d t a) t b = setFloor d t b := by
  simp [setFloor]
@[simp] theorem setRing_setRing (d : Dev) (w k : Nat) (a b : Ring) : setRing (setRing d w k a) w k b = setRing d w k b := by
  simp [setRing]
@[simp] theorem setLink_setLink (d : Dev) (r v : Nat) (a b : Link) : setLink (setLink d r v a) r v b = setLink d r v b := by
  simp [setLink]
@[simp] theorem setChan_setChan (d : Dev) (i j : Nat) (a b : Chan) : setChan (setChan d i j a) i j b = setChan d i j b := by
  simp [setChan]
@[simp] theorem setNarta_setNarta (d : Dev) (h : Nat) (a b : Narta) : setNarta (setNarta d h a) h b = setNarta d h b := by simp [setNarta]
@[simp] theorem setQuad_setQuad (d : Dev) (k : Nat) (a b : Quad) : setQuad (setQuad d k a) k b = setQuad d k b := by simp [setQuad]
@[simp] theorem setZone_setZone (d : Dev) (z : Nat) (a b : Zone) : setZone (setZone d z a) z b = setZone d z b := by simp [setZone]
@[simp] theorem setSensor_setSensor (d : Dev) (n : Nat) (a b : Sensor) : setSensor (setSensor d n a) n b = setSensor d n b := by simp [setSensor]
@[simp] theorem setItem_setItem (d : Dev) (i : Nat) (a b : Option Item) : setItem (setItem d i a) i b = setItem d i b := by simp [setItem]
@[simp] theorem setHk_setHk (d : Dev) (n : Nat) (a b : HkRec) : setHk (setHk d n a) n b = setHk d n b := by simp [setHk]
@[simp] theorem setRq_setRq (d : Dev) (p q : Nat) (a b : RingQ) : setRq (setRq d p q a) p q b = setRq d p q b := by simp [setRq]

end Sys2Proof.Machine
end

