-- ==== Sys2Proof/Laws/Control.lean ====
section
/-!
SUPPORT. Commands that are writes of control registers: which write each is, and what a write that its page allows does.
-/
namespace Sys2Proof.Machine

/-- A command of a device out of reset has its effect, and what follows. -/
theorem live_next (s : State) (f : Dev → Dev) (h : s.dev.boot.reset = false) : live s f = .next (s.after (f s.dev)) := by
  simp [live, on, State.after, h]

/-- A command of a device held in reset has none. -/
theorem live_reset (s : State) (f : Dev → Dev) (h : s.dev.boot.reset = true) : live s f = .next (s.after s.dev) := by
  simp [live, on, State.after, h]

theorem on_next (s : State) (f : Dev → Dev) : on s f = .next (s.after (f s.dev)) := rfl

/-- A command of `regRow` is the write that the row names. -/
theorem exec_regRow (i : Instr) (pg off : Nat) (v : Word64) (s : State) (h : regRow i = some (pg, off, v)) :
    exec i s = live s (Machine.control pg off v) := by
  cases i <;> simp only [regRow, plainRegRow, Option.some.injEq, Prod.mk.injEq, reduceCtorEq] at h <;>
   obtain ⟨rfl, rfl, rfl⟩ := h <;> rfl

/-- A write that its page allows acts as its register does, and lowers REMAIN. -/
theorem control_allowed (d : Dev) (t : PageType) (pg off : Nat) (v : Word64) (h : Allowed d t pg off v) :
    Machine.control pg off v d = lowerRemain pg off (writeReg t.code (pageInst t pg) pg off v d).1 := by
  have hw := h.writes
  have h18 : off ≠ 0x018 := by intro e; subst e; simp [writable] at hw
  have hs := h.state
  unfold Machine.control ctlWrite
  simp only [h.lead, h.there, h.page, h.legal, hw]
  simp only [writeChecked, writeAllowed, hw]
  rcases hs with hs | hs | hs <;> simp [hs, h18]  <;>
  · by_cases ho : guarded t off = true
    · have := h.open_ ho; simp [this]
    · simp [ho]

/-- A command that a device held in reset does not take acts only out of reset. -/
theorem exec_live (c : Instr) (s : State) (h : actsInReset c = false) : ∃ f, exec c s = live s f := by
  cases c <;> first | (cases h; done) | exact ⟨_, rfl⟩

/-- A command of a pin or of the sideband acts in reset too. -/
theorem exec_pin (c : Instr) (s : State) (h : actsInReset c = true) : ∃ f, exec c s = on s f := by
  cases c <;> first | (cases h; done) | exact ⟨_, rfl⟩

/-- A register command on a page that allows it. -/
theorem exec_allowed (i : Instr) (pg off : Nat) (v : Word64) (t : PageType) (s : State) (hi : regRow i = some (pg, off, v))
    (hr : s.dev.boot.reset = false) (h : Allowed s.dev t pg off v) :
    exec i s = .next (s.after (lowerRemain pg off (writeReg t.code (pageInst t pg) pg off v s.dev).1)) := by
  rw [exec_regRow i pg off v s hi, live_next s _ hr, control_allowed _ t _ _ _ h]

end Sys2Proof.Machine
end

