-- ==== Sys2Proof/Laws/Settle.lean ====
section
/-!
SUPPORT. What follows a command: each pump leaves a device in which it has nothing to do, and what a bark's way leaves behind.
-/
namespace Sys2Proof.Machine

/-! ## Pumps with nothing to do -/

theorem processEvents_none (d : Dev) (h : d.events = []) : processEvents d = d := by
  cases d; simp only at h; subst h; rfl

theorem foldl_fixed {α β : Type} (f : β → α → β) (b : β) (l : List α) (h : ∀ a ∈ l, f b a = b) : l.foldl f b = b := by
  induction l with
  | nil => rfl
  | cons a r ih => rw [List.foldl_cons, h a (by simp), ih (fun x hx => h x (by simp [hx]))]

theorem jobIssue_busy (d : Dev) (id : Nat) (h : ∀ x ∈ d.jobs, ∀ j, x.2 = some j → j.busy = true ∧ j.fail = none) :
    jobIssue d id = d := by
  unfold jobIssue
  split
  · rfl
  · next j hj =>
    rcases mget_mem none d.jobs id with h0 | h0
    · rw [h0] at hj; cases hj
    · have := (h _ h0 j hj).1
      simp [this]

theorem jobsIssue_rest (d : Dev) (h : ∀ x ∈ d.jobs, ∀ j, x.2 = some j → j.busy = true ∧ j.fail = none)
    (hc : ∀ x ∈ d.change, flushOut d x.1 = true) : jobsIssue d = d := by
  have hf : (d.change.map (·.1)).foldl flushIssue d = d := by
    apply foldl_fixed
    intro w hw
    obtain ⟨x, hx, rfl⟩ := List.mem_map.1 hw
    simp [flushIssue, hc x hx]
  unfold jobsIssue
  rw [hf]
  exact foldl_fixed _ _ _ (fun id _ => jobIssue_busy d id h)

theorem jobsGo_rest (f : Nat) (d : Dev) (h : ∀ x ∈ d.jobs, ∀ j, x.2 = some j → j.busy = true ∧ j.fail = none)
    (hc : ∀ x ∈ d.change, flushOut d x.1 = true) : jobsGo f d = d := by
  cases f with
  | zero => exact jobsIssue_rest d h hc
  | succ f =>
    have hd : doneJobs d = [] := by
      unfold doneJobs
      rw [List.filterMap_eq_nil_iff]
      intro x hx
      split
      · next j hj => obtain ⟨h1, h2⟩ := h x hx j hj; simp [jobDone, h1, h2]
      · rfl
    simp only [jobsGo, jobsIssue_rest d h hc, hd]

theorem ledgerLost_none (d : Dev) (t h : Nat) (hl : ledgerGone d t h = false) : ledgerLost d t h = d := by
  unfold ledgerLost
  simp only [ledgerGone, beq_eq_false_iff_ne] at hl
  simp [hl]

theorem ledgersLost_none (d : Dev) (h : ∀ x ∈ d.towers, ∀ h, ledgerGone d x.1 h = false) : ledgersLost d = d := by
  unfold ledgersLost
  apply foldl_fixed
  intro t ht
  obtain ⟨x, hx, rfl⟩ := List.mem_map.1 ht
  rw [ledgerLost_none d _ _ (h x hx 0), ledgerLost_none d _ _ (h x hx 1)]

theorem badGo_rest (p q f : Nat) (d : Dev) (h : ∀ i it, headItem d p q = some (i, it) → it.bad = none) : badGo p q f d = d := by
  cases f with
  | zero => rfl
  | succ f =>
    unfold badGo
    split
    · next i it hi => rw [h i it hi]
    · rfl

theorem cplGo_rest (p q f : Nat) (d : Dev)
    (h : (rq d p q).held = [] ∨ rqOn (rq d p q) = false ∨ cqPlace d p (rq d p q) = false) : cplGo p q f d = d := by
  cases f with
  | zero => rfl
  | succ f =>
    unfold cplGo
    dsimp only
    split
    · rfl
    · next c rest hr =>
      rcases h with h | h | h
      · rw [hr] at h; cases h
      · simp [h]
      · simp [h]

theorem ring_rest (d : Dev) (p q : Nat) (h : RingRest d p q) :
    cplPump (badGo p q ((rq d p q).order.length) (readNext d p q)) p q = d := by
  have h1 : readNext d p q = d := by
    unfold readNext
    rcases h.reads with h | h | h <;> simp [h]
  rw [h1, badGo_rest _ _ _ _ h.head]
  exact cplGo_rest _ _ _ _ h.held

theorem ringsPass_rest (d : Dev) (h : ∀ x ∈ d.rqs, RingRest d (x.1 / 64) (x.1 % 64)) : ringsPass d = d := by
  unfold ringsPass
  apply foldl_fixed
  intro k hk
  obtain ⟨x, hx, rfl⟩ := List.mem_map.1 hk
  exact ring_rest d _ _ (h x hx)

theorem itemGo_rest (d : Dev) (i : Nat) (h : ∀ it, item d i = some it → ItemRest it) : itemGo d i = d := by
  unfold itemGo
  split
  · rfl
  · next it hi =>
    rcases h it hi with he | ⟨hz, hc⟩
    · simp [he]
    · have h2 : ¬(it.stage = .clearing ∧ it.left = 0) := fun x => hc x.1 x.2
      simp only [beq_iff_eq, hz, if_false, Bool.and_eq_true, h2]
      split <;> rfl

theorem itemsPump_rest (d : Dev) (h : ∀ x ∈ d.items, ∀ it, x.2 = some it → ItemRest it) : itemsPump d = d := by
  unfold itemsPump
  apply foldl_fixed
  intro i _
  apply itemGo_rest
  intro it hi
  rcases mget_mem none d.items i with h0 | h0
  · unfold item at hi; rw [h0] at hi; cases hi
  · exact h _ h0 it hi

theorem ringsPump_rest (d : Dev) (h : ∀ x ∈ d.rqs, RingRest d (x.1 / 64) (x.1 % 64))
    (hi : ∀ x ∈ d.items, ∀ it, x.2 = some it → ItemRest it) : ringsPump d = d := by
  unfold ringsPump
  rw [itemsPump_rest d hi, ringsPass_rest d h, ringsPass_rest d h]

theorem clearSent_rest (d : Dev) (h : ∀ h, (narta d h).sent = [] ∧ (narta d h).code.sent = []) : clearSent d = d := by
  unfold clearSent
  apply foldl_fixed
  intro k _
  simp [h k]

theorem towersPump_none (d : Dev) (h : ∀ x ∈ d.towers, x.2.draining = false) : towersPump d = d := by
  have hf : d.towers.filter (fun x => x.2.draining) = [] := by
    rw [List.filter_eq_nil_iff]; intro x hx; simp [h x hx]
  unfold towersPump
  rw [hf]; rfl

theorem txPump_rest (d : Dev) (h : ∀ h, txRests (narta d h) = true) : txPump d = d := by
  unfold txPump
  apply foldl_fixed
  intro k _
  simp [h k]

theorem flushPump_none (d : Dev) (h : ∀ h, (narta d h).flushes = []) : flushPump d = d := by
  unfold flushPump
  apply foldl_fixed
  intro k _
  simp [h k]

theorem stopPump_none (d : Dev) (h : ∀ h, (narta d h).stopping = false) : stopPump d = d := by
  unfold stopPump
  apply foldl_fixed
  intro k _
  simp [h k]

theorem failoverPump_none (d : Dev) (h : d.failover = []) : failoverPump d = d := by
  unfold failoverPump; rw [h]; rfl

theorem rcptDrain_rest (f : Nat) (d : Dev) (h : d.rcptQ = [] ∨ rcptPlace d = false) : rcptDrain f d = d := by
  cases f with
  | zero => rfl
  | succ f =>
    unfold rcptDrain
    split
    · rfl
    · next hq => rcases h with h | h
                 · rw [hq] at h; cases h
                 · simp [h]

theorem rcptPump_rest (d : Dev) (h : d.rcptQ = [] ∨ rcptPlace d = false) : rcptPump d = d := rcptDrain_rest _ d h

theorem partitionPump_none (d : Dev) (h : d.rstWait = []) : partitionPump d = d := by
  unfold partitionPump; rw [h]; rfl

theorem drainPump_none (d : Dev) (h : d.drain = none) (hc : d.boot.coldNext = false) : drainPump d = d := by
  have : coldPump d = d := by simp [coldPump, hc]
  unfold drainPump; rw [this]; dsimp only; rw [h]

theorem wearCheck_none (d : Dev) (h : getF d flshPg FLSH.FLSH_STAT_WEAR < 800 ∨ d.wearBarked = true) : wearCheck d = d := by
  unfold wearCheck
  rcases h with h | h <;> simp [h]

theorem evtDrain_rest (f : Nat) (d : Dev) (h : d.evt.queue = [] ∨ evtOn d = false) : evtDrain f d = d := by
  cases f with
  | zero => rfl
  | succ f =>
    unfold evtDrain
    split
    · rfl
    · next hq => rcases h with h | h
                 · rw [hq] at h; cases h
                 · simp [h]

theorem pumpBarks_none (d : Dev) (h : d.evt.raised = []) (hq : d.evt.queue = [] ∨ evtOn d = false) : pumpBarks d = d := by
  have : ({ d with evt := { d.evt with raised := [] } } : Dev) = d :=
    congrArg (fun r => ({ d with evt := { d.evt with raised := r } } : Dev)) h.symm
  unfold pumpBarks
  rw [h, List.foldl_nil, this]
  exact evtDrain_rest _ d hq

end Sys2Proof.Machine
end

