-- ==== Sys2Proof/WellFormed.lean ====
section
/-!
DEFINITION. Well-formed commands: what the types of the operands leave open, and no sender can send.
-/
namespace Sys2Proof

/-- A step index of a core, 0 to 4,095 (R92). -/
def UnitAccess.ok (a : UnitAccess) : Bool := decide (a.step < 4096)

/-- A frame carries 56 bytes of payload (R213). -/
def OptFrame.ok (f : OptFrame) : Bool := f.payload.length == 56

/-- A data frame carries NU + 1 units of 64 bytes, and travels with DKIND 1 alone (R220). -/
def BundleSlot.ok (f : BundleSlot) : Bool := f.data.length == (if f.dkind == 1#2 then 64 * (f.nu.toNat + 1) else 0)

/-- A flit has fifteen transaction slots of 16 bytes (R267). -/
def Flit.ok (f : Flit) : Bool := f.slots.length == 240

/-- A whistle address names a ring of a region, or the trunk, and a station on it (R141, R143). -/
def stationOk (s : Station) : Bool :=
  let ring := s.toNat / 64 % 8
  let st := s.toNat % 64
  if ring < 4 then decide (st < 35) else if ring == 4 then decide (st < 7) else ring == 7 && decide (st < 52)

/-- A selector of an OPT page that names a link: no region has a channel to itself (R22, R234). -/
def linkNames (r : RegionId) (v : LinkSel) : Bool := decide (v.val ≥ 64) || v.val % 32 != r.val

/-- Physical lanes of a link at an end: 280 of a bundle, 9 of a channel; and the settings training finds, of both channels of a pair (R219,
R223). -/
def linkLanes (v : LinkSel) : Nat := if v.val < 64 then 9 else 280
def linkSettings (v : LinkSel) : Nat := if v.val < 64 then 18 else 280

/-- Can a sender send the command? -/
def WellFormed (i : Instr) : Bool :=
  match i with
  | .moveCopy _ => true
  | .loadT _ => true
  | .storeT _ => true
  | .moveLoadX _ => true
  | .storeX _ => true
  | .tToX _ => true
  | .xToT _ => true
  | .sendO _ => true
  | .recvO _ => true
  | .feedT _ => true
  | .feedO _ => true
  | .gatherT _ => true
  | .gatherX _ => true
  | .loadN _ => true
  | .arrayLoadX _ => true
  | .stream _ => true
  | .accClear _ => true
  | .drainV _ => true
  | .drainS _ => true
  | .save _ => true
  | .restore _ => true
  | .merge _ => true
  | .vecAdd _ => true
  | .vecSub _ => true
  | .vecMul _ => true
  | .fma _ => true
  | .vecMin _ => true
  | .vecMax _ => true
  | .cmplt _ => true
  | .cmpeq _ => true
  | .cvtTo _ => true
  | .cvtFrom _ => true
  | .rcp _ => true
  | .rsqrt _ => true
  | .exp2 _ => true
  | .log2 _ => true
  | .addFold _ => true
  | .maxFold _ => true
  | .minFold _ => true
  | .setk _ => true
  | .syncTake _ => true
  | .release _ => true
  | .give _ => true
  | .syncWait _ => true
  | .ctrlNop _ => true
  | .loop _ => true
  | .branch _ => true
  | .phase _ => true
  | .seta _ => true
  | .adda _ => true
  | .settle _ => true
  | .ctrlEnd _ => true
  | .reservedStep _ => true
  | .stepComplete _ _ => true
  | .coreHeelReq _ => true
  | .coreResume _ => true
  | .tokenGrant _ p _ _ _ => decide (p.val < 236)
  | .tokenRelease _ p _ _ _ => decide (p.val < 236)
  | .tokenAck _ p _ _ => decide (p.val < 236)
  | .tokenResend _ p => decide (p.val < 236)
  | .tokenStall _ p => decide (p.val < 236)
  | .portAccess _ _ a b => a.ok && (b.map UnitAccess.ok).getD true
  | .fetchTurnEnd _ _ => true
  | .leash _ _ _ _ _ _ => true
  | .whistleAck src dst _ _ => stationOk src && stationOk dst
  | .whistleResend src dst _ => stationOk src && stationOk dst
  | .whsCheck _ => true
  | .whsTake _ => true
  | .slotTableSwitch w ring => if w.val == 32 then ring.val == 7 else decide (ring.val ≤ 4)
  | .hostPiece _ _ => true
  | .twrClear _ _ => true
  | .setAttr _ _ _ _ => true
  | .twrSweep _ _ => true
  | .migrate _ _ => true
  | .latRestart _ => true
  | .sweepBlock _ => true
  | .refreshTick _ => true
  | .refreshForced _ _ => true
  | .refreshStretch _ _ => true
  | .mvRow _ => true
  | .reduce _ => true
  | .stAcc _ => true
  | .ewAdd _ => true
  | .ewMul _ => true
  | .fill _ => true
  | .floorCopy _ => true
  | .floorClear _ => true
  | .floorGather _ => true
  | .vload _ => true
  | .vstore _ => true
  | .hole _ => true
  | .turn _ => true
  | .floorEnd _ => true
  | .flrHeelReq _ => true
  | .flrResume _ => true
  | .capSubwindow _ => true
  | .optDataFrame _ _ f => f.ok
  | .optLastFrame _ _ f => f.ok
  | .optIdleFrame _ _ f => f.ok
  | .optFencedFrame _ _ f => f.ok
  | .optRefusedFrame _ _ f => f.ok
  | .bundleSlot _ _ _ f => f.ok
  | .crcWindow r l _ => linkNames r l
  | .trainBypass r l _ _ _ => linkNames r l
  | .trainAdv r l _ _ _ _ => linkNames r l
  | .trainConf r l _ _ _ _ => linkNames r l
  | .combFail _ => true
  | .retrain _ => true
  | .jointTrain _ => true
  | .loopSelf _ => true
  | .loopFar _ => true
  | .loopEnd _ => true
  | .planLoad _ => true
  | .planUnload _ => true
  | .ringEnable _ _ => true
  | .ringAbort _ => true
  | .sqTail _ _ _ => true
  | .cqHead _ _ _ => true
  | .run _ _ => true
  | .batchStep _ _ => true
  | .streamOpen _ _ => true
  | .streamAbort _ _ => true
  | .streamRelease _ _ => true
  | .nop _ _ => true
  | .flitTlp _ f => f.ok
  | .flitIdle _ f => f.ok
  | .mwr _ => true
  | .mrd _ => true
  | .crd _ => true
  | .cwr _ => true
  | .cpl _ => true
  | .sqDoorbell _ => true
  | .cqDoorbell _ => true
  | .cplTimeout _ _ => true
  | .nartaNoCodeword _ => true
  | .portRetry _ _ => true
  | .trainingTimeout _ => true
  | .laneWindow _ c _ => c.length == 16
  | .nartaLane _ _ _ => true
  | .nartaEq _ _ => true
  | .nartaAdv _ _ _ => true
  | .nartaConf _ _ => true
  | .nartaStart _ _ => true
  | .fullTrain _ => true
  | .hlkDisable _ => true
  | .hlkEnable _ => true
  | .hlkCtl _ _ => true
  | .pageGuard _ _ => true
  | .registerWrite _ _ _ => true
  | .evtHead _ => true
  | .rcptHead _ => true
  | .warmReq => true
  | .noteTime _ => true
  | .noteDurable => true
  | .attest => true
  | .reportSigned => true
  | .advance => true
  | .alertAck => true
  | .rebase => true
  | .deviceStart => true
  | .dieChecks _ _ => true
  | .ready a b => decide (a ≠ b)
  | .electionClose _ => true
  | .lead a b => decide (a ≠ b)
  | .refuse a b _ => decide (a ≠ b)
  | .accept a b => decide (a ≠ b)
  | .electionRoundEnd => true
  | .stewardFail _ _ => true
  | .firmwareSelect => true
  | .loadHost => true
  | .writeSlot _ => true
  | .firmwareBlock _ _ d => decide (d.length < 2 ^ 23)
  | .checkerSelfTest _ _ => true
  | .knownAnswerRun _ _ => true
  | .mapBuild => true
  | .katRun _ _ => true
  | .kenlAdd _ => true
  | .rstCore _ => true
  | .rstPack _ => true
  | .rstTower _ => true
  | .towerResetResume _ d => decide d.Nodup
  | .rstPartition _ => true
  | .rstWarm => true
  | .warmDrainTimeout _ _ => true
  | .rstCold => true
  | .firmwareWatchdog => true
  | .muzzle _ _ => true
  | .clockBondFail _ _ => true
  | .coldRstN _ => true
  | .powerGoodFall _ _ => true
  | .pgAux _ _ => true
  | .refclkLoss => true
  | .currentEstimate _ => true
  | .limiterStepDown _ => true
  | .limiterStepUp _ => true
  | .protectionStep _ => true
  | .protectionRelease _ => true
  | .unlimitedRailOver _ => true
  | .reconciliation e => e.length == 44
  | .powerCeilRelease => true
  | .rampUpdate _ => true
  | .voltageConfirm _ _ => true
  | .slewEnd _ => true
  | .quadrantIdle _ => true
  | .ageingCheck _ s => s.length == 16
  | .sensorConversion r => r.length == 1680
  | .thermalModelUpdate _ => true
  | .hotSpotModel _ => true
  | .sensorSuspect _ _ => true
  | .sensorFail _ => true
  | .hiddenHeat _ _ => true
  | .thermalCeilStep _ => true
  | .thermalCeilRelease _ => true
  | .hardwareTrip _ _ _ => true
  | .heatPathSample _ _ _ => true
  | .bucketLeak => true
  | .sramScrub _ _ _ => true
  | .scrubPass _ m => m.length == 16
  | .scrubBlock _ => true
  | .scrubBehind _ => true
  | .ageingSample slacks eyeA eyeB => slacks.length == 128 && eyeA.length == 16 && eyeB.length == 16
  | .lifeSummary => true
  | .batchTimeout => true
  | .rootSigned => true
  | .rngReseed _ _ => true
  | .smbSetAddr _ _ _ => true
  | .smbRead _ => true
  | .smbStatus _ => true
  | .smbTimeout => true
  | .extest _ => true
  | .samplePreload _ _ => true
  | .idcode => true
  | .dieSel _ => true
  | .jtagPageRead _ _ => true
  | .standalone _ => true
  | .bypass _ => true
  | .jtagLock => true
  | .floorCmdComplete _ => true
  | .startUpTest _ => true
  | .linkDetectLock r l eyes centre =>
    linkNames r l && eyes.near.length == linkLanes l && eyes.far.length == linkLanes l && centre.length == linkSettings l
  | .linkTrainingTimeout r l => linkNames r l
  | .nartaDetectLock _ _ => true
  | .closedBatchWait => true
  | .trstN => true

end Sys2Proof
end

