-- ==== Sys2Proof/Tests/Slice0.lean ====
section
/-!
SUPPORT. Tests: the ill-formed terms that `WellFormed` refuses, worked values of the spec, and the small states on which the
witnesses of the obligations stand (`Witness1` to `Witness4`).
-/
namespace Sys2Proof.Machine.Tests
open Sys2Proof Sys2Proof.Machine

set_option Elab.async false

/-! ## Small states -/

/-- A started device: PHASE is 9, die 0 leads, every die is up, regions 0 and 1 are up, and core 0 stands on site 0 of its pack. -/
def started : Dev :=
  { Dev.init .ist8432 with
    boot := { Boot.init with reset := false, lead := some 0 }
    regs := [(32, 0x0000843200FF0000#64), (4128, 9#64), (16416, 2#64), (16928, 2#64), (17440, 2#64), (17952, 2#64), (18464, 2#64),
      (18976, 2#64), (19488, 2#64), (20000, 2#64), (131104, 1#64), (131616, 1#64), (524672, 0x8000000000000000#64)] }

/-- A register with another word. -/
def withReg (pg off : Nat) (w : Word64) (d : Dev) : Dev := setReg d pg off w

theorem test_started : bootPhase started = 9 ∧ dieUp started 7 = true ∧ getF started (rgnPg 1) RGN.RGN_STAT_STATE = 1 ∧
    siteOf started 0 = some 0 ∧ siteOf started 1 = none := by decide +kernel

def of (d : Dev) : State := { dev := d, pending := [] }

/-- The page is unlocked. -/
def unlock (pg : Nat) (d : Dev) : Dev := { d with guards := mput 0 d.guards pg 1024 }

/-- A step word, its condition ALWAYS. -/
def word (cls op operands : Nat) : BitVec 128 := BitVec.ofNat 128 (cls * 2 ^ 124 + op * 2 ^ 116 + operands)

/-- Core 0 runs, with one step at its head of issue and one to come. -/
def running (w : BitVec 128) : Core := { Core.init with st := .run, steps := [(0, w)], loaded := 2 }
def coreState (c : Core) : State := of (setCore started 0 c)
def atHead (w : BitVec 128) : State := coreState (running w)

/-- The conditions of `Allowed` as one test. -/
def mayWrite (d : Dev) (t : PageType) (pg off : Nat) (v : Word64) : Bool :=
  served d && !ctlReserved pg off && decide (pageTypeOf pg = some t) && !reservedCode d t.code (pageInst t pg) off v &&
    (pageState d t.code (pageInst t pg) == 1 || pageState d t.code (pageInst t pg) == 2 || pageState d t.code (pageInst t pg) == 5) &&
    (!guarded t off || pageUnlocked d pg) && writable off

theorem allowed_of (d : Dev) (t : PageType) (pg off : Nat) (v : Word64) (h : mayWrite d t pg off v = true) : Allowed d t pg off v := by
  simp only [mayWrite, Bool.and_eq_true, Bool.not_eq_true', decide_eq_true_eq, Bool.or_eq_true, beq_iff_eq] at h
  obtain ⟨⟨⟨⟨⟨⟨h1, h2⟩, h3⟩, h4⟩, h5⟩, h6⟩, h7⟩ := h
  refine ⟨h1, h2, h3, h4, ?_, ?_, h7⟩
  · rcases h5 with (h5 | h5) | h5
    · exact .inl h5
    · exact .inr (.inl h5)
    · exact .inr (.inr h5)
  · intro a
    rcases h6 with h6 | h6
    · rw [a] at h6; cases h6
    · exact h6

/-- The conditions of `Issues` as one test. -/
def mayIssue (d : Dev) (n : Nat) (w : BitVec 128) : Bool :=
  decide (headOf (core d n) = some w) && !(core d n).badStep.contains (core d n).pc &&
    (usedBits (wCls w.toNat) (wOp w.toNat)).isSome && wCond w.toNat != 15 && condTrue (core d n) (wCond w.toNat) &&
    (checkStep d.kind n (core d n) w.toNat).code == 0 && holdReason d n w.toNat (checkStep d.kind n (core d n) w.toNat) == 0

theorem issues_of (d : Dev) (n : Nat) (w : BitVec 128) (h : mayIssue d n w = true) : Issues d n w := by
  simp only [mayIssue, Bool.and_eq_true, Bool.not_eq_true', decide_eq_true_eq, beq_iff_eq, bne_iff_ne] at h
  obtain ⟨⟨⟨⟨⟨⟨h1, h2⟩, h3⟩, h4⟩, h5⟩, h6⟩, h7⟩ := h
  exact ⟨h1, h2, h3, ⟨h4, h5⟩, h6, h7⟩

/-! ## Commands that no sender can send -/

def anAccess : UnitAccess := ⟨.core 0, 0, none, true⟩
def aFrame : OptFrame := ⟨55, 0, 0, false, zeros 56, 0⟩
def aSlot : BundleSlot := ⟨1, 0, 0, 0, false, 0, 0, 0, 0, zeros 64, 0⟩
/-- Nine lanes whose eyes are at 50 % of the nominal eye. -/
def eye9 : List (BitVec 8) := List.replicate 9 50
def aFlit : Flit := ⟨0, 0, false, 15, 0, 0, 0, zeros 240, 0, true⟩

theorem test_access_step_refused : WellFormed (.portAccess 0 236 { anAccess with step := 4096 } none) = false ∧
    WellFormed (.portAccess 0 236 anAccess (some { anAccess with step := 4096, user := .core 1 })) = false ∧
    WellFormed (.portAccess 0 236 anAccess (some { anAccess with user := .floor })) = true ∧
    WellFormed (.portAccess 0 236 anAccess none) = true := by decide

theorem test_token_port_refused : WellFormed (.tokenGrant 0 236 0 0 true) = false ∧ WellFormed (.tokenRelease 0 236 0 0 true) = false ∧
    WellFormed (.tokenAck 0 236 0 true) = false ∧ WellFormed (.tokenResend 0 236) = false ∧ WellFormed (.tokenStall 0 236) = false ∧
    WellFormed (.tokenGrant 0 235 0 0 true) = true := by decide

theorem test_station_refused : WellFormed (.whistleAck 35 0 0 true) = false ∧ WellFormed (.whistleAck 0 35 0 true) = false ∧
    WellFormed (.whistleResend 263 0 0) = false ∧ WellFormed (.whistleResend 0 500 0) = false ∧
    WellFormed (.whistleAck 34 262 0 true) = true := by decide

theorem test_ring_refused : WellFormed (.slotTableSwitch 0 5) = false ∧ WellFormed (.slotTableSwitch 32 0) = false ∧
    WellFormed (.slotTableSwitch 32 7) = true ∧ WellFormed (.slotTableSwitch 0 4) = true := by decide

theorem test_short_frame_refused : WellFormed (.optDataFrame 3 4 { aFrame with payload := zeros 55 }) = false ∧
    WellFormed (.optLastFrame 3 4 { aFrame with payload := [] }) = false ∧
    WellFormed (.bundleSlot 0 0 true { aSlot with nu := 1 }) = false ∧
    WellFormed (.bundleSlot 0 0 true { aSlot with dkind := 0 }) = false ∧ WellFormed (.bundleSlot 0 0 true aSlot) = true ∧
    WellFormed (.flitTlp 0 { aFlit with slots := zeros 224 }) = false ∧
    WellFormed (.flitIdle 0 { aFlit with slots := zeros 224 }) = false ∧ WellFormed (.flitTlp 0 aFlit) = true := by decide +kernel

theorem test_link_refused : WellFormed (.crcWindow 5 5 ⟨0, 0⟩) = false ∧ WellFormed (.trainBypass 5 5 false 0 0) = false ∧
    WellFormed (.trainAdv 5 5 false 0 false 0) = false ∧ WellFormed (.trainConf 5 5 false 0 false 0) = false ∧
    WellFormed (.linkDetectLock 5 37 ⟨eye9, eye9⟩ (List.replicate 18 0)) = false ∧ WellFormed (.linkTrainingTimeout 5 5) = false ∧
    WellFormed (.linkDetectLock 5 6 ⟨eye9, eye9⟩ []) = false ∧ WellFormed (.linkDetectLock 5 6 ⟨[], eye9⟩ (List.replicate 18 0)) = false ∧
    WellFormed (.linkDetectLock 5 6 ⟨eye9, eye9⟩ (List.replicate 18 0)) = true ∧ WellFormed (.crcWindow 5 64 ⟨0, 0⟩) = true := by decide

theorem test_self_message_refused : WellFormed (.ready 2 2) = false ∧ WellFormed (.lead 2 2) = false ∧
    WellFormed (.refuse 2 2 0) = false ∧ WellFormed (.accept 2 2) = false ∧ WellFormed (.ready 2 3) = true := by decide

theorem test_list_lengths_refused : WellFormed (.laneWindow 0 [] 0) = false ∧ WellFormed (.reconciliation []) = false ∧
    WellFormed (.ageingCheck 0 []) = false ∧ WellFormed (.sensorConversion []) = false ∧ WellFormed (.scrubPass 0 []) = false ∧
    WellFormed (.ageingSample [] [] []) = false ∧
    WellFormed (.towerResetResume 0 [1, 1]) = false ∧ WellFormed (.towerResetResume 0 [1, 2]) = true := by decide +kernel

theorem test_section_length_refused (n : Nat) (h : 2 ^ 23 ≤ n) :
    WellFormed (.firmwareBlock (.steward 0) 0 (zeros n)) = false := by
  have e : (zeros n).length = n := by simp [zeros]
  simp only [WellFormed, e, decide_eq_false_iff_not, Nat.not_lt]
  exact h

/-! ## Worked values -/

/-- 1 + 1 = 2, and a subnormal result is kept (R57). -/
theorem test_add_values : fAdd 0x3F800000#32 0x3F800000#32 = 0x40000000#32 ∧ fMul 0x00800000#32 0x3F000000#32 = 0x00400000#32 := by
  decide +kernel

/-- −0 is less than +0 for MIN and MAX, and a lone NaN gives the other operand (R111). -/
theorem test_min_max : fMin 0#32 0x80000000#32 = 0x80000000#32 ∧ fMax 0x80000000#32 0#32 = 0#32 ∧
    fMin 0x7FC00000#32 0x3F800000#32 = 0x3F800000#32 ∧ fMin 0x7F800001#32 0xFFFFFFFF#32 = 0x7FC00000#32 := by decide +kernel

/-- reciprocal(3) rounds to nearest; log2(8) = 3; exp2(−126) is the smallest normal number (R57, R58). -/
theorem test_special_values : fRcp 0x40400000#32 = 0x3EAAAAAB#32 ∧ fLog2 0x41000000#32 = 0x40400000#32 ∧
    fExp2 0xC2FC0000#32 = 0x00800000#32 ∧ fRsqrt 0x40800000#32 = 0x3F000000#32 := by decide +kernel

/-- A chunk of 3 × 2^−5 in an empty element: anchor 4 × floor(−5 ÷ 4) = −8, total 24 (R77). -/
theorem test_promote : (promote AccElem.empty (.num 3 (-5) false)).val = .fixed 24 (-8) := by decide +kernel

/-- The all-zero step names no class (R93). -/
theorem test_zero_step : usedBits (wCls 0) (wOp 0) = none := by decide +kernel

/-- The straps give SMBus addresses 0x58 to 0x5B (R475). -/
theorem test_smbus_address : getF (pgAux true true started) smbPg SMB.SMB_STAT_ADDR = 0x5B := by decide +kernel

/-- Level 8 removes 8 pulses of 72, level 3 its first at cycle 23; a level demanded waits for the window boundary (R385). -/
theorem test_swallow : removed 8 0 72 = 8 ∧ removed 3 0 23 = 0 ∧ removed 3 23 24 = 1 ∧
    swallow 8 100 940 ⟨0, 6900⟩ = (940, ⟨8, 640⟩) ∧ swallow 8 100 940 ⟨8, 640⟩ = (840, ⟨8, 1580⟩) := by decide

/-- PAGE_ID of CORE page 0 XOR 0xA5A5 unlocks the page (R298). -/
theorem test_page_unlocks :
    remainOf (ctlWrite (corePg 0) 0x018 (BitVec.ofNat 64 (pageId CORE.page 0 ^^^ 0xA5A5)) started).1 (corePg 0) = 1024 := by
  decide +kernel

/-- SETA of A3 to 0x123, and ADDA of −1 to A3 (R117). -/
theorem test_seta : mget 0 (ctrlEffect Core.init 0 (word 6 4 (3 * 2 ^ 108 + 0x123 * 2 ^ 60)).toNat).addr 3 = 0x123#48 ∧
    mget 0 (ctrlEffect Core.init 0 (word 6 5 (3 * 2 ^ 108 + 0xFFFFFFFF * 2 ^ 76)).toNat).addr 3 = 0xFFFFFFFFFFFF#48 := by decide +kernel

end Sys2Proof.Machine.Tests
end

