-- ==== Sys2Proof/Tests/Witness1.lean ====
section
/-!
SUPPORT. States and operands that meet the hypotheses of the obligations: the block itself, and the steps of a core program.
-/
namespace Sys2Proof.Machine.Tests
open Sys2Proof Sys2Proof.Machine

set_option Elab.async false

/-! ## The block -/

theorem witness_step_takes_front : ({ State.reset with pending := [Instr.smbTimeout] } : State).pending = Instr.smbTimeout :: [] := rfl

theorem reset_still : Still State.reset.dev where
  events := rfl
  jobs := by intro x h; cases h
  changes := by intro x h; cases h
  ledgers := by intro x h; cases h
  rings := by intro x h; cases h
  items := by intro x h; cases h
  sent := by intro h; exact ⟨rfl, rfl⟩
  sends := by intro h; rfl
  cold := rfl
  towersAt := by intro x h; cases h
  receipts := .inl rfl
  drain := rfl
  waits := rfl
  failover := rfl
  flushes := by intro h; rfl
  stopping := by intro h; rfl
  wear := .inl (by decide +kernel)

theorem witness_empty_queue_idles : State.reset.pending = [] ∧ Quiet State.reset.dev ∧ Still State.reset.dev :=
  ⟨rfl, { reset_still with raised := rfl, queue := .inl rfl }, reset_still⟩

theorem witness_step_places_barks : ∃ s', step State.reset = .next s' := ⟨_, rfl⟩

/-! ## Issue -/

def copyWord : BitVec 128 := word 1 0 0
def addWord : BitVec 128 := word 4 0 0

theorem witness_engine_step_issues : stepRow (.moveCopy 0) = some (clsMove, 0, 0) ∧ clsMove ≠ clsCtrl ∧
    ¬ (clsMove = clsSync ∧ 0 = 3) ∧ (atHead copyWord).dev.boot.reset = false ∧ Issues (atHead copyWord).dev 0 copyWord ∧
    isOp clsMove 0 copyWord.toNat = true ∧ (nextHead (core (atHead copyWord).dev 0)).pc < (core (atHead copyWord).dev 0).loaded :=
  ⟨rfl, by decide, by decide, rfl, issues_of _ _ _ (by decide +kernel), by decide +kernel, by decide +kernel⟩

theorem witness_step_word_format : (atHead 0).dev.boot.reset = false ∧ headOf (core (atHead 0).dev 0) = some 0 ∧
    (core (atHead 0).dev 0).badStep.contains (core (atHead 0).dev 0).pc = false ∧
    usedBits ((0 : BitVec 128).extractLsb' 124 4).toNat ((0 : BitVec 128).extractLsb' 116 8).toNat = none ∧
    (core (atHead 0).dev 0).q = [] := by decide +kernel

theorem witness_vec_step_starts : stepRow (.vecAdd 0) = some (clsVec, 0, 0) ∧ Issues (atHead addWord).dev 0 addWord ∧
    isOp clsVec 0 addWord.toNat = true ∧ (nextHead (core (atHead addWord).dev 0)).pc < (core (atHead addWord).dev 0).loaded ∧
    (core (atHead addWord).dev 0).q = [] ∧ vecDrain (issuedStep (atHead addWord).dev 0 addWord) = false :=
  ⟨rfl, issues_of _ _ _ (by decide +kernel), by decide +kernel, by decide +kernel, by decide +kernel, by decide +kernel⟩

def loadWord : BitVec 128 := word 2 0 (0xFFFFFFFF * 2 ^ 80 + 0xFFFFFFFF * 2 ^ 48)
def zeroTile : Tile := ⟨.int8, false, 0xFFFFFFFF, 0xFFFFFFFF, List.replicate 1024 0, List.replicate 32 127, List.replicate 32 false,
  List.replicate 32 0⟩
/-- A stream that takes the shadow, one row of int8 activations. -/
def streamWord : BitVec 128 := word 2 2 (2 ^ 104)
def shadowed : State := coreState { running streamWord with shadow := some zeroTile, loads := [⟨.int8, false, 0xFFFFFFFF⟩] }

theorem witness_load_starts : stepRow (.loadN 0) = some (clsArray, 0, 0) ∧ Issues (atHead loadWord).dev 0 loadWord ∧
    isOp clsArray 0 loadWord.toNat = true ∧ (core (atHead loadWord).dev 0).q = [] ∧ (core (atHead loadWord).dev 0).shadow = none :=
  ⟨rfl, issues_of _ _ _ (by decide +kernel), by decide +kernel, by decide +kernel, by decide +kernel⟩

theorem witness_stream_starts : stepRow (.stream 0) = some (clsArray, 2, 0) ∧ Issues shadowed.dev 0 streamWord ∧
    isOp clsArray 2 streamWord.toNat = true ∧ (nextHead (core shadowed.dev 0)).pc < (core shadowed.dev 0).loaded ∧
    (core shadowed.dev 0).q = [] ∧ sDirect streamWord.toNat = false ∧ sTake streamWord.toNat = true ∧
    (core shadowed.dev 0).shadow.isSome = true :=
  ⟨rfl, issues_of _ _ _ (by decide +kernel), by decide +kernel, by decide +kernel, by decide +kernel, by decide +kernel,
    by decide +kernel, by decide +kernel⟩

def clearWord : BitVec 128 := word 3 0 (0xFFFFFFFF * 2 ^ 62)

theorem witness_acc_step_starts : stepRow (.accClear 0) = some (clsAcc, 0, 0) ∧ Issues (atHead clearWord).dev 0 clearWord ∧
    isOp clsAcc 0 clearWord.toNat = true ∧ (nextHead (core (atHead clearWord).dev 0)).pc < (core (atHead clearWord).dev 0).loaded ∧
    (core (atHead clearWord).dev 0).q = [] :=
  ⟨rfl, issues_of _ _ _ (by decide +kernel), by decide +kernel, by decide +kernel, by decide +kernel⟩

/-! ## CTRL and SYNC -/

/-- What every clause about a CTRL or SYNC step asks of the state of a step word. -/
def Ready (s : State) (w : BitVec 128) (cls op : Nat) : Prop :=
  s.dev.boot.reset = false ∧ Issues s.dev 0 w ∧ (core s.dev 0).q = [] ∧ wCls w.toNat = cls ∧ wOp w.toNat = op

def ready? (s : State) (w : BitVec 128) (cls op : Nat) : Bool :=
  !s.dev.boot.reset && mayIssue s.dev 0 w && decide ((core s.dev 0).q = []) && wCls w.toNat == cls && wOp w.toNat == op

theorem ready_of (s : State) (w : BitVec 128) (cls op : Nat) (h : ready? s w cls op = true) : Ready s w cls op := by
  simp only [ready?, Bool.and_eq_true, Bool.not_eq_true', decide_eq_true_eq, beq_iff_eq] at h
  exact ⟨h.1.1.1.1, issues_of _ _ _ h.1.1.1.2, h.1.1.2, h.1.2, h.2⟩

def ctrl (op operands : Nat) : BitVec 128 := word 6 op operands
def endState : State := coreState { running (ctrl 7 0) with item := some 3 }

theorem witness_ctrl_step_acts :
    (Ready (atHead (ctrl 0 0)) (ctrl 0 0) clsCtrl 0 ∧ Ready (atHead (ctrl 6 0)) (ctrl 6 0) clsCtrl 6 ∧
      Ready (atHead (ctrl 3 (15 * 2 ^ 108))) (ctrl 3 (15 * 2 ^ 108)) clsCtrl 3 ∧
      Ready (atHead (ctrl 4 (15 * 2 ^ 108))) (ctrl 4 (15 * 2 ^ 108)) clsCtrl 4 ∧
      Ready (atHead (ctrl 5 (15 * 2 ^ 108))) (ctrl 5 (15 * 2 ^ 108)) clsCtrl 5 ∧
      Ready (atHead (ctrl 1 (2 ^ 84))) (ctrl 1 (2 ^ 84)) clsCtrl 1 ∧
      Ready (atHead (ctrl 2 (2 ^ 100))) (ctrl 2 (2 ^ 100)) clsCtrl 2) ∧
    (nextHead (core (atHead (ctrl 0 0)).dev 0)).pc < (core (atHead (ctrl 0 0)).dev 0).loaded ∧
    (core (atHead (ctrl 1 (2 ^ 84))).dev 0).pc + 1 < (core (atHead (ctrl 1 (2 ^ 84))).dev 0).loaded ∧
    kTarget (ctrl 2 (2 ^ 100)).toNat < (core (atHead (ctrl 2 (2 ^ 100))).dev 0).loaded ∧
    (Ready endState (ctrl 7 0) clsCtrl 7 ∧ (core endState.dev 0).holders.any (fun x => x.2.isSome) = false ∧
      (core endState.dev 0).drained = [] ∧ (core endState.dev 0).item = some 3) :=
  ⟨⟨ready_of _ _ _ _ (by decide +kernel), ready_of _ _ _ _ (by decide +kernel), ready_of _ _ _ _ (by decide +kernel),
    ready_of _ _ _ _ (by decide +kernel), ready_of _ _ _ _ (by decide +kernel), ready_of _ _ _ _ (by decide +kernel),
    ready_of _ _ _ _ (by decide +kernel)⟩, by decide +kernel, by decide +kernel, by decide +kernel,
    ready_of _ _ _ _ (by decide +kernel), by decide +kernel, by decide +kernel, by decide +kernel⟩

/-- TAKE of list 200, GIVE of 2 on link 3, and a core that can do them. -/
def takeWord : BitVec 128 := word 5 0 (200 * 2 ^ 97)
def giveWord : BitVec 128 := word 5 2 (3 * 2 ^ 108 + 2 * 2 ^ 100)
def waitWord : BitVec 128 := word 5 3 (3 * 2 ^ 108 + 2 * 2 ^ 100)
def relWord : BitVec 128 := word 5 1 0
def link3 : Map SyncLink := [(3, ⟨1, 4, 2, 2, 0⟩)]
def taking : State := coreState { running takeWord with parked := [(200, some ⟨200, 5⟩)] }
def holding : State := coreState { running relWord with holders := [(0, some 200)], toks := [(0, some ⟨200, 5⟩)] }
def giving : State := coreState { running giveWord with sync := link3 }
def waiting : State := coreState { running waitWord with sync := link3 }

theorem witness_sync_step_acts :
    (Ready taking takeWord clsSync 0 ∧ mget none (nextHead (core taking.dev 0)).parked (yList takeWord.toNat) = some ⟨200, 5⟩) ∧
    (Ready holding relWord clsSync 1 ∧ mget none (nextHead (core holding.dev 0)).toks (yHolder relWord.toNat) = some ⟨200, 5⟩) ∧
    (Ready giving giveWord clsSync 2 ∧
      yCount giveWord.toNat ≤ (mget SyncLink.none (nextHead (core giving.dev 0)).sync (yLink giveWord.toNat)).held) ∧
    Ready waiting waitWord clsSync 3 ∧
    (nextHead (core taking.dev 0)).pc < (core taking.dev 0).loaded ∧ (nextHead (core waiting.dev 0)).pc < (core waiting.dev 0).loaded :=
  ⟨⟨ready_of _ _ _ _ (by decide +kernel), by decide +kernel⟩, ⟨ready_of _ _ _ _ (by decide +kernel), by decide +kernel⟩,
    ⟨ready_of _ _ _ _ (by decide +kernel), by decide +kernel⟩, ready_of _ _ _ _ (by decide +kernel), by decide +kernel,
    by decide +kernel⟩

/-- COND ODD0 with no loop: iteration 0 is even. -/
def oddWord : BitVec 128 := word 4 0 (14 * 2 ^ 112)

theorem witness_false_condition_skips : stepRow (.vecAdd 0) = some (clsVec, 0, 0) ∧ (atHead oddWord).dev.boot.reset = false ∧
    headOf (core (atHead oddWord).dev 0) = some oddWord ∧ isOp clsVec 0 oddWord.toNat = true ∧
    (core (atHead oddWord).dev 0).badStep.contains (core (atHead oddWord).dev 0).pc = false ∧ (usedBits clsVec 0).isSome = true ∧
    wCond oddWord.toNat ≠ 15 ∧ condTrue (core (atHead oddWord).dev 0) (wCond oddWord.toNat) = false ∧
    (core (atHead oddWord).dev 0).q = [] ∧ (nextHead (core (atHead oddWord).dev 0)).pc < (core (atHead oddWord).dev 0).loaded :=
  ⟨rfl, by decide +kernel⟩

/-- An ADD whose data is at its end, and a MOVE that still owes its leash. -/
def ended (w : BitVec 128) (e : Engine) : State := coreState { running 0 with q := [⟨0, w, e, [0, 0, 0], [], (0, 0), 0, true, true, false, false, 0, [], 0, 0⟩] }
def owing : BitVec 128 := word 1 0 (2 ^ 30)

theorem witness_step_completes :
    ((core (ended addWord .vec).dev 0).q.findIdx? (fun q => q.eng == .vec && canComplete (ended addWord .vec).dev 0 q) = some 0 ∧
      (core (ended addWord .vec).dev 0).q[0]?.isSome = true) ∧
    ((core (ended owing .move).dev 0).q.findIdx? (fun q => q.eng == .move && canComplete (ended owing .move).dev 0 q) = some 0 ∧
      mGV owing.toNat = true) := by decide +kernel

/-! ## What steps compute -/

theorem witness_copy_moves_bytes : (core started 0).badScratch = [] ∧ (0 + 64 * 3 ≤ 192 ∨ 192 + 64 * 3 ≤ 0) := by decide +kernel

theorem witness_vec_row_lanes : vN addWord.toNat = 1 ∧ wOp addWord.toNat ≤ 7 ∧ (∀ s, s < 3 → vKind addWord.toNat s = 0) ∧ 31 < 32 := by
  decide +kernel

theorem witness_acc_rows_hold : 31 < 32 ∧ (511 ≤ 511 ∧ 511 < 511 + 1 ∧ (0x80000000#32).getLsbD 31 = true) := by decide

theorem witness_total_is_exact : let cs : List (Int × Int) := [(3, -10), (-3, -10), (5, 40)]
    (-496 : Int) ≤ -10 ∧ (∀ x ∈ cs, x.1 ≠ 0 → -10 ≤ x.2 ∧ x.2 ≤ 440) ∧ (∃ x ∈ cs, x.1 ≠ 0) ∧
    (cs.map (fun x => (x.1.natAbs : Int) * 2 ^ (x.2 - -10).toNat)).sum < 2 ^ 60 := by decide

theorem witness_special_values : (0x807FFFFF#32).extractLsb' 23 8 = 0 ∧
    ((0xFF800000#32).msb = true ∧ 0x00800000 ≤ (0xFF800000#32).toNat % 2 ^ 31 ∧ (0xFF800000#32).toNat % 2 ^ 31 ≤ 0x7F800000) ∧
    (0x43000000 ≤ (0x43000000#32).toNat ∧ (0x43000000#32).toNat ≤ 0x7F800000) ∧
    (0xC2FC0000 < (0xC2FC0001#32).toNat ∧ (0xC2FC0001#32).toNat ≤ 0xFF800000) ∧ isNan 0x7F800001#32 = true := by decide +kernel

end Sys2Proof.Machine.Tests
end

