-- ==== Sys2Proof/Tests/Witness2.lean ====
section
/-!
SUPPORT. States and operands that meet the hypotheses of the obligations: tokens and messages, towers, floors, the optical base and
its links (chapters 5 to 8).
-/
namespace Sys2Proof.Machine.Tests
open Sys2Proof Sys2Proof.Machine

set_option Elab.async false

/-! ## Tokens and messages -/

/-- List entries: core 7 may move 1,024 bytes, the floor sequencer, a FETCH turn. -/
def coreEntry : BitVec 32 := BitVec.ofNat 32 (7 * 2 ^ 22 + 4)
def fetchEntry : BitVec 32 := BitVec.ofNat 32 (2 * 2 ^ 29)

def withPort (r p : Nat) (x : Port) : State := of (setPort started r p x)
/-- A port in its turn 5, its token away to core 7. -/
def away (pl : TokPlace) (kind resends : Nat) : State :=
  withPort 0 200 { Port.init with
    list := some [coreEntry], turn := 5, place := pl, lead := some 200, msgs := [⟨kind, 5, 7, resends, false⟩] }
/-- A port whose token waits, in one of the three ways that count (R136). -/
def waitsIn (pl : TokPlace) (lead : Option Nat) : State :=
  of (withReg (ordPg 0) ORD.ORD_WDOG_LIMIT.off 1 (setPort started 0 200 { Port.init with list := some [coreEntry], turn := 5, place := pl, lead := lead }))
def stalls (s : State) : Bool :=
  let x := port s.dev 0 200
  decide (portEntry 200 x = some coreEntry) && getF s.dev (ordPg 0) ORD.ORD_WDOG_LIMIT != 0 && x.list.isSome && !x.halted && !x.ended && !x.stalled

theorem witness_token_messages_act :
    ((port (away .granting 0 0).dev 0 200).place = .granting ∧ (port (away .granting 0 0).dev 0 200).turn % 2 ^ 14 = (5#14).toNat ∧
      (port (away .granting 0 0).dev 0 200).msgs.any (isMsg 0 (5#14).toNat 7) = true) ∧
    ((port (away .releasing 1 0).dev 0 200).place = .releasing ∧ (port (away .releasing 1 0).dev 0 200).turn % 2 ^ 14 = (5#14).toNat ∧
      (port (away .releasing 1 0).dev 0 200).msgs.any (isMsg 1 (5#14).toNat 7) = true) ∧
    ((port (away .granting 0 0).dev 0 200).place ≠ .releasing ∧ (port (away .releasing 1 0).dev 0 200).place ≠ .granting ∧
      (port (away .granting 0 0).dev 0 200).turn % 2 ^ 14 ≠ (4#14).toNat) ∧
    ((port (away .granting 0 7).dev 0 200).msgs = [⟨0, 5, 7, 7, false⟩] ∧ 7 < 8) ∧
    ((port (away .granting 0 8).dev 0 200).msgs = [⟨0, 5, 7, 8, false⟩] ∧ 8 ≤ 8) ∧
    (stalls (waitsIn .parked (some 200)) = true ∧ (port (waitsIn .parked (some 200)).dev 0 200).place = .parked) ∧
    (stalls (waitsIn .joinWait none) = true ∧ (port (waitsIn .joinWait none).dev 0 200).place = .joinWait ∧
      (port (waitsIn .joinWait none).dev 0 200).lead = none) ∧
    (stalls (waitsIn .atPort none) = true ∧ (port (waitsIn .atPort none).dev 0 200).place = .atPort ∧
      (entryUser coreEntry).isSome = true) ∧
    (getF (withReg (ordPg 0) ORD.ORD_WDOG_LIMIT.off 0 started) (ordPg 0) ORD.ORD_WDOG_LIMIT = 0 ∧ (port started 0 200).list = none ∧
      (port (waitsIn .held (some 200)).dev 0 200).place = .held) := by decide +kernel

/-- A message sent 8 times ends with its core muzzled: its token has returned with the core's others, or is still away. -/
theorem witness_token_given_up :
    let gone (s : State) (m : TokMsg) :=
      let x := port s.dev 0 200
      let z := muzzleCore (setPort s.dev 0 200 { x with msgs := [] }) (128 * 0 + m.user) 7
      x.lead = some 200 ∧ x.turn % 2 ^ 14 = m.turn ∧ (port z 0 200).lead = some 200 ∧ (port z 0 200).turn = x.turn
    gone (away .releasing 1 8) ⟨1, 5, 7, 8, false⟩ ∧
      ¬ gone (withPort 0 200 { Port.init with list := some [coreEntry], turn := 6, msgs := [⟨1, 5, 7, 8, false⟩] }) ⟨1, 5, 7, 8, false⟩ := by
  decide +kernel

def access (u : Fin 128) (turn : Nat) : UnitAccess := ⟨.core u, 3, some ⟨200, turn⟩, true⟩
/-- Core 0 with a LOAD_T that runs: its units cross the vertical channel of its column. -/
def verticalWord : BitVec 128 := word 1 1 0
def climbing : State :=
  coreState { running 0 with q := [⟨0, verticalWord, .move, [0, 0, 0], [], (0, 0), 0, true, true, false, false, 0, [], 0, 0⟩] }

theorem witness_port_access_acts : (200 < 236) ∧ refusal (away .held 9 0).dev 0 200 7 (some ⟨200, 5⟩) false = none ∧
    refusal (away .held 9 0).dev 0 200 7 (some ⟨200, 4⟩) false = some 3 ∧
    refusal (away .held 9 0).dev 0 200 (userOf .floor) (some ⟨200, 5⟩) false = some 4 ∧
    (236 ≤ (236 : LocalPort).val ∧ vertPort climbing.dev 0 = 236 ∧ (port climbing.dev 0 236).halted = false ∧
      (core climbing.dev 0).q.any (fun q => q.eng == .move && q.started && !q.dataDone && !onCrossbar (wOp q.word.toNat)) = true) ∧
    (access 7 5).write = (anAccess : UnitAccess).write ∧ (201 ≠ 200) := by decide +kernel

/-- A port of bank column 3 at a FETCH turn of its plan, and one whose list has ended; the column owes a refresh. A clear that waits at
the head of a queue holds the turn. -/
def fetching : State := of (setColumn (setPort started 0 3 { Port.init with list := some [fetchEntry], plan := true }) 0 3 ⟨1, [], false⟩)
def fetchEnded : State := withPort 0 3 { Port.init with list := some [fetchEntry], plan := true, ended := true }
def turnWaits : State := of (setColumn started 0 3 ⟨1, [⟨0, 0, 0, .clearWaits, .twrCmd⟩], false⟩)

theorem witness_fetch_turn_ends :
    ((tower fetchEnded.dev 0).hold = false ∧ (tower fetchEnded.dev 0).scrub.running = false ∧ turnHeld fetchEnded.dev 0 3 = false ∧
      (port fetchEnded.dev 0 3).ended = true ∧ (port fetchEnded.dev 0 3).list.isSome = true) ∧
    ((tower turnWaits.dev 0).hold = false ∧ (tower turnWaits.dev 0).scrub.running = false ∧ turnHeld turnWaits.dev 0 3 = true) ∧
    (turnHeld started 0 3 = false ∧ (port started 0 3).plan = false ∧ (port started 0 3).ended = false) ∧
    (turnHeld fetching.dev 0 3 = false ∧ (port fetching.dev 0 3).plan = true ∧ (port fetching.dev 0 3).ended = false ∧
      fetchNow fetching.dev 0 3 = true ∧ (column fetching.dev 0 3).queue = [] ∧ 1 ≤ (column fetching.dev 0 3).debt) := by decide +kernel

/-- A leash message from core 0 to core 128 on link 3, whose link 5 faces it. -/
def leashed (seen : Bool) (resends : Nat) : State :=
  of (setCore { started with wmsgs := [⟨0, 512, 1, 9, 0, 3, 2, seen, resends⟩] } 128 { Core.init with sync := [(5, ⟨0, 3, 4, 0, 0⟩)] })
def taken : State := of (setRing started 0 0 { Ring.init with take := true })
/-- A message to the steward of the tower of region 2, which is in reset. -/
def towerMail : State :=
  of (setTower { started with wmsgs := [⟨stationAt 32 7 32, stationAt 2 4 4, 7, 9, 0, 0, 0, false, 3⟩] } 2 { Tower.init with hold := true })

theorem witness_whistle_network_acts :
    ((128 : CoreId) ≠ 0 ∧ (⟨0, 512, 1, 9, 0, 3, 2, false, 0⟩ : WMsg) ∈ (leashed false 0).dev.wmsgs ∧ stationOf (leashed false 0).dev 0 = 0 ∧
      stationOf (leashed false 0).dev 128 = 512 ∧ wtLeash = 1 ∧ mayTravel (leashed false 0).dev 0 512 = true ∧
      inOrder (leashed false 0).dev ⟨0, 512, 1, 9, 0, 3, 2, false, 0⟩ = true ∧
      (∀ x ∈ (leashed false 0).dev.wmsgs, x.src = 0 → x.dst = 512 → x.seq = 9 → x.seen = false) ∧
      (List.range 16).find? (fun l =>
        let y := mget SyncLink.none (core (leashed false 0).dev 128).sync l
        y.depth != 0 && y.farCore == 0 && y.farLink == 3) = some 5) ∧
    (waitsAtTrunk towerMail.dev (stationAt 2 4 4) = true ∧
      towerMail.dev.wmsgs.find? (fun m => m.src == stationAt 32 7 32 && m.dst == stationAt 2 4 4 && m.seq == 9) =
        some ⟨stationAt 32 7 32, stationAt 2 4 4, 7, 9, 0, 0, 0, false, 3⟩) ∧
    (mayTravel (leashed false 7).dev 512 0 = true ∧ waitsAtTrunk (leashed false 7).dev 512 = false) ∧
    ((leashed false 7).dev.wmsgs.find? (fun m => m.src == 0 && m.dst == 512 && m.seq == 9) = some ⟨0, 512, 1, 9, 0, 3, 2, false, 7⟩ ∧ 7 < 8) ∧
    ((leashed false 8).dev.wmsgs.find? (fun m => m.src == 0 && m.dst == 512 && m.seq == 9) = some ⟨0, 512, 1, 9, 0, 3, 2, false, 8⟩ ∧ 8 ≤ 8) ∧
    (ringLegal 0 0 = true ∧ (ring taken.dev 0 0).take = true ∧ (ring started 0 0).take = false) := by decide +kernel

/-! ## Memory towers -/

theorem witness_tower_windows : (31 < 32 ∧ 2 ^ 15 - 1 < 2 ^ 15 ∧ 2 ^ 21 - 1 < 2 ^ 21) ∧ ¬ 16384 < Config.pages .ist8416 ∧
    16383 < Config.pages .ist8416 := by decide

/-- Page 0 of tower 0, FRESH in frame 768 (bank column 3), every permission. -/
def freshPage : MapEntry := mkEntry meFresh 0 15 1 1 768
def paged (q : List Piece) (debt : Int) : State :=
  of (setTower started 0 { Tower.init with map := [(0, freshPage)], cols := [(3, ⟨debt, q, false⟩)] })
def readPiece : Piece := ⟨0, 64, 8, .read, .hostRead 0 3 0 true 0⟩
def writePiece : Piece := ⟨0, 64, 8, .write (zeros 8), .hostWrite 0 4 1⟩
def sweeping : State :=
  of (setTower started 0 { Tower.init with map := [(0, meSet freshPage 46 46 1)], sweep := some ⟨0, 0, 1⟩ })

/-- A floor command runs that selects bank column 3. -/
def selecting (debt : Int) : Dev :=
  setFloor (paged [] debt).dev 0 { Floor.init with st := .run, running := true, loaded := 1, masks := [(0, 8#136)] }

theorem witness_tower_columns_act :
    (fetchNow (paged [readPiece] 0).dev 0 3 = true ∧ (column (paged [readPiece] 0).dev 0 3).queue = readPiece :: [] ∧
      (readTower (setColumn (paged [readPiece] 0).dev 0 3 ⟨0, [], false⟩) .host (devAddr 0 0 64) 8).2.toOption = some (zeros 8)) ∧
    (fetchNow (paged [writePiece] 0).dev 0 3 = true ∧ (column (paged [writePiece] 0).dev 0 3).queue = writePiece :: [] ∧
      (writeTower (setColumn (paged [writePiece] 0).dev 0 3 ⟨0, [], false⟩) .host (devAddr 0 0 64) (zeros 8)).2 = none) ∧
    ((tower sweeping.dev 0).sweep = some ⟨0, 0, 1⟩ ∧ backgroundNow sweeping.dev 0 (frameCol (meFrame (entry sweeping.dev 0 0))) = true) ∧
    ((tower (paged [] 8).dev 0).hold = false ∧ 8 ≤ (column (paged [] 8).dev 0 3).debt ∧ 4 ≤ (column (paged [] 4).dev 0 3).debt ∧
      (column (paged [] 4).dev 0 3).debt < 8 ∧ floorSelects (paged [] 4).dev 0 3 = false ∧
      floorSelects (count (refreshOp (paged [] 8).dev 0 3 TWR.STRETCHES) (twrPg 0) TWR.STRETCH_FORCED 1) 0 3 = false ∧ (4 : Nat) ≠ 3) ∧
    (8 ≤ (column (selecting 8) 0 3).debt ∧ (column (selecting 7) 0 3).debt < 8 ∧ floorSelects (selecting 7) 0 3 = true ∧
      floorSelects (count (refreshOp (selecting 8) 0 3 TWR.STRETCHES) (twrPg 0) TWR.STRETCH_FORCED 1) 0 3 = true) := by
  decide +kernel

theorem witness_tower_words : (15 < 16 ∧ (zeros 32).length = 32) ∧ ((zeros 32).length = 32 ∧ 65535 < 65536 ∧
    (meState (entry (paged [] 0).dev 0 0) = meFresh ∨ meState (entry (paged [] 0).dev 0 0) = meValid)) := by decide +kernel

/-! ## The tower floor -/

/-- A floor sequence of one command, on bank column 0 alone, whose token it holds. -/
def flooring (w : Nat) : State :=
  of (setPort (setFloor started 0 { Floor.init with
    st := .run, loaded := 2, seq := [(0, BitVec.ofNat 128 w)], masks := [(0, 1#136)], item := some 4,
    held := [(0, some ⟨0, 0⟩)] }) 0 0 { Port.init with list := some [BitVec.ofNat 32 (2 ^ 29)], plan := true, lead := some 0, place := .held })
def holeWord : Nat := 12 * 2 ^ 122
def turnWord : Nat := 13 * 2 ^ 122
def endWord : Nat := 14 * 2 ^ 122

theorem floor_starts_of (d : Dev) (t : Nat)
    (h : (floorReady (floor d t) && !(tower d t).hold && decide ((floor d t).cmd < (floor d t).loaded) &&
      !floorSramBad d t (floor d t).cmd (fMask d t (fWord d t)) (fWord d t) && floorStatic (fMask d t (fWord d t)) (fWord d t) == 0 &&
      floorHolds (floor d t) (fMask d t (fWord d t)) (fWord d t) == 0) = true) : FloorStarts d t := by
  simp only [Bool.and_eq_true, Bool.not_eq_true', decide_eq_true_eq, beq_iff_eq] at h
  exact ⟨h.1.1.1.1.1, h.1.1.1.1.2, h.1.1.1.2, h.1.1.2, h.1.2, h.2⟩

/-- A HOLE waits for an earlier command's tail, a FILL for what is left of the spacing. -/
def tailing : State := of (setFloor started 0 { floor (flooring holeWord).dev 0 with
  time := { FloorTime.init with tails := [(BitVec.ofNat 128 holeWord, 1#136, 200)] } })
def fillWord : Nat := 6 * 2 ^ 122
def spacing : State := of (setFloor started 0 { floor (flooring fillWord).dev 0 with time := { FloorTime.init with spaceLeft := 5 } })

theorem witness_floor_command_waits :
    (fOp (fWord tailing.dev 0) = 12 ∧ floorReady (floor tailing.dev 0) = true ∧ (tower tailing.dev 0).hold = false ∧
      (floor tailing.dev 0).cmd < (floor tailing.dev 0).loaded ∧
      floorStatic (fMask tailing.dev 0 (fWord tailing.dev 0)) (fWord tailing.dev 0) = 0 ∧
      floorHolds (floor tailing.dev 0) (fMask tailing.dev 0 (fWord tailing.dev 0)) (fWord tailing.dev 0) = 2) ∧
    (fOp (fWord spacing.dev 0) = 6 ∧ floorReady (floor spacing.dev 0) = true ∧
      floorStatic (fMask spacing.dev 0 (fWord spacing.dev 0)) (fWord spacing.dev 0) = 0 ∧
      floorHolds (floor spacing.dev 0) (fMask spacing.dev 0 (fWord spacing.dev 0)) (fWord spacing.dev 0) = 3) := by decide +kernel

theorem witness_floor_command_starts : floorRow (.hole 0) = some (12, 0) ∧ 12 ≤ 12 ∧ (flooring holeWord).dev.boot.reset = false ∧
    FloorStarts (flooring holeWord).dev 0 ∧ fOp (fWord (flooring holeWord).dev 0) = 12 ∧
    heldFault (flooring holeWord).dev 0 (selCols (fMask (flooring holeWord).dev 0 (fWord (flooring holeWord).dev 0))) = none ∧
    (pageFault (flooring holeWord).dev 0 (fWord (flooring holeWord).dev 0)
      (selCols (fMask (flooring holeWord).dev 0 (fWord (flooring holeWord).dev 0)))).isNone = true ∧
    fRuns (fWord (flooring holeWord).dev 0) = [] :=
  ⟨rfl, by decide, rfl, floor_starts_of _ _ (by decide +kernel), by decide +kernel, by decide +kernel, by decide +kernel,
    by decide +kernel⟩

def completing : State := of (setFloor started 0 { Floor.init with st := .run, running := true, loaded := 2, seq := [(1, BitVec.ofNat 128 holeWord)] })

theorem witness_floor_sequence_moves :
    (FloorStarts (flooring turnWord).dev 0 ∧ fOp (fWord (flooring turnWord).dev 0) = 13) ∧
    (FloorStarts (flooring endWord).dev 0 ∧ fOp (fWord (flooring endWord).dev 0) = 14 ∧ (floor (flooring endWord).dev 0).item = some 4) ∧
    (let f := floor completing.dev 0
     f.running = true ∧ f.st ≠ .fault ∧ f.turnSent = false ∧ f.clearWait = none ∧ f.heelReq = false ∧ f.time.opens = [] ∧ f.cmd + 1 < f.loaded ∧
      (fLowBit (fOp (mget (0 : BitVec 128) f.seq (f.cmd + 1)).toNat)).isSome = true) :=
  ⟨⟨floor_starts_of _ _ (by decide +kernel), by decide +kernel⟩, ⟨floor_starts_of _ _ (by decide +kernel), by decide +kernel⟩,
    by decide +kernel⟩

/-! ## The optical base and the bundles -/

def upLink (r v : Nat) : Dev := setLink started r v { Link.init with st := .up, phase := .up }
def sealedFrame (kind : Nat) (f : OptFrame) : OptFrame := { f with crc := frameCrc kind f }

/-- Channel 0 to 1 with 512 frames that its cores have not taken. -/
def stuffed : Dev := setChan (upLink 0 1) 0 1 { Chan.init with rx := List.replicate 512 ⟨0, 1, [], 0⟩ }

theorem witness_optical_frame_arrives : (0 : RegionId) ≠ 1 ∧ (link (upLink 0 1) 0 1).st = .up ∧ (chan (upLink 0 1) 1 0).unacked = [] ∧
    (chan (upLink 0 1) 0 1).rx.length < 512 ∧ 512 ≤ (chan stuffed 0 1).rx.length ∧ (link stuffed 0 1).st = .up ∧
    ({ aFrame with seq := 7 } : OptFrame).seq.toNat ≠ (chan (upLink 0 1) 0 1).expect ∧ (chan (upLink 0 1) 0 1).expect < 1024 ∧
    aFrame.nak = false ∧ aFrame.seq.toNat = (chan (upLink 0 1) 0 1).expect ∧
    (∀ k ∈ [1, 2, 3, 5, 0], frameCrc k (sealedFrame k aFrame) = (sealedFrame k aFrame).crc ∧ frameCrc k aFrame ≠ aFrame.crc) := by
  decide +kernel

def sealedSlot (f : BundleSlot) : BundleSlot := { f with crc := slotCrc f }

theorem witness_bundle_slot_arrives : (link (upLink 0 64) 0 (64 + 0)).st = .up ∧ slotCrc (sealedSlot aSlot) = (sealedSlot aSlot).crc ∧
    (bundle (upLink 0 64) 0 0 false).unacked = [] ∧ aSlot.nak = false ∧ aSlot.seq.toNat = (bundle (upLink 0 64) 0 0 true).expect ∧
    (bundle (upLink 0 64) 0 0 true).txNext = (bundle (upLink 0 64) 0 0 true).expect ∧ (bundle (upLink 0 64) 0 0 true).unacked.length < 32 ∧
    (aSlot.dkind = 1#2 ∨ aSlot.mt0 ≠ 0#4 ∨ aSlot.mt1 ≠ 0#4) ∧ slotCrc aSlot ≠ aSlot.crc := by decide +kernel

def errorLink (cnt overrun : Nat) : Dev := setLink started 0 1 { Link.init with st := .up, phase := .up, crcCnt := cnt, overrun := overrun }
def oneComb : Dev := withReg (optPg 0) (combField 1).off (withField 0 (combField 1) 3) started

theorem witness_link_failures_act : linkOk 0 1 = true ∧
    (let lim := getF started (optPg 0) OPT.CRC_LIM
     (link (errorLink lim 2) 0 1).crcCnt ≤ lim ∧ (link (errorLink (lim + 1) 1) 0 1).overrun < 2 ∧ lim ≠ 0 ∧ lim < (link (errorLink (lim + 1) 2) 0 1).crcCnt ∧
      2 ≤ (link (errorLink (lim + 1) 2) 0 1).overrun ∧ (link (errorLink (lim + 1) 2) 0 1).st = .up) ∧
    (combState started 0 ≠ 3 ∧ combState started 1 ≠ 3 ∧ combState oneComb 1 = 3 ∧ combState oneComb 0 ≠ 3) := by decide +kernel

def training (k : TrainKind) (ph : TrainPhase) (near far : LinkEnd) : Dev :=
  setLink started 0 1 { Link.init with st := .training, kind := k, phase := ph, tid := 6, near := near, far := far }
/-- Saved settings of link 0 to 1, every eye at 50 % as it was saved. -/
def savedOnce (d : Dev) : Dev := { d with saved := [(saveKey 0 1, ⟨0, [], 0, 0, List.replicate 18 7, eye9, eye9⟩)] }
def aJoint : Dev := setLink started 0 1 { Link.init with st := .training, kind := .saved, joint := true }

theorem witness_training_words_act : linkOk 0 1 = true ∧
    (let l := link (training .fresh .detect LinkEnd.init LinkEnd.init) 0 1; l.st = .training ∧ l.phase = .detect ∧ l.kind = .fresh) ∧
    (let d := savedOnce (training .saved .detect LinkEnd.init LinkEnd.init)
     let old : SavedRec := ⟨0, [], 0, 0, List.replicate 18 7, eye9, eye9⟩
     let thr := fun (e : Bool) => getF d (optPg (endRegion 0 1 e)) OPT.MARGIN_THR
     let shut : List (BitVec 8) := List.replicate 9 0
     (link d 0 1).st = .training ∧ (link d 0 1).phase = .detect ∧ (link d 0 1).kind = .saved ∧
      d.saved.find? (fun x => x.1 == saveKey 0 1) = some (saveKey 0 1, old) ∧
      worseEye (thr false) old.near eye9 = false ∧ worseEye (thr true) old.far eye9 = false ∧ worseEye (thr true) old.far shut = true) ∧
    (let l := link (training .fresh .measure LinkEnd.init LinkEnd.init) 0 1
     l.st = .training ∧ l.phase = .measure ∧ mget none l.far.bypass (7#3).toNat = none) ∧
    (let l := link (training .fresh .agree { LinkEnd.init with adv := some 2#2 } LinkEnd.init) 0 1
     l.st = .training ∧ l.phase = .agree ∧ l.joint = false ∧ (6#8).toNat = l.tid ∧
      ∃ own, l.near.adv = some own ∧ l.near.sentConf = none ∧ own &&& 3#2 = own) ∧
    (let l := link (training .saved .agree { LinkEnd.init with sentConf := some 3#2 } { LinkEnd.init with gotConf := some 3#2 }) 0 1
     l.st = .training ∧ l.phase = .agree ∧ l.kind = .saved ∧ (6#8).toNat = l.tid ∧ l.near.sentConf = some 3#2 ∧ (3#2 : BitVec 2) ≠ 0#2 ∧
      l.far.gotConf.isSome = true) ∧
    ((link aJoint 0 1).st = .training ∧ (link aJoint 0 1).kind = .saved ∧ (link aJoint 0 1).joint = true ∧
      (link (training .saved .detect LinkEnd.init LinkEnd.init) 0 1).joint = false) ∧
    (linkPeer 0 1 = some 1 ∧ (1 : Nat) ≠ 0 ∧ linkPeer 0 64 = none) := by decide +kernel

end Sys2Proof.Machine.Tests
end

