-- ==== Sys2Proof/Tests/Witness3.lean ====
section
/-!
SUPPORT. States and operands that meet the hypotheses of the obligations: rings, items, streams, the host link and the control pages
(chapters 9 to 11).
-/
namespace Sys2Proof.Machine.Tests
open Sys2Proof Sys2Proof.Machine

set_option Elab.async false

/-! ## Rings, items and streams -/

/-- Partition 0 has a plan loaded, and tower 0 is its own. -/
def loaded : Dev :=
  withReg (rgnPg 0) RGN.RGN_STAT_IN_SET.off (withField 1 RGN.RGN_STAT_IN_SET 1)
    (withReg (partPg 0) PART.PART_STAT_STATE.off (withField 0 PART.PART_STAT_STATE psLoaded) started)
def anItem (op : Nat) (ws : List Nat) : Item := ⟨0, 0, 0, 7, false, false, op, ws, none, false, false, [], [], 0, .idle, [], 0, 0⟩
def queued (op : Nat) (ws : List Nat) (d : Dev) (f : Item → Item := id) : Dev :=
  { d with rqs := [(rqKey 0 0, { RingQ.init with order := [0], issued := 1 })], items := [(0, some (f (anItem op ws)))], nextItem := 1,
           plans := [(0, ⟨[[⟨false, 0, 0, [0, 0, 0, 0]⟩]], [], []⟩)] }
/-- Page 0 of tower 0 is readable by all, and record 0 stands in state `st`. -/
def recorded (st : Nat) (d : Dev) : Dev :=
  setHk (setTower d 0 { Tower.init with map := [(0, freshPage), (recPage d.kind 0, mkEntry meFresh 0 15 1 1 769)] }) 0
    { HkRec.free with state := st }

/-- The batch table of the item has been read: one entry, of record 0. -/
def tabled (it : Item) : Item := { it with stage := .read, table := zeros 16 }

theorem witness_item_starts_units :
    (let d := queued 1 [0, 0, 0, 0, 0] loaded
     refusedStart d 0 (anItem 1 [0, 0, 0, 0, 0]) = none ∧
      ((entryOf d (anItem 1 [0, 0, 0, 0, 0])).getD []).all (unitFree d) = true ∧ ((entryOf d (anItem 1 [0, 0, 0, 0, 0])).getD []) ≠ [] ∧
      readyHead d 0 0 1 = some (0, anItem 1 [0, 0, 0, 0, 0])) ∧
    (let d := queued 2 [0, 0, 0, 0, 0] (recorded ssOpen loaded)
     refusedStart d 0 (anItem 2 [0, 0, 0, 0, 0]) = none ∧
      ((entryOf d (anItem 2 [0, 0, 0, 0, 0])).getD []).all (unitFree d) = true ∧
      readyHead d 0 0 2 = some (0, anItem 2 [0, 0, 0, 0, 0]) ∧ tableOk d 0 0 1 = true ∧
      tableOk (queued 2 [0, 0, 0, 0, 0] loaded) 0 0 1 = false ∧
      readyHead (queued 2 [0, 0, 0, 0, 0] loaded) 0 0 2 = some (0, anItem 2 [0, 0, 0, 0, 0])) ∧
    (∀ waits : Bool,
      let it := tabled (anItem 2 [0, 0, 0, 0, 0])
      let d0 := recorded ssOpen loaded
      let d := queued 2 [0, 0, 0, 0, 0]
        (if waits then setPort d0 0 3 { Port.init with list := some [coreEntry], plan := true } else d0) tabled
      let recs := walkOrder ((List.range 1).map (fun j => batchRec ((tableWords it).getD j 0) j))
      let y := (List.range 1).foldl (fun d j => walkWrite d (0 + 16 * j + 8) (zeros 8)) (recs.foldl (fun d b => setBusy d b.record true) d)
      refusedStart d 0 it = none ∧ readyHead d 0 0 2 = some (0, it) ∧ it.stage = .read ∧ walkCheck d 0 (tableWords it) = some stOk ∧
        (walkWaiting y 0 16).isEmpty = !waits) := by decide +kernel

theorem witness_core_starts : 0 < (core (setCore started 5 { Core.init with loaded := 1 }) 5).loaded := by decide +kernel

theorem witness_stream_descriptors_act :
    (let d := queued 3 [0, 0, 0, 0, 0] loaded
     readyHead d 0 0 3 = some (0, anItem 3 [0, 0, 0, 0, 0]) ∧ partState d 0 = psLoaded ∧ ownTower d 0 (recTower 0) = true ∧
      ownTower d 0 (bits 0 40 36) = true ∧ (hkOf d 0).state = ssFree ∧ recHeld d 0 = false) ∧
    (let d := queued 4 [0, 0, 0, 0, 0] (recorded ssOpen loaded)
     readyHead d 0 0 4 = some (0, anItem 4 [0, 0, 0, 0, 0]) ∧ (hkOf d 0).part = 0 ∧ liveState (hkOf d 0).state = true ∧
      (hkOf d 0).busy = false ∧ recHeld d 0 = false ∧ (recRead d 0).2.isSome = true) ∧
    (let d := queued 5 [0, 0, 0, 0, 0] (recorded ssEnded loaded)
     readyHead d 0 0 5 = some (0, anItem 5 [0, 0, 0, 0, 0]) ∧ (hkOf d 0).part = 0 ∧ (hkOf d 0).state = ssEnded ∧
      (hkOf d 0).pending = false ∧ acctOf d 0 = none ∧ recHeld d 0 = false ∧ releasing d 0 = false ∧ (recRead d 0).2.isSome = true ∧
      bit (itw (anItem 5 [0, 0, 0, 0, 0]) 1) 20 = false ∧ bit (itw (anItem 5 [2 ^ 20, 0, 0, 0, 0]) 1) 20 = true ∧
      readyHead (queued 5 [2 ^ 20, 0, 0, 0, 0] (recorded ssEnded loaded)) 0 0 5 = some (0, anItem 5 [2 ^ 20, 0, 0, 0, 0])) ∧
    readyHead (queued 6 [0, 0, 0, 0, 0] loaded) 0 0 6 = some (0, anItem 6 [0, 0, 0, 0, 0]) := by decide +kernel

theorem witness_items_end_once :
    item { started with items := [(0, some { anItem 6 [] with ended := true })] } 0 = some { anItem 6 [] with ended := true } := by
  decide +kernel

/-! ## The host link -/

def onPort (n : Narta) : Dev := setNarta started 0 n
def upPort : Narta := { Narta.init with st := psUp }
def sealedFlit (kind : Nat) (f : Flit) : Flit := { f with crc := BitVec.ofNat 64 (crc64 (flitBytes kind f)) }

set_option maxRecDepth 20000 in
theorem witness_flit_arrives : (narta (onPort upPort) 0).st = psUp ∧ (narta (onPort upPort) 0).flits = [] ∧ aFlit.cwOk = true ∧
    aFlit.nak = false ∧ aFlit.seq.toNat = (narta (onPort upPort) 0).expect ∧
    seqPlace 4096 (narta (onPort upPort) 0).expect ({ aFlit with seq := 1 } : Flit).seq.toNat = 1 ∧
    (∀ k ∈ [0, 1], crc64 (flitBytes k (sealedFlit k aFlit)) = (sealedFlit k aFlit).crc.toNat ∧ crc64 (flitBytes k aFlit) ≠ aFlit.crc.toNat) := by
  decide +kernel

/-- A transaction of the host, alone in the queue of port 0. -/
def accepted (x : Tlp) (reads : Map (Option DevReq)) : Dev := onPort { upPort with rx := [⟨x, 0, 0⟩], arrivals := 1, reads := reads }
def ctlAt (pg off : Nat) : Nat := 0xF000 * 2 ^ 28 + pg * 2 ^ 12 + off

theorem witness_host_requests_act :
    (let x := mkTlp tMwr 0 0 false 0 8 64 (zeros 8)
     firstOf (narta (accepted x []) 0) (fun x => tlpType x == tMwr) = some ⟨x, 0, 0⟩ ∧ memOk x = true ∧
      addrKind .ist8432 (tlpAddr x) = .tower 0 0 64 ∧ (tower (accepted x []) 0).hold = false) ∧
    (let x := mkTlp tMrd 5 0 false 0 512 64 []
     firstOf (narta (accepted x []) 0) (fun x => tlpType x == tMrd) = some ⟨x, 0, 0⟩ ∧ memOk x = true ∧ tlpLen x ≠ 0 ∧
      addrKind .ist8432 (tlpAddr x) = .tower 0 0 64) ∧
    (let x := mkTlp tMrd 5 0 false 0 0 64 []
     firstOf (narta (accepted x []) 0) (fun x => tlpType x == tMrd) = some ⟨x, 0, 0⟩ ∧ memOk x = true ∧ tlpLen x = 0) ∧
    (let x := mkTlp tCrd 5 0 false 0 8 (ctlAt (corePg 0) 0x040) []
     firstOf (narta (accepted x []) 0) (fun x => tlpType x == tCrd) = some ⟨x, 0, 0⟩ ∧ badHeader x = false ∧
      ctlPlace (accepted x []) (tlpAddr x) = some (corePg 0, 0x040) ∧ pageTypeOf (corePg 0) = some CORE.page) ∧
    (let x := mkTlp tCwr 5 0 false 0 8 (ctlAt (rstPg) 0x018) (zeros 8)
     firstOf (narta (accepted x []) 0) (fun x => tlpType x == tCwr) = some ⟨x, 0, 0⟩ ∧ performed (accepted x []) 0 0 = true ∧
      badHeader x = false ∧ ctlPlace (accepted x []) (tlpAddr x) = some (rstPg, 0x018)) := by
  decide +kernel

/-- The host writes a register of the RST page: RST_PARTITION of partition 5, which does not drain the package, or RST_WARM, which does. -/
def resetWrite (v : Word64) : Tlp := mkTlp tCwr 5 0 false 0 8 (ctlAt rstPg 0x040) (leBytes 8 v.toNat)
def served0 (v : Word64) : Dev :=
  wServed (takeRx (accepted (resetWrite v) []) 0 ⟨resetWrite v, 0, 0⟩) (portStation 0) (pageStation (takeRx (accepted (resetWrite v) []) 0 ⟨resetWrite v, 0, 0⟩) rstPg) wtPageWrite
def written (v : Word64) : Dev := lowerRemain rstPg 0x040 (writeReg RST.page.code (pageInst RST.page rstPg) rstPg 0x040 v (served0 v)).1

/-- Is the write the next request of the host, and what it says? -/
def fronts (v : Word64) : Bool :=
  let d := accepted (resetWrite v) []
  decide (firstOf (narta d 0) (fun x => tlpType x == tCwr) = some ⟨resetWrite v, 0, 0⟩) && performed d 0 0 && !badHeader (resetWrite v) &&
    decide (ctlPlace d (tlpAddr (resetWrite v)) = some (rstPg, 0x040)) && BitVec.ofNat 64 (leNat (resetWrite v).data) == v

theorem witness_host_reset_writes_front : fronts (command 1 5) = true ∧ fronts (command 2 0) = true := by decide +kernel

theorem witness_host_partition_reset :
    Allowed (served0 (command 1 5)) RST.page rstPg 0x040 (command 1 5) ∧ (written (command 1 5)).drain.isNone = true :=
  ⟨allowed_of _ _ _ _ _ (by decide +kernel), by decide +kernel⟩

theorem witness_host_warm_reset :
    Allowed (served0 (command 2 0)) RST.page rstPg 0x040 (command 2 0) ∧ (served0 (command 2 0)).drain.isNone = true ∧
      (written (command 2 0)).drain.isSome = true :=
  ⟨allowed_of _ _ _ _ _ (by decide +kernel), by decide +kernel, by decide +kernel⟩

def jobRead : DevReq := ⟨0, 64, [], .job 3⟩

theorem witness_completions_and_doorbells :
    (let x := mkTlp tCpl 9 0 true stOk 64 0 (zeros 64)
     firstOf (narta (accepted x [(9, some jobRead)]) 0) (fun x => tlpType x == tCpl) = some ⟨x, 0, 0⟩ ∧
      mget none (narta (accepted x [(9, some jobRead)]) 0).reads (tlpTag x) = some jobRead ∧ tlpLast x = true ∧ tlpStatus x = stOk ∧
      (jobRead.data ++ x.data).length = jobRead.len) ∧
    (let x := mkTlp tMsg 0 0 false 0 0 mcSq []
     firstOf (narta (accepted x []) 0) (fun x => tlpType x == tMsg && x.w1.toNat % 256 == mcSq) = some ⟨x, 0, 0⟩ ∧
      performed (accepted x []) 0 0 = true) ∧
    (let x := mkTlp tMsg 0 0 false 0 0 mcCq []
     firstOf (narta (accepted x []) 0) (fun x => tlpType x == tMsg && x.w1.toNat % 256 == mcCq) = some ⟨x, 0, 0⟩ ∧
      performed (accepted x []) 0 0 = true) ∧
    mget none (narta (accepted (mkTlp tCpl 9 0 true 0 64 0 []) [(9, some jobRead)]) 0).reads (9#12).toNat = some jobRead := by
  decide +kernel

/-- Training records: their kind in the top bits, and what the phase needs. -/
def rec_ (kind rest : Nat) : Word64 := BitVec.ofNat 64 (kind * 2 ^ 60 + rest)
def trainingPort (p : NartaPhase) (k : TrainKind) : Narta :=
  { Narta.init with st := psTraining, phase := p, kind := k, usable := 0xFFFF }

theorem witness_host_port_trains :
    (∀ st ∈ [psUp, psTraining, psFailed], (narta (onPort { Narta.init with st := st }) 0).st = st) ∧
    (∀ l, l < 16 → (zeros 16).length = 16 ∧ ([] : List Nat).getD l 0 ≤ getF (onPort upPort) (hlkPg 0) HLK.LANE_LIM) ∧
    (∀ p ∈ [NartaPhase.detect, .lane, .equalise, .agree, .start], (narta (onPort (trainingPort p .fresh)) 0).st = psTraining ∧
      (narta (onPort (trainingPort p .fresh)) 0).phase = p) ∧
    (recordOk 1 (rec_ 1 0) = true ∧ trLane (rec_ 1 0) = (0#4).toNat ∧ trLane (rec_ 1 0) + (15#4).toNat = 15) ∧ (recordOk 2 (rec_ 2 (10 * 2 ^ 52)) = true ∧ bits (rec_ 2 (10 * 2 ^ 52)).toNat 55 52 ≤ 10) ∧
    (let n := trainingPort .agree .saved
     let r := rec_ 3 (0xFFFF * 2 ^ 40)
     n.conf = none ∧ recordOk 3 r = true ∧ n.kind ≠ .fresh ∧ trFull r = false ∧ n.full = false ∧
      (n.usable &&& ~~~n.failed &&& n.agreed) &&& trMask r = n.usable &&& ~~~n.failed &&& n.agreed ∧ chooseWidth (n.usable &&& ~~~n.failed &&& n.agreed) ≠ none) ∧
    (recordOk 4 (rec_ 4 (0xFFFF * 2 ^ 40)) = true ∧ some (0xFFFF#16) = some (trMask (rec_ 4 (0xFFFF * 2 ^ 40))) ∧
      trTid (rec_ 4 (0xFFFF * 2 ^ 40)) = (trainingPort .agree .saved).tid) ∧ (trainingPort .start .saved).kind ≠ .fresh ∧
    recordOk 5 (rec_ 5 (8 * 2 ^ 47 + 8 * 2 ^ 38)) = true := by decide +kernel

end Sys2Proof.Machine.Tests
end

