-- ==== Sys2Proof/Tests/Witness4.lean ====
section
/-!
SUPPORT. States and operands that meet the hypotheses of the obligations: the control pages, the start of the device, its tests and
its repair (chapters 11 and 12).
-/
namespace Sys2Proof.Machine.Tests
open Sys2Proof Sys2Proof.Machine

set_option Elab.async false

/-! ## Register commands -/

theorem witness_register_commands_act :
    (regRow (.registerWrite 0xFFFF 0x40 0) = some (0xFFFF, 0x40, 0) ∧ ctlReserved 0xFFFF 0x40 = true ∧ served started = true) ∧
    (regRow (.coreHeelReq 0) = some (corePg 0, 0x040, 1) ∧ ctlReserved (corePg 0) 0x040 = false ∧
      pageTypeOf (corePg 0) = some CORE.page ∧ mayWrite started CORE.page (corePg 0) 0x040 1 = true) ∧
    (regRow (.registerWrite 13 0x040 (command 3 0)) = some (rstPg, 0x040, command 3 0) ∧ writable 0x040 = true ∧
      reservedCode started RST.page.code 0 0x040 (command 3 0) = true) ∧
    (regRow (.coreHeelReq 1) = some (corePg 1, 0x040, 1) ∧ pageState started CORE.page.code (pageInst CORE.page (corePg 1)) = 0 ∧
      reservedCode started CORE.page.code 1 0x040 1 = false) ∧
    (regRow .rstCold = some (rstPg, 0x200, command 4 0) ∧ reservedCode started RST.page.code 0 0x200 (command 4 0) = false ∧
      pageUnlocked started rstPg = false) ∧
    (regRow (.registerWrite 13 0x100 0) = some (rstPg, 0x100, 0) ∧ writable 0x100 = false ∧ pageState started RST.page.code 0 = 1) ∧
    (regRow (.pageGuard 13 0xA5A8) = some (rstPg, 0x018, 0xA5A8) ∧ pageTypeOf rstPg = some RST.page) := by decide +kernel

theorem witness_registers_hold : pageTypeOf (corePg 0) = some CORE.page ∧ regKey (corePg 0) 0x048 ≠ regKey (corePg 0) 0x040 ∧
    (CORE.STEPS_ISSUED.lo = 0 ∧ CORE.STEPS_ISSUED.w = 64) := by decide

/-- Core 0 in the state given, or the floor sequencer of tower 0. -/
def coreIn (st : CoreSt) (by_ req : Bool) : Dev := setCore started 0 { Core.init with st := st, heelBy := by_, heelReq := req }
def floorIn (st : FloorSt) (by_ req : Bool) : Dev := setFloor started 0 { Floor.init with st := st, heelBy := by_, heelReq := req }

theorem witness_heel_and_resume_act :
    (Allowed (coreIn .run false false) CORE.page (corePg 0) 0x040 1 ∧ (core (coreIn .run false false) 0).st = .run) ∧
    (Allowed (coreIn .heel true false) CORE.page (corePg 0) 0x040 2 ∧ (core (coreIn .heel true false) 0).st = .heel ∧
      (core (coreIn .heel true false) 0).heelBy = true) ∧
    (Allowed (coreIn .run false true) CORE.page (corePg 0) 0x040 2 ∧ (core (coreIn .run false true) 0).st = .run) ∧
    (Allowed (coreIn .heel false false) CORE.page (corePg 0) 0x040 2 ∧ (core (coreIn .heel false false) 0).heelBy = false) ∧
    (Allowed (floorIn .run false false) FLR.page (flrPg 0) 0x040 1 ∧ (floor (floorIn .run false false) 0).st = .run) ∧
    (Allowed (floorIn .heel true false) FLR.page (flrPg 0) 0x040 2 ∧ (floor (floorIn .heel true false) 0).heelBy = true) ∧
    (Allowed (floorIn .run false true) FLR.page (flrPg 0) 0x040 2 ∧ (floor (floorIn .run false true) 0).st ≠ .heel) := by
  refine ⟨⟨?_, ?_⟩, ⟨?_, ?_, ?_⟩, ⟨?_, ?_⟩, ⟨?_, ?_⟩, ⟨?_, ?_⟩, ⟨?_, ?_⟩, ⟨?_, ?_⟩⟩ <;>
    first | exact allowed_of _ _ _ _ _ (by decide +kernel) | decide +kernel

/-! ## Pages of units -/

def towered (q : List Piece) : Dev := unlock (twrPg 0) (paged q 0).dev

theorem witness_tower_pages_act :
    (0 < Config.pages .ist8432 ∧ getF (towered []) (twrPg 0) TWR.TWR_CMD_STAT_BUSY ≠ 1 ∧ meState (entry (towered []) 0 0) ≠ meAbsent ∧
      pageCol (towered []) 0 0 = 3 ∧ (column (towered []) 0 3).queue = [] ∧ (column (towered [readPiece]) 0 3).queue ≠ []) ∧
    (Allowed (towered []) TWR.page (twrPg 0) 0x040 (command 1 0) ∧ Allowed (towered []) TWR.page (twrPg 0) 0x040 (command 3 0) ∧
      Allowed (towered []) TWR.page (twrPg 0) 0x040 (command 2 (15 * 2 ^ 56 + 1 * 2 ^ 53)) ∧
      Allowed (towered [readPiece]) TWR.page (twrPg 0) 0x040 (command 1 0)) ∧
    ((mget none (tower (towered []) 0).place 0).isSome = false ∧ ledgerPage .ist8432 0 = false) ∧
    (Allowed (towered []) TWR.page (twrPg 0) 0x200 (command 1 0) ∧ meState (entry (towered []) 0 0) ≠ meRetired ∧
      planLoaded (towered []) (mePart (entry (towered []) 0 0)) = false) ∧
    Allowed (towered []) TWR.page (twrPg 0) 0x058 1 := by
  refine ⟨by decide +kernel, ⟨?_, ?_, ?_, ?_⟩, by decide +kernel, ⟨?_, by decide +kernel⟩, ?_⟩ <;>
    exact allowed_of _ _ _ _ _ (by decide +kernel)

def ringed (f : Ring → Ring) : Dev := unlock (whsPg 0) (setRing started 0 0 (f Ring.init))
/-- Link 0 to 1 in a state, selected on the page of region 0. -/
def linked (v : Nat) (st : LinkSt) : Dev :=
  unlock (optPg 0) (withReg (optPg 0) OPT.OPT_SEL_LINK.off (withField 0 OPT.OPT_SEL_LINK v) (setLink started 0 v { Link.init with st := st }))

theorem witness_ring_and_link_pages_act :
    Allowed (ringed id) WHS.page (whsPg 0) 0x200 1 ∧
    (Allowed (ringed (fun x => { x with result := 1 })) WHS.page (whsPg 0) 0x200 2 ∧
      (ring (ringed (fun x => { x with result := 1 })) 0 (ringSel (ringed (fun x => { x with result := 1 })) 0)).result = 1) ∧
    (∀ op ∈ [1, 2, 3, 4], Allowed (linked 1 .up) OPT.page (optPg 0) 0x200 (command op 0)) ∧
    Allowed (linked 1 .loopBack) OPT.page (optPg 0) 0x200 (command 5 0) ∧
    (optLink (linked 1 .up) 0 = 1 ∧ linkPlanned (linked 1 .up) 0 1 = false ∧ linkOk 0 1 = true ∧ (link (linked 1 .up) 0 1).st ≠ .lost ∧
      (link (linked 1 .loopBack) 0 1).st = .loopBack) := by
  refine ⟨?_, ⟨?_, by decide +kernel⟩, ?_, ?_, by decide +kernel⟩
  · exact allowed_of _ _ _ _ _ (by decide +kernel)
  · exact allowed_of _ _ _ _ _ (by decide +kernel)
  · intro op h
    have h : mayWrite (linked 1 .up) OPT.page (optPg 0) 0x200 (command op 0) = true := by
      revert op; decide +kernel
    exact allowed_of _ _ _ _ _ h
  · exact allowed_of _ _ _ _ _ (by decide +kernel)

/-- Ring 0 of partition 0 is enabled, with 2^8 submissions. -/
def ringOn : Dev := unlock (partPg 0) { started with rqs := [(rqKey 0 0, { RingQ.init with cfg := 0x1081 })] }

theorem witness_partition_pages_act :
    (Allowed started PART.page (partPg 0) 0x040 (command 1 0) ∧ partState started 0 = 0 ∧ getF started (partPg 0) PART.PLAN_STAT_BUSY ≠ 1) ∧
    (Allowed loaded PART.page (partPg 0) 0x040 (command 2 0) ∧ planLoaded loaded 0 = true ∧ getF loaded (partPg 0) PART.PLAN_STAT_BUSY ≠ 1 ∧
      (∀ r ∈ regionsOf loaded 0, (tower loaded r).hold = false) ∧ (∀ q, q < 64 → outstanding (rq loaded 0 q) = 0)) ∧
    (Allowed ringOn PART.page (partPg 0) 0x060 0x1080 ∧ fieldOf 0x1080 PART.RING_CFG_ENABLE = 0 ∧
      rqOn (rq ringOn 0 (getF ringOn (partPg 0) PART.RING_SEL_RING)) = true ∧
      outstanding (rq ringOn 0 (getF ringOn (partPg 0) PART.RING_SEL_RING)) = 0) ∧
    (Allowed ringOn PART.page (partPg 0) 0xC00 (0xFFFF#16 |>.setWidth 64) ∧ sqSize (rq ringOn 0 0) ≤ (0xFFFF#16).toNat) ∧
    (Allowed started PART.page (partPg 0) 0xC08 (3#16 |>.setWidth 64) ∧ rqOn (rq started 0 0) = false) ∧
    (Allowed started PART.page (partPg 0) 0x060 0x1081 ∧ rqOn (rq started 0 0) = false ∧ fieldOf 0x1081 PART.RING_CFG_ENABLE = 1) ∧
    Allowed started PART.page (partPg 0) 0x078 1 ∧
    (Allowed ringOn PART.page (partPg 0) 0xC00 (3#16 |>.setWidth 64) ∧ rqOn (rq ringOn 0 0) = true ∧ 3 < sqSize (rq ringOn 0 0) ∧
      Allowed ringOn PART.page (partPg 0) 0xC08 (3#16 |>.setWidth 64)) ∧
    (Allowed started PART.page (partPg 0) 0xC00 (3#16 |>.setWidth 64) ∧ rqOn (rq started 0 0) = false) := by
  refine ⟨⟨?_, by decide +kernel⟩, ⟨?_, by decide +kernel⟩, ⟨?_, by decide +kernel⟩, ⟨?_, by decide +kernel⟩, ⟨?_, by decide +kernel⟩,
    ⟨?_, by decide +kernel⟩, ?_, ⟨?_, by decide +kernel, by decide +kernel, ?_⟩, ⟨?_, by decide +kernel⟩⟩ <;>
    exact allowed_of _ _ _ _ _ (by decide +kernel)

def portIn (st : Nat) : Dev := unlock (hlkPg 0) (setNarta started 0 { Narta.init with st := st })

theorem witness_host_link_pages_act :
    (Allowed (portIn psFailed) HLK.page (hlkPg 0) 0x210 (command 1 0) ∧ (narta (portIn psFailed) 0).st ≠ psDisabled ∧
      portUp (portIn psFailed) 0 = false) ∧
    Allowed (portIn psFailed) HLK.page (hlkPg 0) 0x210 (command 2 0) ∧
    (Allowed (portIn psDisabled) HLK.page (hlkPg 0) 0x210 (command 3 0) ∧ (narta (portIn psDisabled) 0).st = psDisabled) ∧
    (Allowed (portIn psUp) HLK.page (hlkPg 0) 0x040 0 ∧ portUp (portIn psUp) 0 = true ∧ ∀ w, mget none (portIn psUp).change w = none) := by
  refine ⟨⟨?_, by decide +kernel⟩, ?_, ⟨?_, by decide +kernel⟩, ⟨?_, by decide +kernel, fun _ => rfl⟩⟩ <;>
    exact allowed_of _ _ _ _ _ (by decide +kernel)

/-! ## Pages of the package -/

def signer : Dev := withReg rngPg RNG.RNG_STAT_SEEDED.off (withField 0 RNG.RNG_STAT_SEEDED 1)
  (withReg rsaPg RSA.RSA_STAT_ID_OK.off (withField (withField 0 RSA.RSA_STAT_ID_OK 1) RSA.RSA_STAT_MK_OK 1) started)
def header1 : List Byte := zeros 8 ++ leBytes 4 1 ++ zeros 4
def imaged : Dev := unlock secPg { started with boot := { started.boot with header := header1 } }
def sampled : Dev := unlock thmPg { started with quads := (List.range 8).map (fun k => (k, { Quad.init with heat := List.replicate 16 20 })) }

theorem witness_package_pages_act :
    (Allowed started EVT.page evtPg 0x050 (5#16 |>.setWidth 64) ∧ Allowed started METR.page metrPg 0x058 (5#16 |>.setWidth 64)) ∧
    (Allowed started PKG.page pkgPg 0x040 1 ∧ mayDrain started = true ∧ diesHot started = false) ∧
    (Allowed started LIFE.page lifePg 0x040 77 ∧ started.noteAt = none ∧ started.note = none) ∧
    (Allowed signer SEC.page secPg 0x040 (command 1 0) ∧ getF signer secPg SEC.ATT_STAT_BUSY ≠ 1 ∧ canSign signer false = true) ∧
    (Allowed imaged SEC.page secPg 0x200 1 ∧ rollbackOf imaged < hdrLevel imaged.boot.header ∧ rollbackOf imaged < 64) ∧
    Allowed started THM.page thmPg 0x040 1 ∧
    (Allowed sampled THM.page thmPg 0x200 1 ∧ (upDies sampled).any (fun k => (quad sampled k).heat.length < 16) = false) ∧
    Allowed (unlock jtagPg started) JTAG.page jtagPg 0x200 1 := by
  refine ⟨⟨?_, ?_⟩, ⟨?_, by decide +kernel⟩, ⟨?_, by decide +kernel⟩, ⟨?_, by decide +kernel⟩, ⟨?_, by decide +kernel⟩, ?_,
    ⟨?_, by decide +kernel⟩, ?_⟩ <;> exact allowed_of _ _ _ _ _ (by decide +kernel)

/-! ## Start, test and repair -/

/-- A device of which die 0 leads, at a phase of the start. -/
def phased (p : Nat) : Dev :=
  { Dev.init .ist8432 with
    boot := { Boot.init with reset := false, on := true, lead := some 0 }
    regs := [(32, 0x0000843200FF0000#64), (4128, BitVec.ofNat 64 p), (16416, 2#64)] }

theorem witness_boot_pages_act :
    (Allowed (phased 3) BOOT.page bootPg 0x048 (command 1 0) ∧ bootPhase (phased 3) = 3 ∧
      getF (phased 3) bootPg BOOT.BOOT_CMD_STAT_BUSY ≠ 1) ∧
    (Allowed started BOOT.page bootPg 0x048 (command 2 1) ∧ slotRuns started 1 = false ∧ getF started bootPg BOOT.BOOT_CMD_STAT_BUSY ≠ 1) ∧
    (Allowed (unlock katPg started) KAT.page katPg 0x200 (command 1 0) ∧ (partOf (unlock katPg started) 0).isSome = false ∧
      getF (unlock katPg started) katPg KAT.KAT_STAT_BUSY ≠ 1 ∧ getF (unlock katPg started) (rgnPg 0) RGN.RGN_STAT_STATE = 1) ∧
    Allowed (unlock kenlPg started) KENL.page kenlPg 0x200 ((BitVec.ofNat 32 (8 * 2 ^ 28)).setWidth 64) := by
  refine ⟨⟨?_, by decide +kernel⟩, ⟨?_, by decide +kernel⟩, ⟨?_, by decide +kernel⟩, ?_⟩ <;>
    exact allowed_of _ _ _ _ _ (by decide +kernel)

/-- Dies 0 and 1 in the election, at phase 1. -/
def voting (x y : BootDie) : Dev :=
  { Dev.init .ist8432 with
    boot := { Boot.init with reset := false, on := true, dies := [(0, x), (1, y)] }
    regs := [(4128, 1#64)] }
def fit (closed : Bool) (s : List Nat) : BootDie := { BootDie.init with healthy := true, closed := closed, s := s }

theorem witness_election_acts :
    (let d := voting BootDie.init BootDie.init
     d.boot.on = true ∧ bootPhase d ≤ 1 ∧ (bootDie d 0).closed = false ∧ getF d (dbgPg 0) DBG.DBG_MODE_STANDALONE ≠ 1 ∧
      ∀ p, p < 256 → let chk := withMatch d 0 p
        let named := badEntries (setF (setF d (fusePg 0) FUSE.FUSE_STAT_COPY_A_OK (bit chk 4).toNat) (fusePg 0) FUSE.FUSE_STAT_COPY_B_OK
          (bit chk 5).toNat)
        named.contains (entSteward 0 0) = false ∧ named.contains (entSteward 0 1) = false) ∧
    (let d := voting (fit false []) (fit false [])
     d.boot.lead = none ∧ (bootDie d 0).healthy = true ∧ (bootDie d 1).healthy = true ∧ (bootDie d 1).closed = false) ∧
    (let d := voting (fit true [0, 1]) (fit true [0, 1])
     electing d = true ∧ stands d 0 = true ∧ (bootDie d 0).s.contains 1 = true ∧ (bootDie d 1).closed = true ∧
      (bootDie d 1).s.contains 0 = true) ∧
    (let d := voting { fit true [0, 1] with accepted := some 2 } (fit true [1])
     electing d = true ∧ stands d 1 = true ∧ (bootDie d 0).accepted = some 2) ∧
    (let d := voting { fit true [0, 1] with accepted := some 1 } (fit true [0, 1])
     electing d = true ∧ (bootDie d 0).accepted = some 1) ∧
    (let d := voting { fit true [0, 1] with accepts := [1] } (fit true [0, 1])
     electing d = true ∧ (List.range 8).find? (fun k =>
      stands d k && (bootDie d k).s.all (fun j => j == k || (bootDie d k).accepts.contains j)) = some 0) ∧
    (let d := voting (fit true [0, 1]) (fit true [0, 1])
     electing d = true ∧ (List.range 8).find? (fun k =>
      stands d k && (bootDie d k).s.all (fun j => j == k || (bootDie d k).accepts.contains j)) = none) := by decide +kernel

/-- A header of one section, of a program of stewards, whose digest is that of no bytes. -/
def oneSection (digest : List Byte) : List Byte :=
  zeros 16 ++ leBytes 4 1 ++ zeros 44 ++ (zeros 16 ++ digest)
def sectioned (digest : List Byte) : Dev := { phased 4 with boot := { (phased 4).boot with header := oneSection digest } }

/-- Both stewards of die 0 are up, and steward 0 acts. -/
def paired : Dev :=
  withReg (stewPg 0 0) STEW.STEW_STAT_ROLE.off (withField 0 STEW.STEW_STAT_ROLE 3)
    (withReg (diePg 0) DIE.DIE_STAT_STEWARDS.off (withField 2 DIE.DIE_STAT_STEWARDS 3) started)

set_option maxRecDepth 20000 in
theorem witness_firmware_and_tests_act :
    (dieUp paired 0 = true ∧ bit (getF paired (diePg 0) DIE.DIE_STAT_STEWARDS) 0 = true ∧
      bit (getF paired (diePg 0) DIE.DIE_STAT_STEWARDS) 1 = true ∧ getF paired (stewPg 0 0) STEW.STEW_STAT_ROLE = 3) ∧
    (let d := { phased 2 with boot := { (phased 2).boot with sources := [0, 1] } }
     d.boot.lead.isSome = true ∧ bootPhase d = 2 ∧ d.boot.sources = 0 :: [1]) ∧
    (let d := { phased 3 with boot := { (phased 3).boot with sources := [2] } }
     d.boot.lead.isSome = true ∧ bootPhase d = 3 ∧ d.boot.sources = 2 :: [] ∧ getF d bootPg BOOT.BOOT_CMD_STAT_BUSY ≠ 1 ∧ anyPortUp d = false) ∧
    (let d := sectioned (sha512 [])
     bootPhase d = 4 ∧ 0 < hdrSections d.boot.header ∧ (receivers d (hdrSect d.boot.header 0).kind).contains 0 = true ∧
      d.boot.got.contains (0, 0) = false ∧ rcvDie 0 = lead d ∧ sha512 [] = (hdrSect d.boot.header 0).digest ∧
      sha512 [1] ≠ (hdrSect d.boot.header 0).digest ∧ d.boot.miss.contains (0, 0) = false ∧
      ({ d with boot := { d.boot with miss := [(0, 0)] } } : Dev).boot.miss.contains (0, 0) = true) ∧
    (checkerOk (.port (BitVec.ofNat 32 (8 * 2 ^ 28))) = true ∧
      (checkerEnt (.port (BitVec.ofNat 32 (8 * 2 ^ 28)))).isSome = true ∧ entKind (8 * 2 ^ 28) ≠ 5 ∧ entKind (8 * 2 ^ 28) ≠ 6 ∧
      checkerOk (.narta 0) = true) ∧
    (katKind (5 * 2 ^ 28) = true ∧ entKind (5 * 2 ^ 28) = 5 ∧ entKind (1 * 2 ^ 28) = 1 ∧
      (badEntries (phased 5)).contains (5 * 2 ^ 28) = false) ∧
    (starting (phased 5) = true ∧ bootPhase (phased 5) ≤ 6 ∧ entOk (8 * 2 ^ 28) = true ∧ katKind (1 * 2 ^ 28) = true ∧
      (badEntries (phased 5)).contains (1 * 2 ^ 28) = false ∧ (phased 5).boot.warm = false) ∧
    (5 ≤ bootPhase (phased 8) ∧ bootPhase (phased 8) < 9 ∧ upDies (phased 8) ≠ []) ∧
    ((phased 8).boot.warm = false ∧ (phased 8).boot.full = false) := by decide +kernel

end Sys2Proof.Machine.Tests
end

