-- ==== Sys2Proof/Tests/Witness5.lean ====
section
/-!
SUPPORT. States and operands that meet the hypotheses of the obligations: resets and pins, power and heat, wear and the life log,
receipts and energy, the sideband (chapters 13 to 17).
-/
namespace Sys2Proof.Machine.Tests
open Sys2Proof Sys2Proof.Machine

set_option Elab.async false

/-! ## Resets and pins -/

def rst : Dev := unlock rstPg started
def heldTower : Dev := setLink (setTower started 0 { Tower.init with hold := true }) 0 64 { Link.init with st := .up }
/-- A tower in reset that still drains the frames it has sent. -/
def towerDrains : Dev := setTower started 0 { Tower.init with hold := true, draining := true }
def draining : Dev := { started with drain := some ⟨false, 5, none, true, false, false, false, (0, 0)⟩ }

theorem witness_resets_act :
    (Allowed rst RST.page rstPg 0x200 (command 1 0) ∧ smallOk rst (coreRegion 0) = true ∧ (siteOf rst 0).isSome = true) ∧
    Allowed rst RST.page rstPg 0x200 (command 2 127) ∧
    (Allowed rst RST.page rstPg 0x200 (command 3 0) ∧ rst.drain = none ∧ (tower rst 0).hold = false ∧
      getF rst (rgnPg 0) RGN.RGN_STAT_STATE = 1) ∧
    ((tower heldTower 0).hold = true ∧ (tower heldTower 0).draining = false ∧ linksTrain heldTower 0 = false ∧
      (List.range 136).any (fun b => (link heldTower 0 (64 + b)).st != .lost) = true) ∧
    (Allowed loaded RST.page rstPg 0x040 (command 1 0) ∧ planLoaded loaded 0 = true ∧ loaded.rstWait.contains 0 = false ∧
      loaded.drain = none) ∧
    (Allowed started RST.page rstPg 0x040 (command 2 0) ∧ mayDrain started = true ∧ diesHot started = false) ∧
    (Allowed rst RST.page rstPg 0x200 (command 4 0) ∧ mayDrain rst = true) ∧
    (draining.drain = some ⟨false, 5, none, true, false, false, false, (0, 0)⟩ ∧ (tower towerDrains 0).hold = true ∧
      (tower towerDrains 0).draining = true ∧ Allowed (unlock rstPg draining) RST.page rstPg 0x200 (command 4 0)) ∧
    (Allowed (unlock (rgnPg 0) started) RGN.page (rgnPg 0) 0x200 (command 1 0) ∧ siteOf (unlock (rgnPg 0) started) (128 * 0 + 0) = some 0 ∧
      (core (unlock (rgnPg 0) started) (128 * 0 + 0)).st ≠ .muzzled) := by
  refine ⟨⟨?_, by decide +kernel⟩, ?_, ⟨?_, by decide +kernel⟩, by decide +kernel, ⟨?_, by decide +kernel⟩, ⟨?_, by decide +kernel⟩,
    ⟨?_, by decide +kernel⟩, ⟨rfl, rfl, rfl, ?_⟩, ⟨?_, by decide +kernel⟩⟩ <;> exact allowed_of _ _ _ _ _ (by decide +kernel)

theorem witness_pins_act : (1000 ≤ 1000 ∧ 999 < 1000 ∧ 100 ≤ 100 ∧ 99 < 100 ∧ PgPin.aux ≠ PgPin.core) := by decide

theorem witness_held_in_reset : (Dev.init .ist8432).boot.reset = true ∧ actsInReset .warmReq = false ∧ actsInReset .deviceStart = true := by
  decide

/-! ## Power and heat -/

def quads (k : Nat) (q : Quad) (d : Dev) : Dev := setQuad d k q
/-- The first rail of die 0 is set to 10 A, and 20 A are estimated. -/
def overloaded (q : Quad) : Dev := quads 0 { q with est := [(200, 0), (0, 0), (0, 0), (0, 0), (0, 0)] }
  (withReg (railPg 0) RAIL.RAIL_SET.off (withField 0 RAIL.RAIL_SET 100) started)

theorem witness_limiter_acts :
    (let d := quads 0 { Quad.init with overrun := 50 } (withReg (clkPg 0) CLK.CLK_STAT_POINT.off (withField 0 CLK.CLK_STAT_POINT 0) started)
     50 ≤ (quad d 0).overrun ∧ (quad d 0).prot = 0 ∧ usable (pointOf d 0) (pointOf d 0 + (quad d 0).lim + 1) = true) ∧
    (let d := quads 0 { Quad.init with lim := 1, calm := 500 } started
     0 < (quad d 0).lim ∧ (quad d 0).prot = 0 ∧ 500 ≤ (quad d 0).calm ∧ roomAbove d 0 = true) ∧
    (let d := overloaded { Quad.init with overrun := 500 }
     500 ≤ (quad d 0).overrun ∧ usable (pointOf d 0) (pointOf d 0 + (quad d 0).lim + 1) = false ∧
      runOf (pointOf d 0) (quad d 0) < 7) ∧
    (0 < ({ Quad.init with prot := 1, under := 5000 }).prot ∧ 5000 ≤ ({ Quad.init with prot := 1, under := 5000 }).under) ∧
    (let d := { withReg (clkPg 0) CLK.CLK_STAT_PWR_CEIL.off (withField 0 CLK.CLK_STAT_PWR_CEIL 1) started with
                heat := { Heat.init with underW := 10 } }
     0 < pwrCeil d ∧ 10 ≤ d.heat.underW) := by decide +kernel

theorem witness_rail_over_limit : (overRail (overloaded { Quad.init with overrun := 500 }) 0).isSome = true ∧
    ((9 : Rat) ≤ 10 ∧ (9 : Rat) < 10 * 97 / 100 ∧ (10 : Rat) * 97 / 100 ≤ 10) := by
  refine ⟨?_, by norm_num⟩
  have h : railSet (overloaded { Quad.init with overrun := 500 }) 0 0 = ((100 : Nat) : Rat) :=
    congrArg (fun n : Nat => (n : Rat)) (by decide +kernel)
  have e : (quad (overloaded { Quad.init with overrun := 500 }) 0).est = [(200, 0), (0, 0), (0, 0), (0, 0), (0, 0)] := rfl
  simp [overRail, show List.range 5 = [0, 1, 2, 3, 4] from rfl, e, h]
  norm_num

theorem witness_ramp_acts :
    (let d := quads 0 { Quad.init with tempAt := rampTemps started 0 } started
     let q := quad d 0
     let rc := rampCeil d 0
     let rise := (List.zipWith (· - ·) (rampTemps d 0) q.tempAt).foldl max 0
     let goal := if 32 < rise * 10 then min 6 (rc + 1) else if q.fast ≤ rc then rc - 1 else q.fast - 1
     max goal (opCeil d 0) = rc) ∧
    (let d := quads 0 { Quad.init with tempAt := [-10, 0, 0, 0, 0] }
       (withReg (clkPg 0) CLK.CLK_STAT_RC.off (withField 0 CLK.CLK_STAT_RC 4) started)
     let q := quad d 0
     let rise := (List.zipWith (· - ·) (rampTemps d 0) q.tempAt).foldl max 0
     rampCeil d 0 < max (if 32 < rise * 10 then min 6 (rampCeil d 0 + 1) else 0) (opCeil d 0)) ∧
    (let d := quads 0 { Quad.init with tempAt := [0, 0, 0, 0, 0], fast := 2 }
       (withReg (clkPg 0) CLK.CLK_STAT_RC.off (withField 0 CLK.CLK_STAT_RC 4) started)
     let q := quad d 0
     let rise := (List.zipWith (· - ·) (rampTemps d 0) q.tempAt).foldl max 0
     max (if 32 < rise * 10 then min 6 (rampCeil d 0 + 1) else if q.fast ≤ rampCeil d 0 then rampCeil d 0 - 1 else q.fast - 1)
       (opCeil d 0) < rampCeil d 0 ∧ q.want = none) ∧
    (let d := withReg pmbPg PMB.PMB_STAT_RAILS_OK.off (withField 0 PMB.PMB_STAT_RAILS_OK 0x10001)
       (quads 0 { Quad.init with want := some 3, tries := 1 } started)
     (quad d 0).want = some 3 ∧ (quad d 0).tries < 2 ∧ railUp d 0 = true ∧ railUp d 16 = true ∧ railUp started 0 = false) ∧
    (([] : List (Int × Int)).length ≤ 16) := by decide +kernel

/-- The twins of hot spot 0 of die 0, whose model reads 50 °C. -/
def twins (a b : Int) : Dev :=
  setZone { started with sens := [(twin 0 0 0, { Sensor.init with val := a }), (twin 0 0 1, { Sensor.init with val := b })] } 0
    { Zone.init with model := List.replicate 8 800 }
def hiddenZone (h : Bool) : Dev := setZone started 8 { Zone.init with model := List.replicate 18 200, hidden := h }
def hot (t : Int) : Dev := setFI started (zonPg 0) TZON.TZON_STAT_TEMP t

theorem witness_heat_acts :
    (let d := twins 1200 800
     let a := sensor d (twin 0 0 0)
     let b := sensor d (twin 0 0 1)
     128 < absI (a.val - b.val) ∧ a.failed = false ∧ b.failed = false ∧ a.suspect = false ∧
      absI (b.val - (zoneOf d 0).model.getD 0 0) < absI (a.val - (zoneOf d 0).model.getD 0 0)) ∧
    ((sensor started 5).failed = false ∧ (sensor { started with sens := [(5, { Sensor.init with failed := true })] } 5).failed = true) ∧
    ((zoneOf (hiddenZone false) 8).hidden = false ∧ layerHides (hiddenZone false) 0 0 = true ∧ (zoneOf (hiddenZone true) 8).hidden = true) ∧
    (let d := withReg (clkPg 0) CLK.CLK_STAT_THERM_CEIL.off (withField 0 CLK.CLK_STAT_THERM_CEIL 2) (hot 1520)
     1520 ≤ zoneTemp d 0 ∧ thermCeil d 0 ≠ 0) ∧
    (zoneTemp (hot 1519) 0 < 1520) ∧
    (let d := withReg (clkPg 0) CLK.CLK_STAT_THERM_CEIL.off (withField 0 CLK.CLK_STAT_THERM_CEIL 2) (hot 1471)
     zoneTemp d 0 < 1472 ∧ thermCeil d 0 ≠ 0) ∧
    (getF started thmPg THM.THM_STAT_TRIPPED ≠ 1 ∧
      getF (withReg thmPg THM.THM_STAT_TRIPPED.off (withField 0 THM.THM_STAT_TRIPPED 1) started) thmPg THM.THM_STAT_TRIPPED = 1) ∧
    ((1840 : Int) ≤ 1840 ∧ (1839 : Int) < 1840 ∧ absI 39 < 40 ∧ 40 ≤ absI (-40)) := by decide +kernel

/-! ## Wear and the life log -/

def patrol (s : Scrub) : Dev := setScrub (paged [] 0).dev 0 s

theorem witness_wear_and_log_act :
    (∀ r n, (SramStore.floorStore 0) ≠ .slice r n) ∧
    ((tower started 0).hold = false ∧ getF started (rgnPg 0) RGN.RGN_STAT_STATE = 1 ∧ (scrub started 0).running = false) ∧
    (let d := patrol { Scrub.init with running := true, block := 1022 }
     let c := scrub d 0
     c.running = true ∧ 0 < c.block ∧ c.block < 1023 ∧ c.page < Config.pages d.kind ∧ scrubVisits d 0 c.page = true ∧
      scrubNow d 0 (frameCol (meFrame (entry d 0 c.page))) = true ∧ (reworkBlock d 0 c.page c.block true).2 = true ∧ c.behind = false) ∧
    (bootPhase started = 9 ∧ started.log.length + 8 ≤ logCap) := by
  exact ⟨fun r n h => (by cases h), by decide +kernel, by decide +kernel, by decide +kernel⟩

/-! ## Keys, receipts and energy -/

theorem witness_receipts_act :
    ({ signer with batch := [zeros 128] }.batch ≠ []) ∧
    (let d := { signer with batches := [⟨1, zeros 128, false⟩] }
     d.batches = ⟨1, zeros 128, false⟩ :: [] ∧ canSign d true = true ∧ 1 < 2 ^ 32 - 1) ∧
    (let d := { signer with note := some 9 }
     d.note = some 9 ∧ d.notes.length < noteCap) ∧
    (let d := { signer with report := some (zeros 64) }
     d.report = some (zeros 64) ∧ canSign d false = true ∧ d.batches = [] ∧ portUp d 0 = false ∧ portUp d 1 = false) := by
  decide +kernel

theorem witness_energy_is_conserved : (∀ x ∈ [((0 : Nat), (3 : Rat)), (1, 0)], 0 ≤ x.2) ∧ ([((0 : Nat), (3 : Rat)), (1, 0)].map (·.1)).Nodup := by
  decide +kernel

/-! ## The sideband -/

theorem witness_sideband_acts :
    (getF started smbPg SMB.SMB_STAT_ADDR = 0 ∧
      (let d := pgAux false true started
       getF d smbPg SMB.SMB_STAT_ADDR ≠ 0 ∧ served d = true ∧ { d with smb := some (stOk, 5) }.smb = some (stOk, 5))) ∧
    (served started = true ∧ ctlReserved 0 0x040 = false ∧ smbShut 0 0x040 = false ∧ pageTypeOf 0 = some PKG.page) ∧
    (ctlReserved 13 0x040 = false ∧ smbShut 13 0x040 = true) ∧
    ({ started with smb := some (stOk, 5) }.smb = some (stOk, 5) ∧ stNotNow ≠ stOk) ∧
    (jtagLocked started = false ∧ jtagLocked (withReg jtagPg JTAG.JTAG_STAT_LOCKED.off (withField 0 JTAG.JTAG_STAT_LOCKED 1) started) = true ∧
      started.jtag.sel < 8) := by decide +kernel

end Sys2Proof.Machine.Tests
end

section
/-!
PROOFS. The tower windows of the device address map (chapter 1, R31 and R32): where the fields of an address in a tower's window
stand, and what the address names.
-/
namespace Sys2Proof.Machine

/-- Table — device address map: the tower is read from bits 40:36. -/
theorem bits_devAddr_tower {t k o : Nat} (ht : t < 32) (hk : k < 2 ^ 15) (ho : o < 2 ^ 21) : bits (devAddr t k o) 40 36 = t := by
  unfold bits devAddr; omega

/-- Table — device address map: the logical page is read from bits 35:21. -/
theorem bits_devAddr_page {t k o : Nat} (hk : k < 2 ^ 15) (ho : o < 2 ^ 21) : bits (devAddr t k o) 35 21 = k := by
  unfold bits devAddr; omega

/-- Table — device address map: the byte within the page is read from bits 20:0. -/
theorem bits_devAddr_byte {t k o : Nat} (ho : o < 2 ^ 21) : bits (devAddr t k o) 20 0 = o := by
  unfold bits devAddr; omega

/-- The 32 windows of 64 GiB end where bits 43:41 leave 0b000 (R31). -/
theorem devAddr_lt {t k o : Nat} (ht : t < 32) (hk : k < 2 ^ 15) (ho : o < 2 ^ 21) : devAddr t k o < 2 ^ 41 := by
  unfold devAddr; omega

/-- Below the end of the tower windows the bit fields alone say what an address names (R31, R32). -/
theorem addrKind_of_lt (p : Part) {a : Nat} (ha : a < 2 ^ 41) :
    addrKind p a = if bits a 35 21 < Config.pages p then .tower (bits a 40 36) (bits a 35 21) (bits a 20 0) else .reserved :=
  if_pos ha

theorem addrKind_devAddr (p : Part) {t k o : Nat} (ht : t < 32) (hk : k < 2 ^ 15) (ho : o < 2 ^ 21) :
    addrKind p (devAddr t k o) = if k < Config.pages p then .tower t k o else .reserved := by
  rw [addrKind_of_lt p (devAddr_lt ht hk ho), bits_devAddr_tower ht hk ho, bits_devAddr_page hk ho, bits_devAddr_byte ho]

/-- Settles O21: a window's address stands below 2^41 and its three bit fields are the tower, the page and the byte it was made of;
the page counts are those of the part table. -/
theorem towerWindows : Obligations.TowerWindows :=
  ⟨fun p _ _ _ => addrKind_devAddr p, rfl, rfl, rfl, rfl⟩

end Sys2Proof.Machine
end

section
/-!
PROOFS. The F32 path of a column (chapter 2, R42): the sum that leaves it is a fold over the rows in ascending order.
-/
namespace Sys2Proof.Machine

/-- What an enabled row of the F32 path passes on: its exact product joined to the sum that comes in, rounded once (R42). -/
def joinProduct (s : BitVec 32) (p : FVal × FVal) : BitVec 32 := (addVal (decF32 s) (mulVal p.1 p.2)).1

/-- The sum that leaves a column is decided by the products alone: the flag that travels with it never enters a sum. -/
theorem f32Chunk_eq (ts : List (FVal × FVal)) : ∃ x, f32Chunk ts = .f32 (ts.foldl joinProduct 0#32) x := by
  have sums : ∀ s x, ts.foldl joinProduct s = (ts.foldl (fun (s, x) (a, w) =>
      let (r, i) := addVal (decF32 s) (mulVal a w); (r, x || i)) (s, x)).1 :=
    fun s x => List.foldl_hom Prod.fst (init := (s, x)) (fun _ _ => rfl)
  rw [sums 0#32 false]
  exact ⟨_, rfl⟩

/-- The enabled rows are met in ascending order; a row whose mask bit is clear passes on what came in. -/
theorem foldl_enabled {β : Type} (f : β → Nat → β) (m : BitVec 32) (s : β) :
    (enabled m).foldl f s = (List.range 32).foldl (fun s i => if m.getLsbD i = true then f s i else s) s :=
  List.foldl_filter

/-- Settles O17: the fold over the products of the enabled rows is the fold over all 32 rows in which a disabled row passes the sum on. -/
theorem columnSumsRoundInOrder : Obligations.ColumnSumsRoundInOrder := by
  unfold Obligations.ColumnSumsRoundInOrder
  intro af row sa j t
  obtain ⟨x, hx⟩ := f32Chunk_eq
    ((enabled t.rowMask).map fun i => (decodeVal af (rowElem af row i), decodeVal t.fmt (t.at i j)))
  rw [List.foldl_map, foldl_enabled] at hx
  exact ⟨x, hx⟩

end Sys2Proof.Machine
end

section
/-!
PROOFS. Binary32 operands (R57): what a pattern decodes to, by its magnitude (the pattern without its sign bit), and how the special
functions read a subnormal one.
-/
namespace Sys2Proof.Machine

/-- A binary32 pattern by its exponent field: an infinity or a NaN, a zero or a subnormal, or a normal number. -/
theorem decF32_eq (a : BitVec 32) : decF32 a =
    if a.toNat / 2 ^ 23 % 2 ^ 8 = 255 then (if a.toNat % 2 ^ 23 = 0 then .inf a.msb else .nan)
    else if a.toNat / 2 ^ 23 % 2 ^ 8 = 0 then .fin a.msb (a.toNat % 2 ^ 23) (-149)
    else .fin a.msb (a.toNat % 2 ^ 23 + 2 ^ 23) ((a.toNat / 2 ^ 23 % 2 ^ 8 : Nat) - 150) := by
  have sign : (a.toNat / 2 ^ (8 + 23) % 2 == 1) = a.msb := by
    rw [BitVec.msb_eq_decide, beq_eq_decide, decide_eq_decide]; omega
  have bias : ∀ x : Int, x - (2 ^ (8 - 1) - 1) - (23 : Nat) = x - 150 := by intro x; omega
  simp only [decF32, decodeIeee, sign, bias, beq_iff_eq]
  rfl

theorem isNan_iff_decF32 (a : BitVec 32) : isNan a = true ↔ decF32 a = .nan := beq_iff_eq

/-- The NaNs are the patterns above the infinities. -/
theorem isNan_iff (a : BitVec 32) : isNan a = true ↔ 0x7F800000 < a.toNat % 2 ^ 31 := by
  rw [isNan_iff_decF32, decF32_eq]
  split
  · split <;> simp <;> omega
  · split <;> simp <;> omega

theorem decF32_of_infinite {a : BitVec 32} (h : a.toNat % 2 ^ 31 = 0x7F800000) : decF32 a = .inf a.msb := by
  rw [decF32_eq, if_pos (by omega), if_pos (by omega)]

/-- A normal number: its mantissa has 24 bits. -/
theorem decF32_of_normal {a : BitVec 32} (hl : 0x00800000 ≤ a.toNat % 2 ^ 31) (hu : a.toNat % 2 ^ 31 < 0x7F800000) :
    decF32 a = .fin a.msb (a.toNat % 2 ^ 23 + 2 ^ 23) ((a.toNat / 2 ^ 23 % 2 ^ 8 : Nat) - 150) := by
  rw [decF32_eq, if_neg (by omega), if_neg (by omega)]

theorem log2_mantissa (f : Nat) : Nat.log2 (f % 2 ^ 23 + 2 ^ 23) = 23 :=
  (Nat.log2_eq_iff (by omega)).2 ⟨by omega, by omega⟩

/-- An operand whose exponent field is 0 is read as zero of its sign. -/
theorem flushIn_of_exponent_zero {a : BitVec 32} (h : a.toNat / 2 ^ 23 % 256 = 0) :
    flushIn a = if a.msb = true then 0x80000000#32 else 0#32 :=
  if_pos (beq_iff_eq.2 h)

/-- Every other operand is read as it stands. -/
theorem flushIn_of_normal {a : BitVec 32} (h : 0x00800000 ≤ a.toNat % 2 ^ 31) : flushIn a = a :=
  if_neg (by rw [beq_iff_eq]; omega)

theorem flushIn_zero (s : Bool) : flushIn (if s = true then 0x80000000#32 else 0#32) = if s = true then 0x80000000#32 else 0#32 := by
  cases s <;> rfl

end Sys2Proof.Machine
end

section
/-!
PROOFS. The special functions at their special values (R58), case by case of what the operand decodes to.
-/
namespace Sys2Proof.Machine

/-- Operands that flush to the same pattern have the same results. -/
theorem special_congr {a b : BitVec 32} (h : flushIn a = flushIn b) :
    fRcp a = fRcp b ∧ fRsqrt a = fRsqrt b ∧ fExp2 a = fExp2 b ∧ fLog2 a = fLog2 b := by
  refine ⟨?_, ?_, ?_, ?_⟩
  · rw [fRcp, h, fRcp]
  · rw [fRsqrt, h, fRsqrt]
  · rw [fExp2, h, fExp2]
  · rw [fLog2, h, fLog2]

theorem special_of_nan {a : BitVec 32} (h : decF32 (flushIn a) = .nan) :
    fRcp a = qnan ∧ fRsqrt a = qnan ∧ fExp2 a = qnan ∧ fLog2 a = qnan := by
  refine ⟨?_, ?_, ?_, ?_⟩
  · rw [fRcp, h]
  · rw [fRsqrt, h]
  · rw [fExp2, h]
  · rw [fLog2, h]

/-- The poles: a zero gives an infinity, and the reciprocal takes it back. -/
theorem special_at_zero_and_infinity (s : Bool) : fRcp (if s = true then 0x80000000#32 else 0#32) = infF32 s ∧
    fRcp (infF32 s) = (if s = true then 0x80000000#32 else 0#32) ∧
    fRsqrt (if s = true then 0x80000000#32 else 0#32) = infF32 s ∧
    fLog2 (if s = true then 0x80000000#32 else 0#32) = infF32 true := by
  cases s <;> decide

/-- rsqrt and log2 have no value below zero. -/
theorem fRsqrt_fLog2_of_negative {a : BitVec 32} (hs : a.msb = true) (hl : 0x00800000 ≤ a.toNat % 2 ^ 31)
    (hu : a.toNat % 2 ^ 31 ≤ 0x7F800000) : fRsqrt a = qnan ∧ fLog2 a = qnan := by
  have hf := flushIn_of_normal hl
  rcases hu.eq_or_lt with hinf | hfin
  · have hd := decF32_of_infinite hinf
    simp [fRsqrt, fLog2, hf, hd, hs]
  · have hd := decF32_of_normal hl hfin
    simp [fRsqrt, fLog2, hf, hd, hs]

/-- The integer part that exp2 finds in its argument `±m × 2^e`. -/
def exp2Floor (s : Bool) (m : Nat) (e : Int) : Int := sgn s m * pow2 (e + expBits + 160) / pow2 160 / pow2 expBits

/-- An argument `±m / 2^k` of at most 320 fraction bits loses nothing before its integer part is taken: it is the floor. -/
theorem exp2Floor_eq (s : Bool) (m k : Nat) (hk : k ≤ 320) : exp2Floor s m (-k) = sgn s m / 2 ^ k := by
  have split : (2 : Int) ^ 160 * 2 ^ 160 = 2 ^ k * 2 ^ (320 - k) := by
    rw [← pow_add, ← pow_add]; congr 1; omega
  have he : ((-(k : Int) + expBits + 160).toNat) = 320 - k := by simp only [expBits]; omega
  calc exp2Floor s m (-k) = sgn s m * 2 ^ (320 - k) / 2 ^ 160 / 2 ^ 160 := by rw [exp2Floor, pow2, he]; rfl
    _ = sgn s m * 2 ^ (320 - k) / (2 ^ k * 2 ^ (320 - k)) := by rw [Int.ediv_ediv_of_nonneg (by positivity), split]
    _ = sgn s m / 2 ^ k := Int.mul_ediv_mul_of_pos_left _ _ (by positivity)

/-- exp2 answers +∞ or +0 where its argument reaches 2^8 in magnitude or its integer part lies outside −126 to 127. -/
theorem fExp2_out_of_range {a : BitVec 32} {s : Bool} {m : Nat} {e : Int} (hd : decF32 (flushIn a) = .fin s m e) (hm : m ≠ 0)
    (h : e + (Nat.log2 m : Int) < 8 → if s = true then exp2Floor s m e < -126 else 128 ≤ exp2Floor s m e) :
    fExp2 a = if s = true then 0 else infF32 false := by
  have hm0 : ¬ (m == 0) = true := by simpa using hm
  simp only [fExp2, hd]
  rw [if_neg hm0]
  split
  · rfl
  · next hlt =>
    have hfloor := h (not_le.1 hlt)
    cases s with
    | false => exact if_pos hfloor
    | true =>
      have under : exp2Floor true m e < -126 := hfloor
      exact (if_neg (by unfold exp2Floor at under; omega)).trans (if_pos under)

/-- exp2 of a normal number out of its range, or of an infinity: only an exponent field below 135 leaves the integer part to compare. -/
theorem fExp2_beyond_range {a : BitVec 32} (hl : 0x00800000 ≤ a.toNat % 2 ^ 31) (hu : a.toNat % 2 ^ 31 ≤ 0x7F800000)
    (h : a.toNat / 2 ^ 23 % 2 ^ 8 < 135 →
      let n := exp2Floor a.msb (a.toNat % 2 ^ 23 + 2 ^ 23) ((a.toNat / 2 ^ 23 % 2 ^ 8 : Nat) - 150)
      if a.msb = true then n < -126 else 128 ≤ n) : fExp2 a = if a.msb = true then 0 else infF32 false := by
  have hf := congrArg decF32 (flushIn_of_normal hl)
  rcases hu.eq_or_lt with hinf | hfin
  · rw [fExp2, hf, decF32_of_infinite hinf]
  · refine fExp2_out_of_range (hf.trans (decF32_of_normal hl hfin)) (by omega) fun hlt => h ?_
    rw [log2_mantissa] at hlt
    omega

theorem fExp2_of_large {a : BitVec 32} (hl : 0x43000000 ≤ a.toNat) (hu : a.toNat ≤ 0x7F800000) : fExp2 a = infF32 false := by
  have hs : a.msb = false := by rw [BitVec.msb_eq_decide, decide_eq_false_iff_not]; omega
  have out := fExp2_beyond_range (a := a) (by omega) (by omega) fun hlt => by
    have he : ((a.toNat / 2 ^ 23 % 2 ^ 8 : Nat) : Int) - 150 = -(16 : Nat) := by omega
    rw [he, exp2Floor_eq _ _ _ (by omega), hs]
    simp [sgn]; omega
  rwa [hs] at out

theorem fExp2_of_small {a : BitVec 32} (hl : 0xC2FC0000 < a.toNat) (hu : a.toNat ≤ 0xFF800000) : fExp2 a = 0 := by
  have hs : a.msb = true := by rw [BitVec.msb_eq_decide, decide_eq_true_eq]; omega
  have out := fExp2_beyond_range (a := a) (by omega) (by omega) fun hlt => by
    obtain ⟨k, hk, he⟩ : ∃ k : Nat, (k = 16 ∨ k = 17) ∧ ((a.toNat / 2 ^ 23 % 2 ^ 8 : Nat) : Int) - 150 = -(k : Int) :=
      ⟨150 - a.toNat / 2 ^ 23 % 2 ^ 8, by omega, by omega⟩
    rw [he, exp2Floor_eq _ _ _ (by omega), hs]
    rcases hk with rfl | rfl <;> simp [sgn] <;> omega
  rwa [hs] at out

end Sys2Proof.Machine
end

section
/-!
PROOFS. Results of the vector unit that are a NaN (R58): rounding never makes one, so each comes from a branch that answers the quiet NaN.
-/
namespace Sys2Proof.Machine

/-- If the pattern is a NaN, it is the quiet NaN. -/
def QuietIfNan (r : BitVec 32) : Prop := isNan r = true → r = qnan

theorem quietIfNan_qnan : QuietIfNan qnan := fun _ => rfl

theorem quietIfNan_of_not_nan {r : BitVec 32} (h : ¬ isNan r = true) : QuietIfNan r := fun hr => absurd hr h

theorem quietIfNan_ite {p : Prop} [Decidable p] {x y : BitVec 32} (hx : p → QuietIfNan x) (hy : ¬ p → QuietIfNan y) :
    QuietIfNan (if p then x else y) := by
  split
  · next h => exact hx h
  · next h => exact hy h

theorem quietIfNan_infF32 (neg : Bool) : QuietIfNan (infF32 neg) :=
  quietIfNan_of_not_nan (by cases neg <;> decide)

theorem quietIfNan_zero (neg : Bool) : QuietIfNan (if neg = true then 0x80000000#32 else 0) :=
  quietIfNan_of_not_nan (by cases neg <;> decide)

theorem quietIfNan_fOne : QuietIfNan fOne := quietIfNan_of_not_nan (by decide)

/-- A rounded magnitude that has not overflowed lies below the pattern of the infinity. -/
theorem roundMag_bits_lt {eb mb maxp m : Nat} {e : Int} {sticky : Bool} (hp : 0 < maxp)
    (h : (roundMag eb mb maxp m e sticky).overrun = false) : (roundMag eb mb maxp m e sticky).bits < maxp := by
  unfold roundMag at h ⊢
  split at h
  · next hm => rwa [if_pos hm]
  · next hm =>
    rw [if_neg hm]
    dsimp only at h ⊢
    split at h
    · next hq => rw [if_pos hq]; simpa using h
    · next hq => rw [if_neg hq]; simpa using h

/-- Rounding to binary32 answers a finite number or an infinity. -/
theorem quietIfNan_toF32 (neg : Bool) (m : Nat) (e : Int) (sticky : Bool) : QuietIfNan (toF32 neg m e sticky).1 := by
  have bound : (if (roundMag 8 23 0x7F800000 m e sticky).overrun = true then 0x7F800000
      else (roundMag 8 23 0x7F800000 m e sticky).bits) ≤ 0x7F800000 := by
    split
    · exact le_rfl
    · next h => exact (roundMag_bits_lt (by omega) (Bool.not_eq_true _ ▸ h)).le
  refine quietIfNan_of_not_nan ?_
  rw [isNan_iff]
  simp only [toF32, BitVec.toNat_ofNat]
  cases neg <;> simp <;> omega

theorem quietIfNan_intToF32 (v : Int) (e : Int) (zneg : Bool) : QuietIfNan (intToF32 v e zneg).1 := by
  unfold intToF32
  split
  · exact quietIfNan_zero zneg
  · exact quietIfNan_toF32 _ _ _ _

theorem quietIfNan_addVal (x y : FVal) : QuietIfNan (addVal x y).1 := by
  unfold addVal
  split
  · exact quietIfNan_qnan
  · exact quietIfNan_qnan
  · split
    · exact quietIfNan_infF32 _
    · exact quietIfNan_qnan
  · exact quietIfNan_infF32 _
  · exact quietIfNan_infF32 _
  · exact quietIfNan_intToF32 _ _ _

theorem quietIfNan_roundVal (x : FVal) : QuietIfNan (roundVal x).1 := by
  unfold roundVal
  split
  · exact quietIfNan_qnan
  · exact quietIfNan_infF32 _
  · split
    · exact quietIfNan_zero _
    · exact quietIfNan_toF32 _ _ _ _

theorem quietIfNan_specialOut (neg : Bool) (m : Nat) (e : Int) (sticky : Bool) : QuietIfNan (specialOut neg m e sticky) :=
  quietIfNan_ite (fun _ => quietIfNan_zero neg) (fun _ => quietIfNan_toF32 _ _ _ _)

/-- MIN and MAX answer an operand only where it is a number. -/
theorem quietIfNan_fMin (a b : BitVec 32) : QuietIfNan (fMin a b) :=
  quietIfNan_ite (fun _ => quietIfNan_ite (fun _ => quietIfNan_qnan) quietIfNan_of_not_nan) fun ha =>
    have qa := quietIfNan_of_not_nan ha
    quietIfNan_ite (fun _ => qa) fun hb =>
      have qb := quietIfNan_of_not_nan hb
      quietIfNan_ite (fun _ => qa) fun _ => quietIfNan_ite (fun _ => qb) fun _ => quietIfNan_ite (fun _ => qa) fun _ => qb

theorem quietIfNan_fMax (a b : BitVec 32) : QuietIfNan (fMax a b) :=
  quietIfNan_ite (fun _ => quietIfNan_ite (fun _ => quietIfNan_qnan) quietIfNan_of_not_nan) fun ha =>
    have qa := quietIfNan_of_not_nan ha
    quietIfNan_ite (fun _ => qa) fun hb =>
      have qb := quietIfNan_of_not_nan hb
      quietIfNan_ite (fun _ => qb) fun _ => quietIfNan_ite (fun _ => qa) fun _ => quietIfNan_ite (fun _ => qb) fun _ => qa

theorem quietIfNan_fCmplt (a b : BitVec 32) : QuietIfNan (fCmplt a b) :=
  quietIfNan_ite (fun _ => quietIfNan_fOne) (fun _ => quietIfNan_zero false)

theorem quietIfNan_fCmpeq (a b : BitVec 32) : QuietIfNan (fCmpeq a b) :=
  quietIfNan_ite (fun _ => quietIfNan_zero false) fun _ =>
    quietIfNan_ite (fun _ => quietIfNan_zero false) (fun _ => quietIfNan_fOne)

theorem quietIfNan_canon (a : BitVec 32) : QuietIfNan (canon a) :=
  quietIfNan_ite (fun _ => quietIfNan_qnan) quietIfNan_of_not_nan

theorem quietIfNan_fRcp (a : BitVec 32) : QuietIfNan (fRcp a) := by
  unfold fRcp
  split
  · exact quietIfNan_qnan
  · exact quietIfNan_zero _
  · exact quietIfNan_ite (fun _ => quietIfNan_infF32 _) (fun _ => quietIfNan_specialOut _ _ _ _)

theorem quietIfNan_fRsqrt (a : BitVec 32) : QuietIfNan (fRsqrt a) := by
  unfold fRsqrt
  split
  · exact quietIfNan_qnan
  · exact quietIfNan_ite (fun _ => quietIfNan_qnan) (fun _ => quietIfNan_zero false)
  · exact quietIfNan_ite (fun _ => quietIfNan_infF32 _) fun _ =>
      quietIfNan_ite (fun _ => quietIfNan_qnan) (fun _ => quietIfNan_specialOut _ _ _ _)

/-- The results of exp2 out of range: +0 and +∞. -/
theorem quietIfNan_exp2_limit (s : Bool) : QuietIfNan (if s = true then 0 else infF32 false) :=
  quietIfNan_ite (fun _ => quietIfNan_zero false) (fun _ => quietIfNan_infF32 false)

theorem quietIfNan_fExp2 (a : BitVec 32) : QuietIfNan (fExp2 a) := by
  unfold fExp2
  split
  · exact quietIfNan_qnan
  · exact quietIfNan_exp2_limit _
  · exact quietIfNan_ite (fun _ => quietIfNan_fOne) fun _ => quietIfNan_ite (fun _ => quietIfNan_exp2_limit _) fun _ =>
      quietIfNan_ite (fun _ => quietIfNan_infF32 false) fun _ =>
        quietIfNan_ite (fun _ => quietIfNan_zero false) (fun _ => quietIfNan_specialOut _ _ _ _)

theorem quietIfNan_fLog2 (a : BitVec 32) : QuietIfNan (fLog2 a) := by
  unfold fLog2
  split
  · exact quietIfNan_qnan
  · exact quietIfNan_ite (fun _ => quietIfNan_qnan) (fun _ => quietIfNan_infF32 false)
  · exact quietIfNan_ite (fun _ => quietIfNan_infF32 true) fun _ => quietIfNan_ite (fun _ => quietIfNan_qnan) fun _ =>
      quietIfNan_ite (fun _ => quietIfNan_intToF32 _ _ _) fun _ =>
        quietIfNan_ite (fun _ => quietIfNan_specialOut _ _ _ _) (fun _ => quietIfNan_specialOut _ _ _ _)

/-- Every result of an operation of the vector unit on binary32 operands. -/
theorem quietIfNan_vecResult (a b c : BitVec 32) : ∀ r ∈ [fAdd a b, fSub a b, fMul a b, fFma a b c, fMin a b, fMax a b, fCmplt a b,
    fCmpeq a b, fRcp a, fRsqrt a, fExp2 a, fLog2 a, canon a], QuietIfNan r := by
  simp only [List.forall_mem_cons]
  exact ⟨quietIfNan_addVal _ _, quietIfNan_addVal _ _, quietIfNan_roundVal _, quietIfNan_addVal _ _, quietIfNan_fMin a b,
    quietIfNan_fMax a b, quietIfNan_fCmplt a b, quietIfNan_fCmpeq a b, quietIfNan_fRcp a, quietIfNan_fRsqrt a, quietIfNan_fExp2 a,
    quietIfNan_fLog2 a, quietIfNan_canon a, List.forall_mem_nil _⟩

theorem addVal_nan_right (x : FVal) : addVal x .nan = (qnan, false) := by cases x <;> rfl

theorem mulVal_nan_right (x : FVal) : mulVal x .nan = .nan := by cases x <;> rfl

theorem fAdd_fSub_fMul_of_nan {a b : BitVec 32} (h : isNan a = true ∨ isNan b = true) :
    fAdd a b = qnan ∧ fSub a b = qnan ∧ fMul a b = qnan := by
  unfold fAdd fSub fMul
  rcases h with h | h
  · rw [(isNan_iff_decF32 _).1 h]
    exact ⟨rfl, rfl, rfl⟩
  · rw [(isNan_iff_decF32 _).1 h, negVal, addVal_nan_right, mulVal_nan_right]
    exact ⟨rfl, rfl, rfl⟩

/-- Settles O16: the operand's class decides the special values, and a NaN result is the quiet NaN because no rounding makes one. -/
theorem specialValues : Obligations.SpecialValues := by
  unfold Obligations.SpecialValues
  refine ⟨fun a h => ?_, special_at_zero_and_infinity, fun a => fRsqrt_fLog2_of_negative, rfl, by decide, rfl, fun a => fExp2_of_large,
    fun a => fExp2_of_small, isNan_iff, fun a h => ?_, quietIfNan_vecResult, fun f b => quietIfNan_roundVal _,
    fun a b => fAdd_fSub_fMul_of_nan⟩
  · have he : a.toNat / 2 ^ 23 % 256 = 0 := by
      simpa [BitVec.extractLsb'_toNat, Nat.shiftRight_eq_div_pow] using congrArg BitVec.toNat h
    exact special_congr ((flushIn_of_exponent_zero he).trans (flushIn_zero a.msb).symm)
  · have hn := (isNan_iff a).1 h
    rw [← flushIn_of_normal (a := a) (by omega), isNan_iff_decF32] at h
    exact special_of_nan h

end Sys2Proof.Machine
end

section
/-!
PROOFS. The step word (chapter 4, R93): its fields, cut out and joined, and the operations of each class.
-/
namespace Sys2Proof.Machine

/-! ## The fields of a step word -/

theorem bits_toNat {n : Nat} (w : BitVec n) (hi lo : Nat) : bits w.toNat hi lo = (w.extractLsb' lo (hi + 1 - lo)).toNat := by
  rw [bits, BitVec.extractLsb'_toNat, Nat.shiftRight_eq_div_pow]

theorem wCls_toNat (w : BitVec 128) : wCls w.toNat = (w.extractLsb' 124 4).toNat := bits_toNat w 127 124
theorem wOp_toNat (w : BitVec 128) : wOp w.toNat = (w.extractLsb' 116 8).toNat := bits_toNat w 123 116
theorem wCond_toNat (w : BitVec 128) : wCond w.toNat = (w.extractLsb' 112 4).toNat := bits_toNat w 115 112

theorem StepWord.decode_eq (w : BitVec 128) :
    StepWord.decode w = ⟨w.extractLsb' 124 4, w.extractLsb' 116 8, w.extractLsb' 112 4, w.extractLsb' 0 112⟩ := by
  simp only [StepWord.decode, wCls_toNat, wOp_toNat, wCond_toNat, bits_toNat, BitVec.ofNat_toNat, BitVec.setWidth_eq]

/-- The four fields stand side by side and fill the word, so that joining them gives it back. -/
theorem StepWord.encode_decode (w : BitVec 128) : (StepWord.decode w).encode = w := by
  have joined {start len : Nat} (l : Nat) : w.extractLsb' (start + len) l ++ w.extractLsb' start len = w.extractLsb' start (l + len) :=
    BitVec.extractLsb'_append_extractLsb'_eq_extractLsb' rfl
  rw [StepWord.decode_eq, StepWord.encode]
  dsimp only
  rw [joined (start := 116) (len := 8) 4, joined (start := 112) (len := 4) 12, joined (start := 0) (len := 112) 16]
  exact BitVec.extractLsb'_eq_self

/-- Each field is cut out at the place where joining put it. -/
theorem StepWord.decode_encode (x : StepWord) : StepWord.decode x.encode = x := by
  obtain ⟨cls, op, cond, opnd⟩ := x
  have above : ∀ start len, 112 ≤ start → (StepWord.encode ⟨cls, op, cond, opnd⟩).extractLsb' start len =
      (cls ++ op ++ cond).extractLsb' (start - 112) len := fun _ _ => BitVec.extractLsb'_append_eq_of_le
  rw [StepWord.decode_eq, above 124 4 (by decide), above 116 8 (by decide), above 112 4 (by decide), StepWord.mk.injEq]
  refine ⟨?_, ?_, BitVec.extractLsb'_append_eq_right, BitVec.extractLsb'_append_eq_right⟩
  · exact (BitVec.extractLsb'_append_eq_of_le (by decide)).trans BitVec.extractLsb'_append_eq_left
  · exact (BitVec.extractLsb'_append_eq_of_le (by decide)).trans BitVec.extractLsb'_append_eq_right

/-! ## The operations of each class -/

/-- The commands that issue the operations 0, 1, 2, … of a class, in this order (Table — step classes and the operation tables of
chapter 4). -/
def opsOf : Nat → List (CoreId → Instr)
  | 1 => [.moveCopy, .loadT, .storeT, .moveLoadX, .storeX, .tToX, .xToT, .sendO, .recvO, .feedT, .feedO, .gatherT, .gatherX]
  | 2 => [.loadN, .arrayLoadX, .stream]
  | 3 => [.accClear, .drainV, .drainS, .save, .restore, .merge]
  | 4 => [.vecAdd, .vecSub, .vecMul, .fma, .vecMin, .vecMax, .cmplt, .cmpeq, .cvtTo, .cvtFrom, .rcp, .rsqrt, .exp2, .log2, .addFold,
      .maxFold, .minFold, .setk]
  | 5 => [.syncTake, .release, .give, .syncWait]
  | 6 => [.ctrlNop, .loop, .branch, .phase, .seta, .adda, .settle, .ctrlEnd]
  | _ => []

/-- The commands of a class name its operations, one each, counted from 0. -/
theorem map_stepRow_opsOf (cls : Nat) (n : CoreId) : (opsOf cls).map (fun f => stepRow (f n)) =
    (List.range (opsOf cls).length).map (fun op => some (cls, op, n)) := by
  fun_cases opsOf cls <;> rfl

theorem exists_stepRow_of_lt {cls op : Nat} (n : CoreId) (h : op < (opsOf cls).length) : ∃ i, stepRow i = some (cls, op, n) := by
  have listed : some (cls, op, n) ∈ (opsOf cls).map (fun f => stepRow (f n)) := by
    rw [map_stepRow_opsOf]
    exact List.mem_map_of_mem (List.mem_range.2 h)
  obtain ⟨f, -, hf⟩ := List.mem_map.1 listed
  exact ⟨f n, hf⟩

/-- No operation beyond the last of its class is listed. -/
theorem lt_of_usedBits {cls op : Nat} (h : (usedBits cls op).isSome = true) : op < (opsOf cls).length := by
  revert h
  fun_cases usedBits cls op
  case case24 hop => -- VEC up to MIN_FOLD, one line of the table: `op ≤ 0x10`
    exact fun _ => Nat.lt_succ_of_le (Nat.le_succ_of_le hop)
  all_goals simp [opsOf]

theorem usedBits_of_stepRow {i : Instr} {cls op : Nat} {n : CoreId} (h : stepRow i = some (cls, op, n)) :
    (usedBits cls op).isSome = true := by
  unfold stepRow at h
  split at h <;> cases h <;> rfl

/-- An operation is listed exactly where a command issues it (R93). -/
theorem usedBits_isSome_iff (cls op : Nat) :
    (usedBits cls op).isSome = true ↔ ∃ (i : Instr) (n : CoreId), stepRow i = some (cls, op, n) := by
  constructor
  · intro h
    obtain ⟨i, hi⟩ := exists_stepRow_of_lt 0 (lt_of_usedBits h)
    exact ⟨i, 0, hi⟩
  · rintro ⟨i, n, h⟩
    exact usedBits_of_stepRow h

end Sys2Proof.Machine
end

section
/-!
PROOFS. A core in fault state (chapter 4, R121): what its fault leaves in the core, and that nothing more happens there.
-/
namespace Sys2Proof.Machine

/-! ## What a fault leaves in the core -/

/-- A partition that enters HALTED keeps its cores as they stand (R16). -/
@[simp] theorem haltRegion_cores (d : Dev) (r : Nat) : (haltRegion d r).cores = d.cores := by
  unfold haltRegion haltPart
  split
  · split
    · exact setF_cores d _ _ _
    · rfl
  · rfl

theorem core_haltRegion (d : Dev) (r n : Nat) : core (haltRegion d r) n = core d n := by rw [core, haltRegion_cores, core]

/-- The fault of a core that issues: STATE, and STEP and CODE of CORE_FAULT (R121). -/
theorem core_coreFault {d : Dev} {n : Nat} (idx code status : Nat) (hf : (core d n).st ≠ .fault) (hm : (core d n).st ≠ .muzzled) :
    core (coreFault d n idx code status) n =
      { core d n with st := .fault, wait := 0, faultStep := idx, faultCode := code } := by
  have barked : ∀ (b : Bool) (e : Dev) (y s k v : Nat) (p t : Option Nat) (l : List Byte),
      core (if b = true then e else bark e y s k v p t l) n = core e n := fun b _ _ _ _ _ _ _ _ => by cases b <;> rfl
  unfold coreFault
  dsimp only
  rw [if_neg (by simp [hf, hm])]
  split
  · exact (barked _ _ _ _ _ _ _ _ _).trans (core_setCore_self d n _)
  · rw [core_haltRegion, barked, core_setCore_self]

/-! ## A faulted core rests -/

section
variable {d : Dev} {n : Nat} (hf : (core d n).st = .fault)
include hf

theorem runPast_of_fault : runPast d n = d := by simp [runPast, hf]

theorem heelIn_of_fault : heelIn d n = d := by simp [heelIn, hf]

theorem showWait_of_fault : showWait d n = d := by simp [showWait, hf]

end

/-- With nothing in the queues of a core no engine goes on. -/
theorem pumpGo_of_empty {d : Dev} {n : Nat} (hq : (core d n).q = []) (k : Nat) : pumpGo n k d = d := by
  cases k with
  | zero => rfl
  | succ k => simp only [pumpGo, hq]; rfl

theorem pump_of_fault {d : Dev} {n : Nat} (hf : (core d n).st = .fault) (hq : (core d n).q = []) : pump d n = d := by
  unfold pump
  dsimp only
  rw [pumpGo_of_empty hq, heelIn_of_fault hf, showWait_of_fault hf]

end Sys2Proof.Machine
end

section
/-!
PROOFS. A step that does not exist (chapter 4, R93): at the head of issue it faults its core with code 4, whatever its condition says
(log entry 82).
-/
namespace Sys2Proof.Machine

/-- Only a core in RUN or WAIT has a step at its head of issue. -/
theorem st_of_headOf {c : Core} {w : BitVec 128} (h : headOf c = some w) : c.st = .run ∨ c.st = .wait := by
  unfold headOf at h
  split at h
  · next hc =>
    simp only [Bool.and_eq_true, Bool.or_eq_true, beq_iff_eq] at hc
    obtain ⟨⟨hst, -⟩, -⟩ := hc
    exact hst
  · cases h

/-- Issue looks at the class and the operation before the condition. -/
theorem issueHead_of_reserved {d : Dev} {n : Nat} {w : BitVec 128} (hb : (core d n).badStep.contains (core d n).pc = false)
    (hu : usedBits (wCls w.toNat) (wOp w.toNat) = none) : issueHead d n w = coreFault d n (core d n).pc 4 stMalformed := by
  unfold issueHead
  dsimp only
  rw [if_neg (by rw [hb]; exact Bool.false_ne_true), if_pos (by rw [hu]; rfl)]

/-- The word at the head of issue meets issue when the command names its kind, and then the engines go on. -/
theorem issue_of_head {sel : Nat → Bool} {n : Nat} {d : Dev} {w : BitVec 128} (hh : headOf (core d n) = some w)
    (hs : sel w.toNat = true) : issue sel n d = pump (runPast (issueHead d n w) n) n := by
  unfold issue
  rw [hh]
  exact if_pos hs

/-- RESERVED_STEP at a core with nothing in its queues is the core fault and nothing else: the core has stopped, so that neither issue
nor an engine goes on. -/
theorem issue_reserved {d : Dev} {n : Nat} {w : BitVec 128} (hh : headOf (core d n) = some w)
    (hb : (core d n).badStep.contains (core d n).pc = false) (hu : usedBits (wCls w.toNat) (wOp w.toNat) = none)
    (hq : (core d n).q = []) :
    issue (fun w => (usedBits (wCls w) (wOp w)).isNone) n d = coreFault d n (core d n).pc 4 stMalformed := by
  have left := core_coreFault (d := d) (n := n) (core d n).pc 4 stMalformed
    (by rcases st_of_headOf hh with h | h <;> simp [h]) (by rcases st_of_headOf hh with h | h <;> simp [h])
  have stopped : (core (coreFault d n (core d n).pc 4 stMalformed) n).st = .fault := by rw [left]
  have empty : (core (coreFault d n (core d n).pc 4 stMalformed) n).q = [] := by rw [left]; exact hq
  rw [issue_of_head hh (by rw [hu]; rfl), issueHead_of_reserved hb hu, runPast_of_fault stopped, pump_of_fault stopped empty]

/-- Settles O10: the fields of a step word are its bits, an operation is listed exactly where a command issues it, and a word without
one stops its core with code 4. -/
theorem stepWordFormat : Obligations.StepWordFormat := by
  unfold Obligations.StepWordFormat
  refine ⟨fun w => ⟨StepWord.decode_eq w, wCls_toNat w, wOp_toNat w, wCond_toNat w, StepWord.encode_decode w⟩, StepWord.decode_encode,
    usedBits_isSome_iff, rfl, fun s n w hr hh hb hu hq => ?_, rfl⟩
  rw [← wCls_toNat, ← wOp_toNat] at hu
  rw [show exec (.reservedStep n) s = live s (issue (fun w => (usedBits (wCls w) (wOp w)).isNone) n) from rfl, live_next s _ hr,
    issue_reserved hh hb hu hq]

end Sys2Proof.Machine
end

section
/-!
PROOFS. One step of the block (log entries 3, 5 and 6): the command at the front of the queue, or a reference cycle, then what follows of
itself; and the barks that a step leaves.
-/
namespace Sys2Proof.Machine

/-- Settles O1: `step` looks at the queue alone. -/
theorem stepTakesFront : Obligations.StepTakesFront := by
  unfold Obligations.StepTakesFront
  refine fun s c => ⟨rfl, fun rest h => ?_⟩
  unfold step
  rw [h]

/-- Settles O4: the machine after reset has an empty queue of barks, and its device waits for DEVICE_START. -/
theorem resetPlacesBarks : Obligations.ResetPlacesBarks := ⟨⟨rfl, .inl rfl⟩, rfl, rfl⟩

/-! ## A device in which nothing waits -/

/-- Where nothing but barks waits, only the pumps of the barks and of the ports have something to do. -/
theorem settle_of_still {d : Dev} (h : Still d) : settle d = txPump (pumpBarks d) := by
  have jobs := jobsIssue_rest d h.jobs h.changes
  unfold settle
  rw [clearSent_rest d h.sent, towersPump_none d h.towersAt, processEvents_none d h.events, jobsGo_rest _ d h.jobs h.changes]
  dsimp only
  rw [ledgersLost_none d h.ledgers, ringsPump_rest d h.rings h.items, flushPump_none d h.flushes, stopPump_none d h.stopping,
    failoverPump_none d h.failover, rcptPump_rest d h.receipts, partitionPump_none d h.waits, drainPump_none d h.drain h.cold,
    processEvents_none d h.events, jobs, wearCheck_none d h.wear]

theorem settle_of_quiet {d : Dev} (h : Quiet d) : settle d = d := by
  rw [settle_of_still h.toStill, pumpBarks_none d h.raised h.queue, txPump_rest d h.sends]

/-- Settles O2: an empty queue runs one reference cycle; each pump of `settle` rests in a still device. -/
theorem emptyQueueIdles : Obligations.EmptyQueueIdles := by
  unfold Obligations.EmptyQueueIdles
  refine ⟨fun s h => ?_, fun d => ⟨settle_of_quiet, settle_of_still⟩⟩
  obtain ⟨d, pending⟩ := s
  cases h
  rfl

/-! ## Every command completes -/

/-- Settles O53: a command acts through `live`, which a device in reset answers with itself, or is one of the pins and ports, which act
through `on`; both end in `settle`. -/
theorem heldInResetStands : Obligations.HeldInResetStands := by
  unfold Obligations.HeldInResetStands
  refine ⟨fun s c hr hc => ?_, fun s c => ?_⟩
  · obtain ⟨f, hf⟩ := exec_live c s hc
    rw [hf, live_reset s f hr]
  · cases hc : actsInReset c with
    | false =>
      obtain ⟨f, hf⟩ := exec_live c s hc
      exact ⟨_, hf⟩
    | true =>
      obtain ⟨f, hf⟩ := exec_pin c s hc
      exact ⟨_, hf⟩

/-! ## A bark that a bark's own place raises -/

/-- A device out of reset whose event ring stands, enabled, at a reserved address of tower memory, with one bark in the queue. -/
def reservedEvtRing : Dev :=
  let d := { Dev.init .ist8432 with boot := { Boot.init with reset := false } }
  let d := setF (setF d evtPg EVT.EVT_CFG_ENABLE 1) evtPg EVT.EVT_BASE (2 ^ 41)
  { d with evt := { d.evt with queue := [⟨0x2502, 0, 0, 1, none, 0, none, 0, []⟩] } }

/-- The waiting bark takes its place; the write finds its address reserved and raises bark 0x0101 (R33, R305), after the raised barks have
gone their way. -/
theorem settle_reservedEvtRing_raises : (settle reservedEvtRing).evt.raised.map (·.typ) = [0x0101] := by decide

/-- Refutes O3: an event ring at a reserved address (`reservedEvtRing`). An SMBus timeout while PG_AUX is away changes nothing itself; the
bark written after it raises another, which no pump of that step places. -/
theorem not_stepPlacesBarks : ¬ Obligations.StepPlacesBarks := by
  unfold Obligations.StepPlacesBarks
  intro h
  have raised := (h { dev := reservedEvtRing, pending := [.smbTimeout] } { dev := settle reservedEvtRing, pending := [] } rfl).1
  have bark := settle_reservedEvtRing_raises
  rw [raised] at bark
  exact absurd bark (by decide)

end Sys2Proof.Machine
end

section
/-!
PROOFS. The running total of an accumulator element (chapter 3, R76, R77 and R82): as long as the magnitudes add to less than 2^63 on the
grid of the finest chunk, no promotion moves the anchor above that grid, and no bit is discarded.
-/
namespace Sys2Proof.Machine

/-- `T × 2^a` counted in units of `2^k`, for `k` at or below `a`. -/
def scaledTo (k t a : Int) : Int := t * 2 ^ (a - k).toNat

theorem scaledTo_zero (k a : Int) : scaledTo k 0 a = 0 := Int.zero_mul _

/-- A value may be written on any grid between its own exponent and the units it is counted in. -/
theorem scaledTo_regrid {k g a : Int} (t : Int) (hk : k ≤ g) (hg : g ≤ a) : scaledTo k (t * pow2 (a - g)) g = scaledTo k t a := by
  have e : (a - k).toNat = (a - g).toNat + (g - k).toNat := by omega
  rw [scaledTo, scaledTo, pow2, e, pow_add, mul_assoc]

theorem scaledTo_add (k t s g : Int) : scaledTo k (t + s) g = scaledTo k t g + scaledTo k s g := Int.add_mul _ _ _

/-- A factor of a total that fits 64 bits fits them too. -/
theorem natAbs_le_scaledTo (k t a : Int) : t.natAbs ≤ (scaledTo k t a).natAbs := by
  rw [scaledTo, Int.natAbs_mul]
  exact Nat.le_mul_of_pos_right _ (Int.natAbs_pos.2 (by positivity))

/-! ## An element in fixed mode -/

/-- T and A of a fixed-mode element are read as they were written, A within the codes of Table — anchor codes. -/
theorem val_accFixed {t a : Int} (x : Bool) (ht : t.natAbs < 2 ^ 63) (hl : -496 ≤ a) (hu : a ≤ 508) (h4 : 4 ∣ a) :
    (accFixed t a x).val = .fixed t a := by
  obtain ⟨q, rfl⟩ := h4
  have hq : (4 * q) / 4 = q := by omega
  have code : (BitVec.ofInt 8 q).toInt = q := by rw [BitVec.toInt_ofInt]; exact Int.bmod_eq_of_le (by omega) (by omega)
  have total : (BitVec.ofInt 64 t).toInt = t := by rw [BitVec.toInt_ofInt]; exact Int.bmod_eq_of_le (by omega) (by omega)
  have plain : ∀ b : BitVec 8, b.toInt < -124 → (BitVec.ofInt 8 q == b) = false := by
    intro b hb
    refine beq_eq_false_iff_ne.2 fun e => ?_
    rw [← e, code] at hb
    omega
  unfold accFixed AccElem.val
  rw [hq]
  simp only [plain 0x80#8 (by decide), plain 0x81#8 (by decide), plain 0x82#8 (by decide), plain 0x83#8 (by decide), code, total]
  rfl

/-- The anchor stays on the grid where the total fits at once. -/
theorem anchorUp_of_fits {u grid a : Int} (k : Nat) (hg : a ≤ grid) (h : (u * pow2 (grid - a)).natAbs < 2 ^ 63) :
    anchorUp u grid (k + 1) a = a := by
  have fits : ¬ ((decide (u * pow2 (grid - a) < -(2 ^ 63)) || decide (u * pow2 (grid - a) > 2 ^ 63 - 1)) = true) := by
    simp only [Bool.or_eq_true, decide_eq_true_eq]
    omega
  simp only [anchorUp, if_pos (ge_iff_le.2 hg), if_neg fits]

/-- The value `t × 2^a` of an element whose contributions add to `sum` units of `2^k`. -/
structure ExactSum (k sum t a : Int) : Prop where
  above : k ≤ a
  below : a ≤ 440
  anchor : 4 ∣ a
  value : scaledTo k t a = sum

/-- R77 on a total `u` on a grid where it fits: the anchor is the grid's, and the element holds the total whole. -/
theorem exactSum_on_grid {k u grid : Int} (hk : k + 3 ≤ grid ∨ (k ≤ grid ∧ 4 ∣ grid)) (hu : grid ≤ 440)
    (hs : (scaledTo k u grid).natAbs < 2 ^ 63) :
    ∃ t a, (if anchorUp u grid 400 (4 * (grid / 4)) > 508 then accInf (u < 0) true
      else if grid ≥ anchorUp u grid 400 (4 * (grid / 4)) then
        accFixed (u * pow2 (grid - anchorUp u grid 400 (4 * (grid / 4)))) (anchorUp u grid 400 (4 * (grid / 4))) false
      else accFixed (u / pow2 (anchorUp u grid 400 (4 * (grid / 4)) - grid)) (anchorUp u grid 400 (4 * (grid / 4)))
        (false || u % pow2 (anchorUp u grid 400 (4 * (grid / 4)) - grid) != 0)) = accFixed t a false ∧
      ExactSum k (scaledTo k u grid) t a := by
  have hka : k ≤ 4 * (grid / 4) := by omega
  have hag : 4 * (grid / 4) ≤ grid := by omega
  have same := scaledTo_regrid u hka hag
  have fits := natAbs_le_scaledTo k (u * pow2 (grid - 4 * (grid / 4))) (4 * (grid / 4))
  rw [same] at fits
  rw [anchorUp_of_fits 399 hag (fits.trans_lt hs), if_neg (by omega), if_pos hag]
  exact ⟨_, _, rfl, hka, by omega, Dvd.intro _ rfl, same⟩

/-- R77 with a chunk that is not zero: the element's total and the chunk's add up exactly. -/
theorem promoteFixed_exact {k sum t a s c : Int} (h : t = 0 ∧ sum = 0 ∨ ExactSum k sum t a) (hs : s ≠ 0) (hc : k + 3 ≤ c)
    (hu : c ≤ 440) (fits : (sum + scaledTo k s c).natAbs < 2 ^ 63) :
    ∃ t' a', promoteFixed t a s c false = accFixed t' a' false ∧ ExactSum k (sum + scaledTo k s c) t' a' := by
  have hs0 : ¬ (s == 0) = true := by simpa using hs
  unfold promoteFixed
  rw [if_neg hs0]
  by_cases ht : t = 0
  · have zero : sum = 0 := by
      rcases h with ⟨-, h⟩ | h
      · exact h
      · rw [← h.value, ht, scaledTo_zero]
    rw [zero, zero_add] at fits ⊢
    simp only [ht, beq_self_eq_true, if_true]
    exact exactSum_on_grid (.inl hc) hu fits
  · have old := h.resolve_left (fun x => ht x.1)
    have ha := old.above
    have hau := old.below
    have ht0 : ¬ (t == 0) = true := by simpa using ht
    have total : scaledTo k (t * pow2 (a - min a c) + s * pow2 (c - min a c)) (min a c) = sum + scaledTo k s c := by
      rw [scaledTo_add, scaledTo_regrid t (by omega) (by omega), scaledTo_regrid s (by omega) (by omega), old.value]
    have hgrid : k + 3 ≤ min a c ∨ (k ≤ min a c ∧ 4 ∣ min a c) := by
      rcases le_total a c with hac | hca
      · rw [min_eq_left hac]; exact .inr ⟨ha, old.anchor⟩
      · rw [min_eq_right hca]; exact .inl hc
    rw [← total] at fits ⊢
    simp only [if_neg ht0]
    exact exactSum_on_grid hgrid (by omega) fits

/-! ## The sum of the chunks -/

/-- An element that no chunk but zeros has reached, counted from an empty one. -/
def Untouched (e : AccElem) : Prop := e = AccElem.empty ∨ e = accFixed 0 0 false

/-- The element holds the exact sum of its contributions, X clear. -/
def HoldsSum (k sum : Int) (e : AccElem) : Prop := ∃ t a, e = accFixed t a false ∧ ExactSum k sum t a ∧ sum.natAbs < 2 ^ 63

theorem HoldsSum.val {k sum : Int} {e : AccElem} (hk : -499 ≤ k) (h : HoldsSum k sum e) :
    ∃ t a, e.val = .fixed t a ∧ e.x = false ∧ ExactSum k sum t a := by
  obtain ⟨t, a, rfl, exact_, fits⟩ := h
  have := exact_.above
  have := exact_.below
  have := exact_.anchor
  rw [← exact_.value] at fits
  exact ⟨t, a, val_accFixed false ((natAbs_le_scaledTo k t a).trans_lt fits) (by omega) (by omega) exact_.anchor, rfl, exact_⟩

theorem Untouched.promote_zero {e : AccElem} (h : Untouched e) (c : Int) : Untouched (promote e (.num 0 c false)) := by
  rcases h with rfl | rfl <;> exact .inr rfl

theorem Untouched.promote_chunk {k s c : Int} {e : AccElem} (h : Untouched e) (hs : s ≠ 0) (hc : k + 3 ≤ c) (hu : c ≤ 440)
    (fits : (scaledTo k s c).natAbs < 2 ^ 63) : HoldsSum k (scaledTo k s c) (promote e (.num s c false)) := by
  have start : promote e (.num s c false) = promoteFixed 0 0 s c false := by rcases h with rfl | rfl <;> rfl
  obtain ⟨t, a, ht, exact_⟩ := promoteFixed_exact (k := k) (t := 0) (a := 0) (.inl ⟨rfl, rfl⟩) hs hc hu (by rwa [zero_add])
  rw [zero_add] at exact_
  exact ⟨t, a, start.trans ht, exact_, fits⟩

/-- A chunk joins an element that holds the sum of those before it; a zero leaves it. -/
theorem HoldsSum.promote {k sum s c : Int} {e : AccElem} (hk : -499 ≤ k) (h : HoldsSum k sum e)
    (hc : s ≠ 0 → k + 3 ≤ c ∧ c ≤ 440) (fits : (sum + scaledTo k s c).natAbs < 2 ^ 63) :
    HoldsSum k (sum + scaledTo k s c) (promote e (.num s c false)) := by
  obtain ⟨t, a, hv, hx, exact_⟩ := h.val hk
  have start : Machine.promote e (.num s c false) = promoteFixed t a s c false := by simp only [Machine.promote, hv, hx, Bool.or_false]
  by_cases hs : s = 0
  · subst hs
    rw [scaledTo_zero, add_zero] at fits ⊢
    exact ⟨t, a, start, exact_, fits⟩
  · obtain ⟨t', a', ht, exact'⟩ := promoteFixed_exact (.inr exact_) hs (hc hs).1 (hc hs).2 fits
    exact ⟨t', a', start.trans ht, exact', fits⟩

/-- The value of the chunks, and the sum of their magnitudes, in units of `2^k`. -/
def chunkSum (k : Int) (cs : List (Int × Int)) : Int := (cs.map (fun x => scaledTo k x.1 x.2)).sum
def chunkMag (k : Int) (cs : List (Int × Int)) : Nat := (cs.map (fun x => (scaledTo k x.1 x.2).natAbs)).sum

/-- Every partial sum is bounded by the magnitudes (R82), so that the chunks that follow join exactly. -/
theorem HoldsSum.foldl {k : Int} (hk : -499 ≤ k) {cs : List (Int × Int)} : ∀ {sum : Int} {e : AccElem}, HoldsSum k sum e →
    (∀ x ∈ cs, x.1 ≠ 0 → k + 3 ≤ x.2 ∧ x.2 ≤ 440) → sum.natAbs + chunkMag k cs < 2 ^ 63 →
    HoldsSum k (sum + chunkSum k cs) (cs.foldl (fun e x => Machine.promote e (.num x.1 x.2 false)) e) := by
  induction cs with
  | nil =>
    intro sum e h _ _
    rw [chunkSum, List.map_nil, List.sum_nil, add_zero]
    exact h
  | cons x r ih =>
    intro sum e h hc fits
    simp only [chunkMag, List.map_cons, List.sum_cons] at fits
    have step := h.promote hk (hc x List.mem_cons_self) (by omega)
    have rest := ih step (fun y hy => hc y (List.mem_cons_of_mem _ hy)) (by rw [chunkMag]; omega)
    rw [List.foldl_cons, chunkSum, List.map_cons, List.sum_cons, ← add_assoc]
    exact rest

/-- Zeros before the first chunk change nothing but V. -/
theorem Untouched.foldl {k : Int} (hk : -499 ≤ k) {cs : List (Int × Int)} : ∀ {e : AccElem}, Untouched e →
    (∀ x ∈ cs, x.1 ≠ 0 → k + 3 ≤ x.2 ∧ x.2 ≤ 440) → (∃ x ∈ cs, x.1 ≠ 0) → chunkMag k cs < 2 ^ 63 →
    HoldsSum k (chunkSum k cs) (cs.foldl (fun e x => promote e (.num x.1 x.2 false)) e) := by
  induction cs with
  | nil => rintro e _ _ ⟨x, hx, -⟩; cases hx
  | cons x r ih =>
    intro e h hc some_ fits
    simp only [chunkMag, List.map_cons, List.sum_cons] at fits
    have hr : ∀ y ∈ r, y.1 ≠ 0 → k + 3 ≤ y.2 ∧ y.2 ≤ 440 := fun y hy => hc y (List.mem_cons_of_mem _ hy)
    rw [List.foldl_cons, chunkSum, List.map_cons, List.sum_cons]
    by_cases hx : x.1 = 0
    · have some_r : ∃ y ∈ r, y.1 ≠ 0 := by
        obtain ⟨y, hy, hy0⟩ := some_
        rcases List.mem_cons.1 hy with rfl | hy
        · exact absurd hx hy0
        · exact ⟨y, hy, hy0⟩
      rw [hx, scaledTo_zero, zero_add]
      exact ih (h.promote_zero x.2) hr some_r (by rw [chunkMag]; omega)
    · have hx2 := hc x List.mem_cons_self hx
      exact (h.promote_chunk hx hx2.1 hx2.2 (by omega)).foldl hk hr (by rw [chunkMag]; omega)

/-- The bound of R82, in units 8 times finer than the finest chunk's. -/
theorem chunkMag_eq {m : Int} {cs : List (Int × Int)} (hc : ∀ x ∈ cs, x.1 ≠ 0 → m ≤ x.2) :
    (chunkMag (m - 3) cs : Int) = 8 * (cs.map (fun x => (x.1.natAbs : Int) * 2 ^ (x.2 - m).toNat)).sum := by
  induction cs with
  | nil => rfl
  | cons x r ih =>
    have hr := ih fun y hy => hc y (List.mem_cons_of_mem _ hy)
    have one : ((scaledTo (m - 3) x.1 x.2).natAbs : Int) = 8 * ((x.1.natAbs : Int) * 2 ^ (x.2 - m).toNat) := by
      by_cases hx : x.1 = 0
      · rw [hx, scaledTo_zero]; simp
      · have := hc x List.mem_cons_self hx
        have e : (x.2 - (m - 3)).toNat = (x.2 - m).toNat + 3 := by omega
        rw [scaledTo, e, Int.natAbs_mul, Int.natAbs_pow, pow_add]
        push_cast
        ring
    simp only [chunkMag, List.map_cons, List.sum_cons] at hr ⊢
    rw [Nat.cast_add, one, hr, mul_add]

/-- Settles O15: the first chunk that is not zero sets the anchor, and each one after it joins the sum on its grid. -/
theorem totalIsExact : Obligations.TotalIsExact := by
  unfold Obligations.TotalIsExact
  intro cs m hm hc some_ fits
  have mag := chunkMag_eq fun x hx hx0 => (hc x hx hx0).1
  have held : HoldsSum (m - 3) (chunkSum (m - 3) cs) (cs.foldl (fun e x => promote e (.num x.1 x.2 false)) AccElem.empty) :=
    Untouched.foldl (by omega) (.inl rfl) (fun x hx hx0 => ⟨by have := (hc x hx hx0).1; omega, (hc x hx hx0).2⟩) some_ (by omega)
  obtain ⟨t, a, hv, hx, exact_⟩ := held.val (by omega)
  exact ⟨t, a, hv, hx, exact_.above, exact_.value⟩

end Sys2Proof.Machine
end

section
/-!
PROOFS. Little-endian bytes (R6): the bytes of a value and the value of bytes.
-/
namespace Sys2Proof.Machine

theorem leNat_lt (bs : List Byte) : leNat bs < 256 ^ bs.length := by
  induction bs with
  | nil => exact Nat.one_pos
  | cons b r ih =>
    have hb := b.isLt
    rw [leNat, List.length_cons, pow_succ]
    omega

/-- Bytes beyond those asked for do not enter. -/
theorem leBytes_leNat_add (bs : List Byte) (m : Nat) : leBytes bs.length (leNat bs + m * 256 ^ bs.length) = bs := by
  induction bs generalizing m with
  | nil => rfl
  | cons b r ih =>
    have e : leNat (b :: r) + m * 256 ^ (b :: r).length = b.toNat + 256 * (leNat r + m * 256 ^ r.length) := by
      rw [leNat, List.length_cons, pow_succ]; ring
    have low : BitVec.ofNat 8 (b.toNat + 256 * (leNat r + m * 256 ^ r.length)) = b := by
      apply BitVec.eq_of_toNat_eq
      rw [BitVec.toNat_ofNat]
      have := b.isLt
      omega
    have high : (b.toNat + 256 * (leNat r + m * 256 ^ r.length)) / 256 = leNat r + m * 256 ^ r.length := by
      have := b.isLt
      omega
    rw [e, List.length_cons, leBytes, low, high, ih]

@[simp] theorem length_leBytes (n v : Nat) : (leBytes n v).length = n := by
  induction n generalizing v with
  | zero => rfl
  | succ n ih => rw [leBytes, List.length_cons, ih]

theorem leNat_leBytes (n v : Nat) : leNat (leBytes n v) = v % 256 ^ n := by
  induction n generalizing v with
  | zero => rw [leBytes, leNat, pow_zero, Nat.mod_one]
  | succ n ih =>
    rw [leBytes, leNat, ih, BitVec.toNat_ofNat, pow_succ' 256 n, Nat.mod_mul]

end Sys2Proof.Machine
end

section
/-!
PROOFS. The Reed–Solomon code of a stored word (chapter 6, R162 and R163): the check symbols are the remainder by
(x − 1)(x − α)(x − α²), so that the codeword has the roots 1, α and α² and its three syndromes are zero.
-/
namespace Sys2Proof.Machine

/-! ## Products in GF(2^8) -/

/-- A symbol times α. -/
def gfDouble (a : Nat) : Nat := if 2 * a ≥ 256 then Nat.xor (2 * a) 0x11D else 2 * a

theorem xor_eq (a b : Nat) : Nat.xor a b = a ^^^ b := rfl

/-- The reduction takes away the bit above the symbol, where it stands. -/
theorem gfDouble_eq {a : Nat} (h : a < 256) : gfDouble a = (2 * a) ^^^ (a / 128 * 0x11D) := by
  unfold gfDouble
  by_cases hb : 2 * a ≥ 256
  · have top : a / 128 = 1 := by omega
    rw [if_pos hb, top, xor_eq, one_mul]
  · have top : a / 128 = 0 := by omega
    rw [if_neg hb, top, zero_mul, Nat.xor_zero]

theorem xor_lt_256 {a b : Nat} (ha : a < 256) (hb : b < 256) : a ^^^ b < 256 := Nat.xor_lt_two_pow (n := 8) ha hb

theorem gfDouble_lt {a : Nat} (h : a < 256) : gfDouble a < 256 := by
  have all : ∀ i : Fin 256, gfDouble i.val < 256 := by decide +kernel
  exact all ⟨a, h⟩

theorem gfDouble_xor {a b : Nat} (ha : a < 256) (hb : b < 256) : gfDouble (a ^^^ b) = gfDouble a ^^^ gfDouble b := by
  have twice : 2 * (a ^^^ b) = (2 * a) ^^^ (2 * b) := by
    simpa [Nat.shiftLeft_eq, Nat.mul_comm] using Nat.shiftLeft_xor_distrib (i := 1) (a := a) (b := b)
  have top : (a ^^^ b) / 128 = a / 128 ^^^ b / 128 := by
    simpa [Nat.shiftRight_eq_div_pow] using Nat.shiftRight_xor_distrib (i := 7) (a := a) (b := b)
  have reduce : (a / 128 ^^^ b / 128) * 0x11D = (a / 128 * 0x11D) ^^^ (b / 128 * 0x11D) := by
    have one : ∀ i j : Fin 2, (i.val ^^^ j.val) * 0x11D = (i.val * 0x11D) ^^^ (j.val * 0x11D) := by decide
    exact one ⟨a / 128, by omega⟩ ⟨b / 128, by omega⟩
  rw [gfDouble_eq (xor_lt_256 ha hb), gfDouble_eq ha, gfDouble_eq hb, twice, top, reduce]
  ac_rfl

/-- The product is linear in the symbol that is doubled and in what is accumulated. -/
theorem gfMulGo_xor (n : Nat) {a b : Nat} (ha : a < 256) (hb : b < 256) (c u v : Nat) :
    gfMulGo n (a ^^^ b) c (u ^^^ v) = gfMulGo n a c u ^^^ gfMulGo n b c v := by
  induction n generalizing a b c u v with
  | zero => rfl
  | succ n ih =>
    have step (x acc : Nat) : gfMulGo (n + 1) x c acc =
        gfMulGo n (gfDouble x) (c / 2) (if (c % 2 == 1) = true then acc ^^^ x else acc) := rfl
    rw [step, step, step, gfDouble_xor ha hb, ← ih (gfDouble_lt ha) (gfDouble_lt hb)]
    congr 1
    split
    · ac_rfl
    · rfl

theorem gfMul_xor {a b : Nat} (ha : a < 256) (hb : b < 256) (c : Nat) : gfMul (a ^^^ b) c = gfMul a c ^^^ gfMul b c :=
  gfMulGo_xor 8 ha hb c 0 0

theorem gfMulGo_lt (n : Nat) {a u : Nat} (ha : a < 256) (hu : u < 256) (c : Nat) : gfMulGo n a c u < 256 := by
  induction n generalizing a c u with
  | zero => exact hu
  | succ n ih =>
    show gfMulGo n (gfDouble a) (c / 2) (if (c % 2 == 1) = true then u ^^^ a else u) < 256
    refine ih (gfDouble_lt ha) ?_ _
    split
    · exact xor_lt_256 hu ha
    · exact hu

theorem gfMul_lt {a : Nat} (ha : a < 256) (c : Nat) : gfMul a c < 256 := gfMulGo_lt 8 ha (by decide) c

/-! ## The roots of the generator -/

/-- `α^0`, `α` and `α²` are roots of the generator x³ + 7x² + 14x + 8, times any symbol. -/
def IsRoot (x : Nat) : Prop := ∀ f, f < 256 →
  gfMul (gfMul (gfMul f x) x) x = gfMul (gfMul (gfMul f 7) x) x ^^^ gfMul (gfMul f 14) x ^^^ gfMul f 8

theorem isRoot_gfPow {k : Nat} (hk : k < 3) : IsRoot (gfPow k) := by
  have all : ∀ k : Fin 3, ∀ f : Fin 256, gfMul (gfMul (gfMul f.val (gfPow k)) (gfPow k)) (gfPow k) =
      gfMul (gfMul (gfMul f.val 7) (gfPow k)) (gfPow k) ^^^ gfMul (gfMul f.val 14) (gfPow k) ^^^ gfMul f.val 8 := by decide +kernel
  exact fun f hf => all ⟨k, hk⟩ ⟨f, hf⟩

/-- One symbol of a polynomial's value at `x`, from its highest coefficient down. -/
def hornerStep (x acc s : Nat) : Nat := gfMul acc x ^^^ s

theorem syndrome_eq (gen k : Nat) (w : List Nat) : syndrome gen k w = (gen :: w.reverse).foldl (hornerStep (gfPow k)) 0 := rfl

/-- The remainder's value at `x`. -/
def remAt (x : Nat) (r : Nat × Nat × Nat) : Nat := gfMul (gfMul r.1 x) x ^^^ gfMul r.2.1 x ^^^ r.2.2

/-- The three check symbols are symbols. -/
def RemLt (r : Nat × Nat × Nat) : Prop := r.1 < 256 ∧ r.2.1 < 256 ∧ r.2.2 < 256

theorem rsStep_lt {r : Nat × Nat × Nat} {s : Nat} (hr : RemLt r) (hs : s < 256) : RemLt (rsStep r s) := by
  obtain ⟨h2, h1, h0⟩ := hr
  have hf := xor_lt_256 h2 hs
  exact ⟨xor_lt_256 h1 (gfMul_lt hf 7), xor_lt_256 h0 (gfMul_lt hf 14), gfMul_lt hf 8⟩

/-- The remainder after one more symbol has, at a root, the value of the symbol and what was there before, raised by one. -/
theorem remAt_rsStep {x s : Nat} {r : Nat × Nat × Nat} (hx : IsRoot x) (hr : RemLt r) (hs : s < 256) :
    remAt x (rsStep r s) = gfMul (remAt x r) x ^^^ gfMul (gfMul (gfMul s x) x) x := by
  obtain ⟨r2, r1, r0⟩ := r
  obtain ⟨h2, h1, h0⟩ : r2 < 256 ∧ r1 < 256 ∧ r0 < 256 := hr
  have hf := xor_lt_256 h2 hs
  have lt {a : Nat} (ha : a < 256) : gfMul a x < 256 := gfMul_lt ha x
  have root := hx (r2 ^^^ s) hf
  rw [gfMul_xor h2 hs, gfMul_xor (lt h2) (lt hs), gfMul_xor (lt (lt h2)) (lt (lt hs))] at root
  have left : remAt x (rsStep (r2, r1, r0) s) = gfMul (gfMul r1 x) x ^^^ gfMul r0 x ^^^
      (gfMul (gfMul (gfMul (r2 ^^^ s) 7) x) x ^^^ gfMul (gfMul (r2 ^^^ s) 14) x ^^^ gfMul (r2 ^^^ s) 8) := by
    simp only [remAt, rsStep, xor_eq]
    rw [gfMul_xor h1 (gfMul_lt hf 7), gfMul_xor (lt h1) (lt (gfMul_lt hf 7)), gfMul_xor h0 (gfMul_lt hf 14)]
    ac_rfl
  rw [left, ← root]
  simp only [remAt]
  rw [gfMul_xor (xor_lt_256 (lt (lt h2)) (lt h1)) h0, gfMul_xor (lt (lt h2)) (lt h1)]
  ac_rfl

theorem hornerStep_lt {x acc s : Nat} (ha : acc < 256) (hs : s < 256) : hornerStep x acc s < 256 := xor_lt_256 (gfMul_lt ha x) hs

/-- The value of the symbols at a root, raised past the check symbols, is that of their remainder. -/
theorem horner_rem {x : Nat} (hx : IsRoot x) {syms : List Nat} (hs : ∀ s ∈ syms, s < 256) : ∀ {acc : Nat} {r : Nat × Nat × Nat},
    acc < 256 → RemLt r → gfMul (gfMul (gfMul acc x) x) x = remAt x r →
    gfMul (gfMul (gfMul (syms.foldl (hornerStep x) acc) x) x) x = remAt x (syms.foldl rsStep r) ∧
      syms.foldl (hornerStep x) acc < 256 ∧ RemLt (syms.foldl rsStep r) := by
  induction syms with
  | nil => exact fun ha hr h => ⟨h, ha, hr⟩
  | cons s rest ih =>
    intro acc r ha hr h
    have hs0 := hs s List.mem_cons_self
    have lt {a : Nat} (ha : a < 256) : gfMul a x < 256 := gfMul_lt ha x
    refine ih (fun y hy => hs y (List.mem_cons_of_mem _ hy)) (hornerStep_lt ha hs0) (rsStep_lt hr hs0) ?_
    rw [remAt_rsStep hx hr hs0, ← h, hornerStep, gfMul_xor (lt ha) hs0, gfMul_xor (lt (lt ha)) (lt hs0),
      gfMul_xor (lt (lt (lt ha))) (lt (lt hs0))]

theorem gfMul_zero_left (x : Nat) : gfMul 0 x = 0 := by
  have h := gfMul_xor (a := 0) (b := 0) (by decide) (by decide) x
  rwa [Nat.xor_self, Nat.xor_self] at h

theorem remLt_zero : RemLt (0, 0, 0) := ⟨Nat.zero_lt_succ _, Nat.zero_lt_succ _, Nat.zero_lt_succ _⟩

/-- From no symbols on, the value at a root and the remainder go together. -/
theorem horner_rsRem {x : Nat} (hx : IsRoot x) {syms : List Nat} (hs : ∀ s ∈ syms, s < 256) :
    gfMul (gfMul (gfMul (syms.foldl (hornerStep x) 0) x) x) x = remAt x (rsRem syms) ∧
      syms.foldl (hornerStep x) 0 < 256 ∧ RemLt (rsRem syms) := by
  refine horner_rem hx hs (Nat.zero_lt_succ _) remLt_zero ?_
  simp only [remAt, gfMul_zero_left, Nat.xor_self]

/-- The symbols followed by their check symbols have every root of the generator. -/
theorem horner_codeword {x : Nat} (hx : IsRoot x) {syms : List Nat} (hs : ∀ s ∈ syms, s < 256) :
    (syms ++ [(rsRem syms).1, (rsRem syms).2.1, (rsRem syms).2.2]).foldl (hornerStep x) 0 = 0 := by
  obtain ⟨value, ha, h2, h1, h0⟩ := horner_rsRem hx hs
  have lt {a : Nat} (ha : a < 256) : gfMul a x < 256 := gfMul_lt ha x
  rw [List.foldl_append]
  simp only [List.foldl_cons, List.foldl_nil, hornerStep]
  rw [gfMul_xor (lt ha) h2, gfMul_xor (xor_lt_256 (lt (lt ha)) (lt h2)) h1,
    gfMul_xor (lt (lt ha)) (lt h2), value, ← Nat.xor_self (remAt x (rsRem syms))]
  simp only [remAt]
  ac_rfl

/-! ## A stored word -/

theorem dataSyms_lt {data : List Byte} : ∀ s ∈ dataSyms data, s < 256 := by
  intro s hs
  obtain ⟨b, -, rfl⟩ := List.mem_map.1 (List.mem_reverse.1 hs)
  exact b.isLt

/-- The 280 bits of a stored word: its data, then its three check symbols (R162). -/
theorem encodeWord_toNat {g : Nat} {data : List Byte} (hg : g < 256) (hd : data.length = 32) :
    RemLt (rsRem (g :: dataSyms data)) ∧ (encodeWord g data).toNat = leNat data +
      ((rsRem (g :: dataSyms data)).2.2 + 256 * (rsRem (g :: dataSyms data)).2.1 + 65536 * (rsRem (g :: dataSyms data)).1) * 2 ^ 256 := by
  have hr : RemLt (rsRem (g :: dataSyms data)) :=
    (horner_rsRem (isRoot_gfPow (k := 0) (by decide)) (List.forall_mem_cons.2 ⟨hg, dataSyms_lt⟩)).2.2
  have low := leNat_lt data
  rw [hd] at low
  refine ⟨hr, ?_⟩
  unfold encodeWord
  generalize rsRem (g :: dataSyms data) = r at hr
  obtain ⟨r2, r1, r0⟩ := r
  obtain ⟨h2, h1, h0⟩ : r2 < 256 ∧ r1 < 256 ∧ r0 < 256 := hr
  exact (BitVec.toNat_ofNat _ _).trans (Nat.mod_eq_of_lt (by omega))

theorem leBytes_encodeWord {g : Nat} {data : List Byte} (hg : g < 256) (hd : data.length = 32) :
    leBytes 32 (encodeWord g data).toNat = data := by
  have h := leBytes_leNat_add data
    ((rsRem (g :: dataSyms data)).2.2 + 256 * (rsRem (g :: dataSyms data)).2.1 + 65536 * (rsRem (g :: dataSyms data)).1)
  rw [hd] at h
  rw [(encodeWord_toNat hg hd).2]
  exact h

/-- The check symbols are read where they were written, the lowest first. -/
theorem leBytes_check_encodeWord {g : Nat} {data : List Byte} (hg : g < 256) (hd : data.length = 32) :
    (leBytes 3 ((encodeWord g data).toNat / 2 ^ 256)).map (·.toNat) =
      [(rsRem (g :: dataSyms data)).2.2, (rsRem (g :: dataSyms data)).2.1, (rsRem (g :: dataSyms data)).1] := by
  obtain ⟨⟨h2, h1, h0⟩, hw⟩ := encodeWord_toNat hg hd
  have low := leNat_lt data
  rw [hd] at low
  rw [hw, Nat.add_mul_div_right _ _ (by decide), Nat.div_eq_of_lt (b := 2 ^ 256) low, zero_add]
  simp only [leBytes, List.map_cons, List.map_nil, BitVec.toNat_ofNat, List.cons.injEq, and_true]
  omega

theorem syndrome_encodeWord {g k : Nat} {data : List Byte} (hk : k < 3) (hg : g < 256) :
    syndrome g k ([(rsRem (g :: dataSyms data)).2.2, (rsRem (g :: dataSyms data)).2.1, (rsRem (g :: dataSyms data)).1] ++
      data.map (·.toNat)) = 0 := by
  have h := horner_codeword (isRoot_gfPow hk) (syms := g :: dataSyms data) (List.forall_mem_cons.2 ⟨hg, dataSyms_lt⟩)
  rw [syndrome_eq, List.reverse_append]
  exact h

/-- Settles O23: all three syndromes of a stored word are zero under its own tag, so its data stands as it was. -/
theorem towerWordRoundTrip : Obligations.TowerWordRoundTrip := by
  unfold Obligations.TowerWordRoundTrip
  intro g data hg hd
  have hg : g < 256 := by omega
  simp only [decodeWord, leBytes_encodeWord hg hd, leBytes_check_encodeWord hg hd, syndrome_encodeWord (k := 0) (by decide) hg,
    syndrome_encodeWord (k := 1) (by decide) hg, syndrome_encodeWord (k := 2) (by decide) hg, beq_self_eq_true, Bool.and_self, if_true]

end Sys2Proof.Machine
end

section
/-!
PROOFS. Page map entries (R154) and stored words (R163 to R165): what the fields of an entry read after one of them was set, and what a
stored word's block, bitmap and page entry hold.
-/
namespace Sys2Proof.Machine

/-! ## Fields of a page map entry -/

/-- Bits `hi:lo` of an entry, as a field of a word. -/
def entryField (hi lo : Nat) : Fld := { off := 0, lo := lo, w := hi + 1 - lo, acc := .rw, reset := 0, cnt := 1, stride := 0 }

theorem bits_meSet_self (e : MapEntry) {hi lo : Nat} (v : Nat) (hl : lo ≤ hi) (hh : hi < 64) :
    bits (meSet e hi lo v).toNat hi lo = v % 2 ^ (hi + 1 - lo) :=
  fieldOf_withField e (entryField hi lo) v (by simp only [entryField]; omega)

theorem bits_meSet_off (e : MapEntry) {hi lo hi' lo' : Nat} (v : Nat) (hl : lo ≤ hi) (hh : hi < 64) (hd : hi < lo' ∨ hi' < lo) (hl' : lo' ≤ hi') :
    bits (meSet e hi lo v).toNat hi' lo' = bits e.toNat hi' lo' :=
  fieldOf_withField_off e (entryField hi lo) (entryField hi' lo') v (by simp only [entryField]; omega)
    (by simp only [entryField]; omega)

theorem bit_eq_testBit (w i : Nat) : bit w i = w.testBit i := by
  rw [bit, Nat.testBit_eq_decide_div_mod_eq, beq_eq_decide]

/-! ## Towers -/

@[simp] theorem entry_setEntry_self (d : Dev) (t k : Nat) (e : MapEntry) : entry (setEntry d t k e) t k = e := by
  simp [entry, setEntry]

@[simp] theorem eBit_setEBit_self (d : Dev) (t f b : Nat) (v : Bool) : eBit (setEBit d t f b v) t f b = v := by
  simp [eBit, setEBit]

@[simp] theorem word_setWord_self (d : Dev) (t f w : Nat) (v : BitVec 280) : word (setWord d t f w v) t f w = v := by
  simp [word, setWord]

@[simp] theorem tower_count (d : Dev) (pg k t : Nat) (f : Fld) : tower (count d pg f k) t = tower d t := rfl

@[simp] theorem eBit_setWord (d : Dev) (t f w b g : Nat) (v : BitVec 280) : eBit (setWord d t f w v) t g b = eBit d t g b := by
  simp [eBit, setWord]

@[simp] theorem eBit_count (d : Dev) (pg k t g b : Nat) (f : Fld) : eBit (count d pg f k) t g b = eBit d t g b := rfl

@[simp] theorem eBit_setEntry (d : Dev) (t k g b : Nat) (e : MapEntry) : eBit (setEntry d t k e) t g b = eBit d t g b := by
  simp [eBit, setEntry]

@[simp] theorem word_setEntry (d : Dev) (t k g w : Nat) (e : MapEntry) : word (setEntry d t k e) t g w = word d t g w := by
  simp [word, setEntry]

/-! ## A word in a page -/

/-- The entry of a page in which a word was stored: VALID from FRESH, and the word's sixteenth of the page written (R163, R177). -/
def writtenEntry (e : MapEntry) (w : Nat) : MapEntry :=
  let v := meSet e 63 62 (if meState e == meFresh then meValid else meState e)
  meSet v 31 16 (Nat.lor (meWritten v) (2 ^ (w / 4096)))

theorem meGen_writtenEntry (e : MapEntry) (w : Nat) : meGen (writtenEntry e w) = meGen e := by
  simp only [meGen, writtenEntry]
  rw [bits_meSet_off _ _ (by decide) (by decide) (by decide) (by decide), bits_meSet_off _ _ (by decide) (by decide) (by decide) (by decide)]

theorem meFrame_writtenEntry (e : MapEntry) (w : Nat) : meFrame (writtenEntry e w) = meFrame e := by
  simp only [meFrame, writtenEntry]
  rw [bits_meSet_off _ _ (by decide) (by decide) (by decide) (by decide), bits_meSet_off _ _ (by decide) (by decide) (by decide) (by decide)]

theorem bit_meWritten_writtenEntry (e : MapEntry) {w : Nat} (hw : w < 65536) : bit (meWritten (writtenEntry e w)) (w / 4096) = true := by
  have hi : w / 4096 < 16 := by omega
  have here (n : Nat) : (Nat.lor n (2 ^ (w / 4096))).testBit (w / 4096) = true := by
    show (n ||| 2 ^ (w / 4096)).testBit (w / 4096) = true
    rw [Nat.testBit_or, Nat.testBit_two_pow_self, Bool.or_true]
  rw [meWritten, writtenEntry, bits_meSet_self _ _ (by decide) (by decide), bit_eq_testBit, Nat.testBit_mod_two_pow, here]
  simp [hi]

theorem entry_storeWord (d : Dev) (t k w : Nat) (data : List Byte) :
    entry (storeWord d t k w data) t k = writtenEntry (entry d t k) w := by
  simp only [storeWord, entry_setEntry_self]
  rfl

theorem eBit_storeWord (d : Dev) (t k w : Nat) (data : List Byte) :
    eBit (storeWord d t k w data) t (meFrame (entry d t k)) (w / 64) = true := by
  simp only [storeWord, eBit_setEntry, eBit_setWord]
  split
  · next h => exact h
  · rw [eBit_count, eBit_setEBit_self]

theorem word_storeWord (d : Dev) (t k w : Nat) (data : List Byte) :
    word (storeWord d t k w data) t (meFrame (entry d t k)) w = encodeWord (meGen (entry d t k)) data := by
  simp only [storeWord, word_setEntry, word_setWord_self]

theorem meGen_lt (e : MapEntry) : meGen e < 16 := Nat.mod_lt _ (by decide)

/-- Settles O24: the word's block has its E bit and the page its written bit, the frame and the generation stand, and the word there
decodes to its data. -/
theorem towerReadAfterWrite : Obligations.TowerReadAfterWrite := by
  unfold Obligations.TowerReadAfterWrite
  rintro d d' t k w data hd hw - rfl
  simp only [lookWord, entry_storeWord, meFrame_writtenEntry, meGen_writtenEntry, eBit_storeWord, word_storeWord,
    bit_meWritten_writtenEntry _ hw, towerWordRoundTrip _ data (meGen_lt _) hd, Bool.not_true, Bool.or_self, Bool.false_eq_true, if_false]

end Sys2Proof.Machine
end

section
/-!
PROOFS. Issue of a step of a core program (chapter 4, R95): what the step at the head of issue does by its class, and what the pump of a core
has to do while nothing stands in its queue.
-/
namespace Sys2Proof.Machine

/-! ## Updates that stand beside each other -/

section
variable (d : Dev) (n : Nat) (c : Core)

@[simp] theorem kind_setCore : (setCore d n c).kind = d.kind := rfl
@[simp] theorem core_count (pg k : Nat) (f : Fld) : core (count d pg f k) n = core d n := rfl
@[simp] theorem core_act (u k m : Nat) : core (act d u k m) n = core d n := by rw [core, act_cores]; rfl
@[simp] theorem core_event (e : UnitEv) : core (event d e) n = core d n := rfl
@[simp] theorem core_setPort (r p : Nat) (x : Port) : core (setPort d r p x) n = core d n := rfl
@[simp] theorem core_setRing (w k : Nat) (x : Ring) : core (setRing d w k x) n = core d n := rfl
@[simp] theorem core_issuing (m : Nat) : core (issuing d m) n = core d n := core_act _ _ _ _ _
@[simp] theorem kind_issuing (m : Nat) : (issuing d m).kind = d.kind := act_kind _ _ _ _
@[simp] theorem port_setCore (r p : Nat) : port (setCore d n c) r p = port d r p := rfl
@[simp] theorem port_count (pg k r p : Nat) (f : Fld) : port (count d pg f k) r p = port d r p := rfl
@[simp] theorem port_act (u k m r p : Nat) : port (act d u k m) r p = port d r p := by rw [port, act_ports]; rfl
@[simp] theorem port_issuing (m r p : Nat) : port (issuing d m) r p = port d r p := port_act _ _ _ _ _ _
@[simp] theorem stationOf_setCore (m : Nat) : stationOf (setCore d n c) m = stationOf d m := rfl

theorem setCore_count (pg k : Nat) (f : Fld) : setCore (count d pg f k) n c = count (setCore d n c) pg f k := rfl
theorem setCore_setPort (r p : Nat) (x : Port) : setCore (setPort d r p x) n c = setPort (setCore d n c) r p x := rfl
theorem setCore_event (e : UnitEv) : setCore (event d e) n c = event (setCore d n c) e := rfl

/-- A message's words wait on rings alone. -/
theorem carry_setCore (src dst typ : Nat) : carry (setCore d n c) src dst typ = setCore (carry d src dst typ) n c := by
  unfold carry
  exact List.foldl_hom (fun d => setCore d n c) (fun _ _ => rfl)

theorem wSend_setCore (src dst typ who lnk cnt : Nat) :
    wSend (setCore d n c) src dst typ who lnk cnt = setCore (wSend d src dst typ who lnk cnt) n c :=
  carry_setCore { d with wseq := mput 0 d.wseq (16384 * src + dst) ((mget 0 d.wseq (16384 * src + dst) + 1) % 4096),
                         wmsgs := d.wmsgs ++ [⟨src, dst, typ, mget 0 d.wseq (16384 * src + dst), who, lnk, cnt, false, 0⟩] } n c src dst typ

end

/-- The last write of a core stands through what other units took meanwhile. -/
theorem carry_core (d : Dev) (m src dst typ : Nat) : core (carry d src dst typ) m = core d m := by
  unfold carry
  generalize ringPath src dst = path
  induction path generalizing d with
  | nil => rfl
  | cons h r ih => exact ih _

@[simp] theorem core_wSend (d : Dev) (m src dst typ who lnk cnt : Nat) : core (wSend d src dst typ who lnk cnt) m = core d m :=
  carry_core _ m src dst typ

/-! ## The command of a step -/

/-- A command of `stepRow` is the issue of the class and operation that the row names. -/
theorem exec_stepRow {i : Instr} {cls op : Nat} {n : CoreId} (s : State) (h : stepRow i = some (cls, op, n)) :
    exec i s = live s (issue (isOp cls op) n) := by
  cases i <;> simp only [stepRow, Option.some.injEq, Prod.mk.injEq, reduceCtorEq] at h <;> obtain ⟨rfl, rfl, rfl⟩ := h <;> rfl

theorem wCls_wOp_of_isOp {cls op w : Nat} (h : isOp cls op w = true) : wCls w = cls ∧ wOp w = op := by
  simpa [isOp] using h

theorem isOp_of {cls op w : Nat} (hc : wCls w = cls) (ho : wOp w = op) : isOp cls op w = true := by
  simp [isOp, hc, ho]

/-- A core issues in RUN or WAIT, while no heel is asked for. -/
theorem heelReq_of_headOf {c : Core} {w : BitVec 128} (h : headOf c = some w) : c.heelReq = false := by
  unfold headOf at h
  split at h
  · next hc =>
    simp only [Bool.and_eq_true, Bool.not_eq_true'] at hc
    exact hc.1.2
  · cases h

/-- A command that names the step at the head of issue lets it meet issue, and then the engines go on. -/
theorem exec_step {s : State} {i : Instr} {cls op : Nat} {n : CoreId} {w : BitVec 128} (hi : stepRow i = some (cls, op, n))
    (hr : s.dev.boot.reset = false) (hh : headOf (core s.dev n) = some w) (hw : isOp cls op w.toNat = true) :
    exec i s = .next (s.after (pump (runPast (issueHead s.dev n w) n) n)) := by
  rw [exec_stepRow s hi, live_next s _ hr, issue_of_head hh hw]

/-! ## A step that issues -/

/-- Where a step issues, the head of issue moves on, and what follows is decided by the step's class. -/
theorem issueHead_of_issues {d : Dev} {n : Nat} {w : BitVec 128} (h : Issues d n w) : issueHead d n w =
    if wCls w.toNat == clsCtrl then
      if wOp w.toNat == 7 then endProgram (setCore (issuing d n) n { nextHead (core d n) with pc := (core d n).pc }) n (core d n).pc
      else if wOp w.toNat == 1 || wOp w.toNat == 2 then
        setCore (issuing d n) n (ctrlEffect { nextHead (core d n) with loops := (core d n).loops } (core d n).pc w.toNat)
      else
        setCore (if wOp w.toNat == 3 then count (issuing d n) (PWR.page.pg 0) PWR.PHASE_MARKS 1 else issuing d n) n
          (ctrlEffect (nextHead (core d n)) (core d n).pc w.toNat)
    else if wCls w.toNat == clsSync && wOp w.toNat == 3 then setCore (issuing d n) n (nextHead (core d n))
    else queued d n w := by
  obtain ⟨hcond, htrue⟩ := h.cond
  have used : (usedBits (wCls w.toNat) (wOp w.toNat)).isNone = false := by
    rw [Option.isNone_eq_false_iff]; exact h.used
  unfold issueHead
  dsimp only
  rw [if_neg (by rw [h.good]; exact Bool.false_ne_true), if_neg (by rw [used]; exact Bool.false_ne_true),
    if_neg (by simpa using hcond), if_neg (by simp [htrue]), if_neg (by simp [h.legal]), if_neg (by simp [h.free])]
  have loops : (core (act (count d (corePg n) CORE.STEPS_ISSUED 1) (unitCore n) 10 1) n).loops = (core d n).loops := by
    rw [core_act, core_count]
  rw [loops]
  rfl

/-- A step of any other class joins the queue of its engine. -/
theorem issueHead_queued {d : Dev} {n : Nat} {w : BitVec 128} (h : Issues d n w) (hc : wCls w.toNat ≠ clsCtrl)
    (hs : ¬ (wCls w.toNat = clsSync ∧ wOp w.toNat = 3)) : issueHead d n w = queued d n w := by
  rw [issueHead_of_issues h, if_neg (by simpa using hc), if_neg (by simpa using hs)]

theorem runPast_of_lt {d : Dev} {n : Nat} (h : (core d n).pc < (core d n).loaded) : runPast d n = d := by
  unfold runPast
  dsimp only
  rw [if_neg]
  simp only [Bool.and_eq_true, decide_eq_true_eq, not_and, not_le]
  exact fun _ => h

theorem core_queued (d : Dev) (n : Nat) (w : BitVec 128) : core (queued d n w) n =
    arrayIssue (syncIssue { nextHead (core d n) with q := (core d n).q ++ [issuedStep d n w] } w.toNat) w.toNat :=
  core_setCore_self _ _ _

section
variable (c : Core) (w : Nat)

theorem syncIssue_frame : (syncIssue c w).pc = c.pc ∧ (syncIssue c w).loaded = c.loaded ∧ (syncIssue c w).st = c.st ∧
    (syncIssue c w).heelReq = c.heelReq ∧ (syncIssue c w).q = c.q := by
  unfold syncIssue
  repeat' split
  all_goals exact ⟨rfl, rfl, rfl, rfl, rfl⟩

theorem arrayIssue_frame : (arrayIssue c w).pc = c.pc ∧ (arrayIssue c w).loaded = c.loaded ∧ (arrayIssue c w).st = c.st ∧
    (arrayIssue c w).heelReq = c.heelReq ∧ (arrayIssue c w).q = c.q := by
  unfold arrayIssue
  repeat' split
  all_goals exact ⟨rfl, rfl, rfl, rfl, rfl⟩

end

/-- What the queue took leaves where the core stands, and that it runs. -/
theorem queued_frame (d : Dev) (n : Nat) (w : BitVec 128) : (core (queued d n w) n).pc = (nextHead (core d n)).pc ∧
    (core (queued d n w) n).loaded = (core d n).loaded ∧ (core (queued d n w) n).st = .run ∧
    (core (queued d n w) n).heelReq = (core d n).heelReq ∧ (core (queued d n w) n).q = (core d n).q ++ [issuedStep d n w] := by
  rw [core_queued]
  obtain ⟨a1, a2, a3, a4, a5⟩ := arrayIssue_frame (syncIssue { nextHead (core d n) with q := (core d n).q ++ [issuedStep d n w] } w.toNat) w.toNat
  obtain ⟨s1, s2, s3, s4, s5⟩ := syncIssue_frame { nextHead (core d n) with q := (core d n).q ++ [issuedStep d n w] } w.toNat
  exact ⟨a1.trans s1, a2.trans s2, a3.trans s3, a4.trans s4, a5.trans s5⟩

/-- A step that joins its queue, in a program that goes on, lets the engines go on. -/
theorem exec_queued {s : State} {i : Instr} {cls op : Nat} {n : CoreId} {w : BitVec 128} (hi : stepRow i = some (cls, op, n))
    (hc : cls ≠ clsCtrl) (hs : ¬ (cls = clsSync ∧ op = 3)) (hr : s.dev.boot.reset = false) (h : Issues s.dev n w)
    (hw : isOp cls op w.toNat = true) (hp : (nextHead (core s.dev n)).pc < (core s.dev n).loaded) :
    exec i s = .next (s.after (pump (queued s.dev n w) n)) := by
  obtain ⟨rfl, rfl⟩ := wCls_wOp_of_isOp hw
  obtain ⟨hpc, hl, -⟩ := queued_frame s.dev n w
  rw [exec_step hi hr h.head hw, issueHead_queued h hc hs, runPast_of_lt (by rwa [hpc, hl])]

/-- Settles O5: the step passes every gate of issue, and joins the queue. -/
theorem engineStepIssues : Obligations.EngineStepIssues := by
  unfold Obligations.EngineStepIssues
  exact fun s i cls op n w hi hc hs hr h hw hp => exec_queued hi hc hs hr h hw hp

/-! ## The pump of a core with nothing in its queue -/

theorem oldestWait_of_empty {d : Dev} {n : Nat} (hq : (core d n).q = []) : oldestWait d n = 0 := by
  simp [oldestWait, hq]

theorem heelIn_of_no_request {d : Dev} {n : Nat} (h : (core d n).heelReq = false) : heelIn d n = d := by
  simp [heelIn, h]

/-- A core that runs with nothing queued shows that it waits for nothing. -/
theorem showWait_of_empty {d : Dev} {n : Nat} (hst : (core d n).st = .run) (hq : (core d n).q = []) :
    showWait d n = setCore d n { core d n with wait := 0 } := by
  simp [showWait, hst, oldestWait_of_empty hq]

theorem pump_of_running_empty {d : Dev} {n : Nat} (hst : (core d n).st = .run) (hh : (core d n).heelReq = false) (hq : (core d n).q = []) :
    pump d n = setCore d n { core d n with wait := 0 } := by
  unfold pump
  dsimp only
  rw [pumpGo_of_empty hq, heelIn_of_no_request hh, showWait_of_empty hst hq]

/-- A running core without steps in its queue, and whose next step is loaded, shows no wait and goes no further. -/
structure Ready (c : Core) : Prop where
  run : c.st = .run
  noWait : c.wait = 0
  noHeel : c.heelReq = false
  empty : c.q = []
  loaded : c.pc < c.loaded

theorem Ready.waitless {c : Core} (h : Ready c) : { c with wait := 0 } = c := by
  obtain ⟨-, hw, -, -, -⟩ := h
  rw [← hw]

theorem pump_runPast_of_ready {d : Dev} {n : Nat} {c : Core} (h : Ready c) : pump (runPast (setCore d n c) n) n = setCore d n c := by
  have hc := core_setCore_self d n c
  rw [runPast_of_lt (by rw [hc]; exact h.loaded),
    pump_of_running_empty (by rw [hc]; exact h.run) (by rw [hc]; exact h.noHeel) (by rw [hc]; exact h.empty), hc, h.waitless, setCore_setCore]

/-- The core past a step that its queue did not take. -/
theorem ready_nextHead {c : Core} (hh : c.heelReq = false) (hq : c.q = []) (hp : (nextHead c).pc < c.loaded) : Ready (nextHead c) :=
  ⟨rfl, rfl, hh, hq, hp⟩

/-! ## A step whose condition is false -/

theorem issueHead_of_false {d : Dev} {n : Nat} {w : BitVec 128} (hb : (core d n).badStep.contains (core d n).pc = false)
    (hu : (usedBits (wCls w.toNat) (wOp w.toNat)).isSome = true) (hc : wCond w.toNat ≠ 15)
    (hf : condTrue (core d n) (wCond w.toNat) = false) :
    issueHead d n w = count (setCore d n (nextHead (core d n))) (corePg n) CORE.STEPS_SKIPPED 1 := by
  have used : (usedBits (wCls w.toNat) (wOp w.toNat)).isNone = false := by rw [Option.isNone_eq_false_iff]; exact hu
  unfold issueHead
  dsimp only
  rw [if_neg (by rw [hb]; exact Bool.false_ne_true), if_neg (by rw [used]; exact Bool.false_ne_true), if_neg (by simpa using hc),
    if_pos (by rw [hf]; rfl)]
  rfl

/-- Settles O9: issue counts the step and moves the head; with nothing queued, nothing else happens. -/
theorem falseConditionSkips : Obligations.FalseConditionSkips := by
  unfold Obligations.FalseConditionSkips
  intro s i cls op n w hi hr hh hw hb hu hc hf hq hp
  obtain ⟨rfl, rfl⟩ := wCls_wOp_of_isOp hw
  have ready := ready_nextHead (heelReq_of_headOf hh) hq hp
  rw [exec_step hi hr hh hw, issueHead_of_false hb hu hc hf, ← setCore_count, pump_runPast_of_ready ready]

/-! ## STEP_COMPLETE -/

/-- Settles O11: the search for a step that may complete finds the first, and its leash, if it gives one, is given before it leaves. -/
theorem stepCompletes : Obligations.StepCompletes := by
  unfold Obligations.StepCompletes
  intro s n e i q hr hf hq
  have run : exec (.stepComplete n e) s = live s (stepDone n e) := rfl
  rw [run, live_next s _ hr, stepDone]
  simp only [hf, hq, Bool.and_eq_true, beq_iff_eq]

end Sys2Proof.Machine
end

section
/-!
PROOFS. CTRL steps and SYNC steps on a core with nothing in its queues (chapter 4, R115 to R120): each acts at issue, or as the only step of
its queue, and leaves the core ready for its next step.
-/
namespace Sys2Proof.Machine

/-! ## CTRL steps -/

/-- Where a CTRL step leaves the core ready, the command ends with what the step did at issue. -/
theorem exec_ctrl_ready {s : State} {i : Instr} {op : Nat} {n : CoreId} {w : BitVec 128} {d : Dev} {c : Core}
    (hi : stepRow i = some (clsCtrl, op, n)) (hr : s.dev.boot.reset = false) (h : Issues s.dev n w) (hc : wCls w.toNat = clsCtrl)
    (ho : wOp w.toNat = op) (hd : issueHead s.dev n w = setCore d n c) (ready : Ready c) : exec i s = .next (s.after (setCore d n c)) := by
  rw [exec_step hi hr h.head (isOp_of hc ho), hd, pump_runPast_of_ready ready]

section
variable {d : Dev} {n : Nat} {w : BitVec 128} (h : Issues d n w) (hc : wCls w.toNat = clsCtrl)
include h hc

/-- A CTRL step that is neither LOOP, BRANCH nor END works on the core with its head moved on. -/
theorem issueHead_ctrl (h1 : wOp w.toNat ≠ 1) (h2 : wOp w.toNat ≠ 2) (h7 : wOp w.toNat ≠ 7) :
    issueHead d n w = setCore (if wOp w.toNat == 3 then count (issuing d n) (PWR.page.pg 0) PWR.PHASE_MARKS 1 else issuing d n) n
      (ctrlEffect (nextHead (core d n)) (core d n).pc w.toNat) := by
  rw [issueHead_of_issues h, if_pos (by simpa using hc), if_neg (by simpa using h7), if_neg (by simp [h1, h2])]

/-- LOOP and BRANCH set the head of issue themselves, the loops as they stand. -/
theorem issueHead_jump (hj : wOp w.toNat = 1 ∨ wOp w.toNat = 2) : issueHead d n w =
    setCore (issuing d n) n (ctrlEffect { nextHead (core d n) with loops := (core d n).loops } (core d n).pc w.toNat) := by
  rw [issueHead_of_issues h, if_pos (by simpa using hc), if_neg (by rcases hj with hj | hj <;> simp [hj]), if_pos (by simpa using hj)]

/-- END of a settled core that holds no token and has no drained row completes its item (R120). -/
theorem issueHead_end {item : Nat} (h7 : wOp w.toNat = 7) (held : (core d n).holders.any (fun x => x.2.isSome) = false)
    (rows : (core d n).drained = []) (hi : (core d n).item = some item) : issueHead d n w =
      event (setCore (issuing d n) n { core d n with st := .heel, wait := 0, item := none, loops := [] }) (.done item n) := by
  rw [issueHead_of_issues h, if_pos (by simpa using hc), if_pos (by simpa using h7)]
  unfold endProgram
  simp only [core_setCore_self, setCore_setCore, nextHead, held, rows, hi, List.isEmpty_nil, Bool.not_true, Bool.or_self, Bool.false_eq_true,
    if_false]

end

/-- A core that has come to heel with nothing queued stays as it is. -/
theorem pump_runPast_of_heel {d : Dev} {n : Nat} (hst : (core d n).st = .heel) (hh : (core d n).heelReq = false) (hq : (core d n).q = []) :
    pump (runPast d n) n = d := by
  have past : runPast d n = d := by simp [runPast, hst]
  have show_ : showWait d n = d := by simp [showWait, hst]
  rw [past]
  unfold pump
  dsimp only
  rw [pumpGo_of_empty hq, heelIn_of_no_request hh, show_]

/-- Settles O7: each operation of class CTRL by what it does to the core at issue, after which the core is ready, or, after END, in heel. -/
theorem ctrlStepActs : Obligations.CtrlStepActs := by
  unfold Obligations.CtrlStepActs
  refine ⟨fun s n w hr h hq hc => ?_, fun s n w item hr h hq hc h7 held rows hi => ?_⟩
  · have hh := heelReq_of_headOf h.head
    refine ⟨fun ho hp => ?_, fun ho hp => ?_, fun ho hp => ?_, fun ho hp => ?_, fun ho hp => ?_, fun ho hp => ?_, fun ho hp => ?_⟩
    · exact exec_ctrl_ready rfl hr h hc ho (by simp [issueHead_ctrl h hc, ho, ctrlEffect]) ⟨rfl, rfl, hh, hq, hp⟩
    · exact exec_ctrl_ready rfl hr h hc ho (by simp [issueHead_ctrl h hc, ho, ctrlEffect]) ⟨rfl, rfl, hh, hq, hp⟩
    · exact exec_ctrl_ready rfl hr h hc ho (by simp [issueHead_ctrl h hc, ho, ctrlEffect]) ⟨rfl, rfl, hh, hq, hp⟩
    · exact exec_ctrl_ready rfl hr h hc ho (by simp [issueHead_ctrl h hc, ho, ctrlEffect]) ⟨rfl, rfl, hh, hq, hp⟩
    · exact exec_ctrl_ready rfl hr h hc ho (by simp [issueHead_ctrl h hc, ho, ctrlEffect]) ⟨rfl, rfl, hh, hq, hp⟩
    · exact exec_ctrl_ready rfl hr h hc ho (by rw [issueHead_jump h hc (.inl ho)]; simp [ho, ctrlEffect]) ⟨rfl, rfl, hh, hq, hp⟩
    · exact exec_ctrl_ready rfl hr h hc ho (by rw [issueHead_jump h hc (.inr ho)]; simp [ho, ctrlEffect]) ⟨rfl, rfl, hh, hq, hp⟩
  · have hh := heelReq_of_headOf h.head
    have left := core_setCore_self (issuing s.dev n) n { core s.dev n with st := .heel, wait := 0, item := none, loops := [] }
    rw [exec_step rfl hr h.head (isOp_of hc h7), issueHead_end h hc h7 held rows hi,
      pump_runPast_of_heel (by rw [core_event, left]) (by rw [core_event, left]; exact hh)
        (by rw [core_event, left]; exact hq)]

/-! ## SYNC steps -/

/-- The engines take the only step of a queue; if it leaves the queue with that, they have nothing more to do. -/
theorem pumpGo_of_single {d e : Dev} {n k : Nat} {q : QStep} (hq : (core d n).q = [q]) (hp : proceed d n 0 q = some e)
    (he : (core e n).q = []) : pumpGo n (k + 1) d = e := by
  have first : proceedFirst d n (numbered (core d n).q) = some e := by
    rw [hq]
    show (match proceed d n 0 q with | some d => some d | none => none) = some e
    rw [hp]
  simp only [pumpGo, first]
  exact pumpGo_of_empty he k

/-- A core whose only step leaves its queue at once has run past it. -/
theorem pump_of_single {d e : Dev} {n : Nat} {c : Core} {q : QStep} (hq : (core d n).q = [q]) (hp : proceed d n 0 q = some e)
    (hc : core e n = c) (ready : Ready c) : pump d n = setCore e n c := by
  obtain ⟨k, fuel⟩ : ∃ k, ((core d n).q.length + 1) * ((core d n).q.length + 1) * 2 + rxCount d n + 2 * linkTurns (core d n) = k + 1 :=
    Nat.exists_eq_add_one.2 (by positivity)
  unfold pump
  dsimp only
  rw [fuel, pumpGo_of_single hq hp (by rw [hc]; exact ready.empty), heelIn_of_no_request (by rw [hc]; exact ready.noHeel),
    showWait_of_empty (by rw [hc]; exact ready.run) (by rw [hc]; exact ready.empty), hc, ready.waitless]

/-- A SYNC step at the front of the queue completes as its operation says. -/
theorem proceed_sync {d : Dev} {n : Nat} {q : QStep} (hs : q.eng = .sync) (hf : q.failed = false) (hc : wCls q.word.toNat = clsSync) :
    proceed d n 0 q = syncHead d n 0 q := by
  have far : crossesTower q.word.toNat = false := by simp [crossesTower, hc, clsSync]
  simp [proceed, hs, hf, far]

section
variable {d : Dev} {n : Nat} {w : BitVec 128}

/-- A SYNC step that issues on an empty queue is the only step of the queue. -/
theorem core_queued_sync (hq : (core d n).q = []) (hc : wCls w.toNat = clsSync) :
    core (queued d n w) n = syncIssue { nextHead (core d n) with q := [issuedStep d n w] } w.toNat := by
  have other : (wCls w.toNat != clsArray) = true := by rw [hc]; rfl
  rw [core_queued, hq, List.nil_append]
  exact if_pos other

theorem setCore_queued (c : Core) : setCore (queued d n w) n c = setCore (issuing d n) n c := setCore_setCore _ _ _ _

theorem queue_of_sync (hq : (core d n).q = []) : (core (queued d n w) n).q = [issuedStep d n w] := by
  rw [(queued_frame d n w).2.2.2.2, hq, List.nil_append]

theorem proceed_queued_sync (hc : wCls w.toNat = clsSync) :
    proceed (queued d n w) n 0 (issuedStep d n w) = syncHead (queued d n w) n 0 (issuedStep d n w) := by
  have eng : engOf w.toNat = .sync := by simp [engOf, hc, clsSync]
  exact proceed_sync eng rfl hc

/-- TAKE with its token parked (R115). -/
theorem syncHead_take {t : Token} (hq : (core d n).q = []) (hc : wCls w.toNat = clsSync) (ho : wOp w.toNat = 0)
    (ht : mget none (core d n).parked (yList w.toNat) = some t) : syncHead (queued d n w) n 0 (issuedStep d n w) =
      some (setPort (setCore (issuing d n) n { nextHead (core d n) with
          holders := mput none (core d n).holders (yHolder w.toNat) (some (yList w.toNat)),
          parked := mput none (core d n).parked (yList w.toNat) none, toks := mput none (core d n).toks (yHolder w.toNat) (some t) })
        (coreRegion n) (yList w.toNat) { port d (coreRegion n) (yList w.toNat) with place := .held, stalled := false }) := by
  simp [syncHead, issuedStep, core_queued_sync hq hc, syncIssue, hc, ho, nextHead, ht, hq, qdel, setCore_setPort,
    setCore_queued]

/-- RELEASE of a held token (R132). -/
theorem syncHead_release {t : Token} (hq : (core d n).q = []) (hc : wCls w.toNat = clsSync) (ho : wOp w.toNat = 1)
    (ht : mget none (core d n).toks (yHolder w.toNat) = some t) : syncHead (queued d n w) n 0 (issuedStep d n w) =
      some (setPort (setCore (issuing d n) n { nextHead (core d n) with
          holders := mput none (core d n).holders (yHolder w.toNat) none,
          toks := mput none (core d n).toks (yHolder w.toNat) none })
        (coreRegion n) t.port { port d (coreRegion n) t.port with
          place := .releasing, msgs := (port d (coreRegion n) t.port).msgs ++ [⟨1, t.turn, coreUser n, 0, false⟩] }) := by
  simp [syncHead, issuedStep, core_queued_sync hq hc, syncIssue, hc, ho, nextHead, ht, hq, qdel, setCore_setPort,
    setCore_queued, releaseToken]

/-- GIVE with enough leashes held: they leave, and the step with them (R116). -/
theorem syncHead_give (hq : (core d n).q = []) (hc : wCls w.toNat = clsSync) (ho : wOp w.toNat = 2)
    (hk : yCount w.toNat ≤ (mget SyncLink.none (core d n).sync (yLink w.toNat)).held) :
    syncHead (queued d n w) n 0 (issuedStep d n w) =
      some (sendLeash (setCore (issuing d n) n (nextHead (core d n))) n (yLink w.toNat) (yCount w.toNat)) := by
  simp [syncHead, issuedStep, core_queued_sync hq hc, syncIssue, hc, ho, nextHead, hk, hq, qdel, setCore_queued, sendLeash, wSend_setCore]

end

/-- A SYNC step but WAIT, on an empty queue: the command ends with what the step did as it completed. -/
theorem exec_sync_ready {s : State} {i : Instr} {op : Nat} {n : CoreId} {w : BitVec 128} {e : Dev} {c : Core}
    (hi : stepRow i = some (clsSync, op, n)) (h3 : op ≠ 3) (hr : s.dev.boot.reset = false) (h : Issues s.dev n w)
    (hq : (core s.dev n).q = []) (hc : wCls w.toNat = clsSync) (ho : wOp w.toNat = op)
    (hp : (nextHead (core s.dev n)).pc < (core s.dev n).loaded)
    (hd : syncHead (queued s.dev n w) n 0 (issuedStep s.dev n w) = some e) (hce : core e n = c) (ready : Ready c)
    (stands : setCore e n c = e) : exec i s = .next (s.after e) := by
  rw [exec_queued hi (by decide) (by simp [h3]) hr h (isOp_of hc ho) hp,
    pump_of_single (queue_of_sync hq) ((proceed_queued_sync hc).trans hd) hce ready, stands]

/-- Settles O8: TAKE, RELEASE and GIVE complete as the only step of the queue, WAIT at issue. -/
theorem syncStepActs : Obligations.SyncStepActs := by
  unfold Obligations.SyncStepActs
  intro s n w hr h hq hc hp
  have hh := heelReq_of_headOf h.head
  refine ⟨fun t ho ht => ?_, fun t ho ht => ?_, fun ho hk => ?_, fun ho => ?_⟩
  · have hd := syncHead_take hq hc ho ht
    exact exec_sync_ready rfl (by decide) hr h hq hc ho hp hd ((core_setPort _ _ _ _ _).trans (core_setCore_self _ _ _))
      ⟨rfl, rfl, hh, hq, hp⟩ (by rw [setCore_setPort, setCore_setCore])
  · have hd := syncHead_release hq hc ho ht
    exact exec_sync_ready rfl (by decide) hr h hq hc ho hp hd ((core_setPort _ _ _ _ _).trans (core_setCore_self _ _ _))
      ⟨rfl, rfl, hh, hq, hp⟩ (by rw [setCore_setPort, setCore_setCore])
  · have hd := syncHead_give hq hc ho hk
    exact exec_sync_ready rfl (by decide) hr h hq hc ho hp hd ((core_wSend _ _ _ _ _ _ _ _).trans (core_setCore_self _ _ _))
      (by rw [core_setCore_self]; exact ⟨rfl, rfl, hh, hq, hp⟩) (by simp only [sendLeash, wSend_setCore, setCore_setCore])
  · have hd : issueHead s.dev n w = setCore (issuing s.dev n) n (nextHead (core s.dev n)) := by
      rw [issueHead_of_issues h, if_neg (by rw [hc]; decide), if_pos (by rw [hc, ho]; rfl)]
    rw [exec_step rfl hr h.head (isOp_of hc ho), hd, pump_runPast_of_ready (ready_nextHead hh hq hp)]

end Sys2Proof.Machine
end

section
/-!
PROOFS. Bytes of a memory: what a read finds where bytes were written, and the rows of 32 lanes that VEC steps read and write.
-/
namespace Sys2Proof.Machine

@[simp] theorem length_readBytes (m : Mem) (a n : Nat) : (readBytes m a n).length = n := by simp [readBytes]

theorem getD_readBytes (m : Mem) (a : Nat) {n i : Nat} (h : i < n) : (readBytes m a n).getD i 0 = byteAt m (a + i) := by
  simp [readBytes, List.getD, h]

/-- A read inside what was just written finds those bytes. -/
theorem readBytes_writeBytes (m : Mem) (a : Nat) {i n : Nat} {bs : List Byte} (h : i + n ≤ bs.length) :
    readBytes (writeBytes m a bs) (a + i) n = (bs.drop i).take n := by
  have hl : ((bs.drop i).take n).length = n := by simp; omega
  apply List.ext_getElem (by rw [length_readBytes, hl])
  intro j hj _
  rw [length_readBytes] at hj
  have inside : a ≤ a + i + j ∧ a + i + j < a + bs.length := by omega
  have place : a + i + j - a = i + j := by omega
  simp only [readBytes, List.getElem_map, List.getElem_range, byteAt_writeBytes, if_pos inside, place, List.getElem_take, List.getElem_drop]
  exact List.getElem_eq_getD (h := by omega) 0 |>.symm

/-- Blocks of one length stand one after another. -/
theorem drop_take_flatten_map {α : Type} (f : α → List Byte) (n : Nat) (hf : ∀ x, (f x).length = n) :
    ∀ (l : List α) (i : Nat) (h : i < l.length), (((l.map f).flatten.drop (n * i)).take n) = f l[i] := by
  intro l
  induction l with
  | nil => intro i h; cases h
  | cons x r ih =>
    intro i h
    rw [List.map_cons, List.flatten_cons]
    cases i with
    | zero =>
      rw [Nat.mul_zero, List.drop_zero, List.take_append_of_le_length (hf x).ge, List.take_of_length_le (hf x).le]
      rfl
    | succ i =>
      have e : n * (i + 1) = (f x).length + n * i := by rw [hf]; ring
      rw [e, List.drop_length_add_append, ih i (by simpa using h)]
      rfl

theorem length_flatten_map {α : Type} (f : α → List Byte) (n : Nat) (hf : ∀ x, (f x).length = n) (l : List α) :
    (l.map f).flatten.length = n * l.length := by
  induction l with
  | nil => rfl
  | cons x r ih => rw [List.map_cons, List.flatten_cons, List.length_append, ih, hf, List.length_cons]; ring

theorem length_bytesOfRow (r : Row) : (bytesOfRow r).length = 4 * r.length := length_flatten_map _ 4 (fun _ => length_leBytes _ _) r

/-- A lane of a row written to memory reads as the lane's value. -/
theorem readLe_writeBytes_bytesOfRow (m : Mem) (a : Nat) {r : Row} {l : Nat} (h : l < r.length) :
    readLe (writeBytes m a (bytesOfRow r)) (a + 4 * l) 4 = (lane r l).toNat := by
  have block := drop_take_flatten_map (fun v : BitVec 32 => leBytes 4 v.toNat) 4 (fun _ => length_leBytes _ _) r l h
  rw [readLe, readBytes_writeBytes m a (by rw [length_bytesOfRow]; omega), bytesOfRow, block, leNat_leBytes, lane,
    List.getD_eq_getElem _ _ h]
  exact Nat.mod_eq_of_lt r[l].isLt

end Sys2Proof.Machine
end

section
/-!
PROOFS. What steps compute (chapters 3 and 4): COPY, a row of a VEC step, and the records and clears of accumulator elements.
-/
namespace Sys2Proof.Machine

/-! ## COPY -/

/-- Writes leave no scratch word bad that was not. -/
theorem badScratch_scrPut {c : Core} (a : Nat) (bs : List Byte) (h : c.badScratch = []) : (scrPut c a bs).badScratch = [] := by
  simp [scrPut, stillBad, h]

theorem scrBad_of_good {c : Core} (a n : Nat) (h : c.badScratch = []) : scrBad c a n = false := by simp [scrBad, h]

theorem unitRead_scratch {d : Dev} {n idx a : Nat} (h : (core d n).badScratch = []) :
    unitRead d n idx .scratch a none = (d, some (readBytes (core d n).scratch a 64)) := by
  simp [unitRead, endCheck, endPorts, presentAll, scrBad_of_good a 64 h]

theorem unitWrite_scratch {d : Dev} {n idx b : Nat} (bs : List Byte) :
    unitWrite d n idx .scratch b none bs = (setCore d n (scrPut (core d n) b bs), true) := by
  simp [unitWrite, endCheck, endPorts, presentAll]

theorem units_succ (a b k : Nat) : units a b (k + 1) = (a, b) :: units (a + 64) (b + 64) k := by
  simp only [units, List.range_succ_eq_map, List.map_cons, List.map_map, Nat.mul_zero, Nat.add_zero]
  congr 1
  apply List.map_congr_left
  intro i _
  simp only [Function.comp, Nat.succ_eq_add_one]
  congr 1 <;> ring

/-- Bytes of a unit that one read took and one write placed. -/
theorem byteAt_unit (m : Mem) (a b x : Nat) : byteAt (writeBytes m b (readBytes m a 64)) x =
    if b ≤ x ∧ x < b + 64 then byteAt m (a + (x - b)) else byteAt m x := by
  rw [byteAt_writeBytes, length_readBytes]
  split
  · next h => rw [getD_readBytes m a (by omega)]
  · rfl

/-- The units of a COPY pass one by one; each reads what none before it has written. -/
theorem moveUnits_scratch (n idx : Nat) : ∀ (k a b : Nat) (d : Dev), (core d n).badScratch = [] → a + 64 * k ≤ b ∨ b + 64 * k ≤ a →
    (moveUnits n idx .scratch .scratch none none (units a b k) d).2 = true ∧
    ∀ x, byteAt (core (moveUnits n idx .scratch .scratch none none (units a b k) d).1 n).scratch x =
      if b ≤ x ∧ x < b + 64 * k then byteAt (core d n).scratch (a + (x - b)) else byteAt (core d n).scratch x := by
  intro k
  induction k with
  | zero =>
    intro a b d _ _
    refine ⟨rfl, fun x => ?_⟩
    rw [if_neg (by omega)]
    rfl
  | succ k ih =>
    intro a b d good apart
    have first : moveUnits n idx .scratch .scratch none none (units a b (k + 1)) d = moveUnits n idx .scratch .scratch none none
        (units (a + 64) (b + 64) k) (setCore d n (scrPut (core d n) b (readBytes (core d n).scratch a 64))) := by
      rw [units_succ]
      simp only [moveUnits, unitRead_scratch good, unitWrite_scratch]
    have kept : ∀ x, byteAt (core (setCore d n (scrPut (core d n) b (readBytes (core d n).scratch a 64))) n).scratch x =
        if b ≤ x ∧ x < b + 64 then byteAt (core d n).scratch (a + (x - b)) else byteAt (core d n).scratch x := by
      intro x
      rw [core_setCore_self]
      exact byteAt_unit _ a b x
    obtain ⟨all, rest⟩ := ih (a + 64) (b + 64) (setCore d n (scrPut (core d n) b (readBytes (core d n).scratch a 64)))
      (by rw [core_setCore_self]; exact badScratch_scrPut _ _ good) (by omega)
    rw [first]
    refine ⟨all, fun x => ?_⟩
    rw [rest, kept, kept]
    by_cases later : b + 64 ≤ x ∧ x < b + 64 + 64 * k
    · have source : a + 64 + (x - (b + 64)) = a + (x - b) := by omega
      rw [if_pos later, source, if_neg (by omega), if_pos (by omega)]
    · rw [if_neg later]
      by_cases here : b ≤ x ∧ x < b + 64
      · rw [if_pos here, if_pos (by omega)]
      · rw [if_neg here, if_neg (by omega)]

/-- Settles O12: the units of a COPY, in order, where source and destination are apart. -/
theorem copyMovesBytes : Obligations.CopyMovesBytes := by
  unfold Obligations.CopyMovesBytes
  exact fun d n idx a b k => moveUnits_scratch n idx k a b d

/-! ## A row of a VEC step -/

@[simp] theorem length_zipRow (f : BitVec 32 → BitVec 32 → BitVec 32) (a b : Row) : (zipRow f a b).length = 32 := by simp [zipRow]

theorem lane_zipRow (f : BitVec 32 → BitVec 32 → BitVec 32) (a b : Row) {l : Nat} (h : l < 32) :
    lane (zipRow f a b) l = f (lane a l) (lane b l) := by simp [zipRow, lane, List.getD, h]

/-- A lane of the result of an operation of two or three sources (R111). -/
def laneOp (op : Nat) (a b c : BitVec 32) : BitVec 32 :=
  match op with
  | 0 => fAdd a b
  | 1 => fSub a b
  | 2 => fMul a b
  | 3 => fFma a b c
  | 4 => fMin a b
  | 5 => fMax a b
  | 6 => fCmplt a b
  | _ => fCmpeq a b

theorem vecOp_laneOp {op : Nat} (hop : op ≤ 7) (a b c : Row) : (vecOp op a b c).length = 32 ∧
    ∀ l, l < 32 → lane (vecOp op a b c) l = laneOp op (lane a l) (lane b l) (lane c l) := by
  interval_cases op
  pick_goal 4 -- the fused operation alone is no `zipRow`
  · exact ⟨by simp [vecOp], fun l h => by simp [vecOp, laneOp, lane, List.getD, h]⟩
  all_goals exact ⟨length_zipRow _ _ _, fun l h => lane_zipRow _ _ _ h⟩

/-- A source in scratch of a one-row step is the row at its effective address. -/
theorem vecSrc_scratch {c₀ c : Core} {q : QStep} {f w op s : Nat} (hk : vKind w s = 0) (hop : op ≤ 7) :
    vecSrc c₀ c q f w op s 0 = rowOfBytes (readBytes c.scratch (q.ea.getD (s + 1) 0) 128) := by
  have narrow : ¬ (op == 9) = true := by rw [beq_iff_eq]; omega
  simp only [vecSrc, hk, vecLoad, if_neg narrow, Nat.zero_mul, Nat.add_zero]

/-- A one-row step of two or three sources in scratch writes one row of 128 bytes. -/
theorem vecEffect_one_row {c : Core} {q : QStep} {f : Nat} (hn : vN q.word.toNat = 1) (hop : wOp q.word.toNat ≤ 7)
    (hk : ∀ s, s < 3 → vKind q.word.toNat s = 0) : vecEffect c q f = scrPut c (q.ea.getD 0 0) (bytesOfRow
      (vecOp (wOp q.word.toNat) (rowOfBytes (readBytes c.scratch (q.ea.getD 1 0) 128))
        (rowOfBytes (readBytes c.scratch (q.ea.getD 2 0) 128)) (rowOfBytes (readBytes c.scratch (q.ea.getD 3 0) 128)))) := by
  have noSetk : ¬ (wOp q.word.toNat == 17) = true := by rw [beq_iff_eq]; omega
  have noNarrow : ¬ (wOp q.word.toNat == 8) = true := by rw [beq_iff_eq]; omega
  have rows : List.range (vN q.word.toNat) = [0] := by rw [hn]; rfl
  simp only [vecEffect, if_neg noSetk, if_neg (show ¬ wOp q.word.toNat ≥ 14 by omega), rows, vecRows, vecStore, if_neg noNarrow,
    vecSrc_scratch (hk 0 (by decide)) hop, vecSrc_scratch (hk 1 (by decide)) hop, vecSrc_scratch (hk 2 (by decide)) hop, Nat.zero_mul,
    Nat.add_zero]

/-- Settles O13: the step writes the row of its operation's lanes, and that row only. -/
theorem vecRowLanes : Obligations.VecRowLanes := by
  unfold Obligations.VecRowLanes
  intro c q f l hn hop hk hl
  dsimp only
  rw [vecEffect_one_row hn hop hk]
  generalize rowOfBytes (readBytes c.scratch (q.ea.getD 1 0) 128) = a
  generalize rowOfBytes (readBytes c.scratch (q.ea.getD 2 0) 128) = b
  generalize rowOfBytes (readBytes c.scratch (q.ea.getD 3 0) 128) = e
  obtain ⟨len, lanes⟩ := vecOp_laneOp hop a b e
  constructor
  · exact (readLe_writeBytes_bytesOfRow c.scratch _ (by rw [len]; exact hl)).trans (congrArg BitVec.toNat (lanes l hl))
  · intro x hx
    refine (byteAt_writeBytes _ _ _ _).trans (if_neg ?_)
    rw [length_bytesOfRow, len]
    exact hx

/-! ## Accumulator elements -/

/-- T, A, V and X stand in their own bits of the 96 of a record (R89). -/
theorem accRecord_eq (e : AccElem) : accRecord e = e.t.toNat + 2 ^ 64 * (e.a.toNat + 2 ^ 8 * (e.v.toNat + 2 * e.x.toNat)) := by
  obtain ⟨t, a, x, v⟩ := e
  cases x <;> cases v <;> simp [accRecord] <;> omega

theorem accOfRecord_accRecord (e : AccElem) : accOfRecord (accRecord e) = e ∧ accRecord e < 2 ^ 96 := by
  have ht := e.t.isLt
  have ha := e.a.isLt
  have hx := Bool.toNat_le e.x
  have hv := Bool.toNat_le e.v
  rw [accRecord_eq]
  have low : BitVec.ofNat 64 (e.t.toNat + 2 ^ 64 * (e.a.toNat + 2 ^ 8 * (e.v.toNat + 2 * e.x.toNat))) = e.t := by
    apply BitVec.eq_of_toNat_eq
    rw [BitVec.toNat_ofNat]
    omega
  have code : BitVec.ofNat 8 ((e.t.toNat + 2 ^ 64 * (e.a.toNat + 2 ^ 8 * (e.v.toNat + 2 * e.x.toNat))) / 2 ^ 64) = e.a := by
    apply BitVec.eq_of_toNat_eq
    rw [BitVec.toNat_ofNat]
    omega
  have flag (b : Bool) (k : Nat) (h : k = b.toNat) : (k == 1) = b := by subst h; cases b <;> rfl
  refine ⟨?_, by omega⟩
  rw [accOfRecord, low, code, flag e.x _ (by omega), flag e.v _ (by omega)]

theorem accAt_accPut (c : Core) {r j r' j' : Nat} (e : AccElem) (hj : j < 32) (hj' : j' < 32) :
    accAt (accPut c r' j' e) r j = if r = r' ∧ j = j' then e else accAt c r j := by
  unfold accAt accPut
  by_cases same : r = r' ∧ j = j'
  · obtain ⟨rfl, rfl⟩ := same
    rw [if_pos ⟨rfl, rfl⟩]
    exact mget_mput_self _ _ _ _
  · rw [if_neg same]
    exact mget_mput_off _ _ _ _ _ _ (by unfold accKey; omega)

/-- One row cleared in the columns of a list. -/
theorem accAt_clearCols (c : Core) {r j : Nat} (row : Nat) (hj : j < 32) {cols : List Nat} (hc : ∀ k ∈ cols, k < 32) :
    accAt (cols.foldl (fun c k => accPut c row k AccElem.empty) c) r j =
      if r = row ∧ j ∈ cols then AccElem.empty else accAt c r j := by
  induction cols generalizing c with
  | nil => simp
  | cons k rest ih =>
    rw [List.foldl_cons, ih _ fun x hx => hc x (List.mem_cons_of_mem _ hx), accAt_accPut c _ hj (hc k List.mem_cons_self)]
    by_cases hr : r = row <;> by_cases hk : j = k <;> simp [hr, hk]

theorem mem_enabled {m : BitVec 32} {j : Nat} : j ∈ enabled m ↔ j < 32 ∧ m.getLsbD j = true := by
  simp [enabled]

/-- CLEAR works row by row (R80). -/
theorem accAt_clearRows (c : Core) (m : BitVec 32) (tr n : Nat) {r j : Nat} (hj : j < 32) :
    accAt (clearRows m tr n c) r j = if tr ≤ r ∧ r < tr + n ∧ m.getLsbD j = true then AccElem.empty else accAt c r j := by
  induction n with
  | zero => rw [if_neg (by omega)]; rfl
  | succ n ih =>
    have last : clearRows m tr (n + 1) c = (enabled m).foldl (fun c k => accPut c (tr + n) k AccElem.empty) (clearRows m tr n c) := by
      simp only [clearRows, List.range_succ, List.foldl_append, List.foldl_cons, List.foldl_nil]
    rw [last, accAt_clearCols _ _ hj fun k hk => (mem_enabled.1 hk).1, ih]
    by_cases on : m.getLsbD j = true
    · by_cases here : r = tr + n
      · rw [if_pos ⟨here, mem_enabled.2 ⟨hj, on⟩⟩, if_pos ⟨by omega, by omega, on⟩]
      · rw [if_neg (by tauto)]
        by_cases before : tr ≤ r ∧ r < tr + n
        · rw [if_pos ⟨before.1, before.2, on⟩, if_pos ⟨before.1, by omega, on⟩]
        · rw [if_neg (by omega), if_neg (by omega)]
    · rw [if_neg (by rw [mem_enabled]; tauto), if_neg (by tauto), if_neg (by tauto)]

/-- Settles O14: the fields of a record stand apart; a clear puts the empty element wherever a row and an enabled column meet. -/
theorem accRowsHold : Obligations.AccRowsHold := by
  unfold Obligations.AccRowsHold
  exact ⟨accOfRecord_accRecord, fun c m tr n r j hj => accAt_clearRows c m tr n hj⟩

end Sys2Proof.Machine
end

section
/-!
PROOFS. The start of an ARRAY, ACC or VEC step as the only step of its core's queue (chapter 4, R96 and R98): what the engines do to the core
beside the step, and how the pump ends.
-/
namespace Sys2Proof.Machine

/-! ## What an engine's work leaves of the queue -/

/-- Work of an engine on tiles, accumulator memory and scratch leaves the queue and the request for heel. -/
def KeepsQueue (c c' : Core) : Prop := c'.q = c.q ∧ c'.heelReq = c.heelReq

theorem KeepsQueue.refl (c : Core) : KeepsQueue c c := ⟨rfl, rfl⟩

theorem KeepsQueue.trans {a b c : Core} (h : KeepsQueue a b) (g : KeepsQueue b c) : KeepsQueue a c :=
  ⟨g.1.trans h.1, g.2.trans h.2⟩

theorem keepsQueue_scrPut (c : Core) (a : Nat) (bs : List Byte) : KeepsQueue c (scrPut c a bs) := ⟨rfl, rfl⟩

theorem keepsQueue_accPut (c : Core) (row col : Nat) (e : AccElem) : KeepsQueue c (accPut c row col e) := ⟨rfl, rfl⟩

theorem keepsQueue_foldl {α : Type} {f : Core → α → Core} (h : ∀ c x, KeepsQueue c (f c x)) (c : Core) (l : List α) :
    KeepsQueue c (l.foldl f c) := by
  induction l generalizing c with
  | nil => exact .refl c
  | cons x r ih => exact (h c x).trans (ih _)

/-- The same for work that counts as it goes. -/
theorem keepsQueue_foldl_fst {α β : Type} {f : Core × β → α → Core × β} (h : ∀ p x, KeepsQueue p.1 (f p x).1) (p : Core × β) (l : List α) :
    KeepsQueue p.1 (l.foldl f p).1 := by
  induction l generalizing p with
  | nil => exact .refl p.1
  | cons x r ih => exact (h p x).trans (ih _)

theorem keepsQueue_clearRows (m : BitVec 32) (tr n : Nat) (c : Core) : KeepsQueue c (clearRows m tr n c) :=
  keepsQueue_foldl (fun c _ => keepsQueue_foldl (fun c _ => keepsQueue_accPut c _ _ _) c _) c _

theorem keepsQueue_drainRow (fmt : Nat) (m : BitVec 32) (tr data : Nat) (js : List Nat) (c : Core) (n : Nat) :
    KeepsQueue c (drainRow fmt m tr data js c n).1 := by
  induction js generalizing c n with
  | nil => exact .refl c
  | cons j r ih =>
    refine KeepsQueue.trans ?_ (ih _ _)
    dsimp only
    split
    · exact keepsQueue_scrPut c _ _
    · exact .refl c

theorem keepsQueue_drainRows (fmt : Nat) (m : BitVec 32) (tr data flagAt : Nat) (is : List Nat) (c : Core) (n : Nat) :
    KeepsQueue c (drainRows fmt m tr data flagAt is c n).1 := by
  induction is generalizing c n with
  | nil => exact .refl c
  | cons i r ih =>
    have row := keepsQueue_drainRow fmt m (tr + i) (data + 128 * i) (List.range 32) c n
    unfold drainRows
    generalize drainRow fmt m (tr + i) (data + 128 * i) (List.range 32) c n = p at row
    exact (row.trans (keepsQueue_scrPut _ _ _)).trans (ih _ _)

theorem keepsQueue_restoreRows (tr n data : Nat) (c : Core) (k : AccCount) : KeepsQueue c (restoreRows tr n data c k).1 := by
  unfold restoreRows
  refine keepsQueue_foldl_fst (fun p i => ?_) (c, k) _
  refine keepsQueue_foldl_fst (fun r j => ?_) p _
  exact ⟨rfl, rfl⟩

theorem keepsQueue_mergeRows (tr n data : Nat) (c : Core) (k : AccCount) : KeepsQueue c (mergeRows tr n data c k).1 := by
  unfold mergeRows
  refine keepsQueue_foldl_fst (fun p i => ?_) (c, k) _
  refine keepsQueue_foldl_fst (fun r j => ?_) p _
  exact ⟨rfl, rfl⟩

theorem keepsQueue_promoteRow (k : ChunkKind) (af : Fmt) (row sa : Nat) (t : Tile) (add : Bool) (tr : Nat) (js : List Nat) (c : Core)
    (n : AccCount) : KeepsQueue c (promoteRow k af row sa t add tr js c n).1 := by
  induction js generalizing c n with
  | nil => exact .refl c
  | cons j r ih => exact (keepsQueue_accPut c _ _ _).trans (ih _ _)

theorem keepsQueue_streamRows (k : ChunkKind) (af : Fmt) (t : Tile) (add : Bool) (rs : List (Nat × Nat)) (tr : Nat) (c : Core)
    (n : AccCount) : KeepsQueue c (streamRows k af t add rs tr c n).1 := by
  induction rs generalizing tr c n with
  | nil => exact .refl c
  | cons x r ih =>
    obtain ⟨row, sa⟩ := x
    exact (keepsQueue_promoteRow k af row sa t add tr _ c n).trans (ih _ _ _)

theorem keepsQueue_vecRows (c₀ : Core) (q : QStep) (f w op : Nat) (is : List Nat) (c : Core) : KeepsQueue c (vecRows c₀ q f w op is c) := by
  induction is generalizing c with
  | nil => exact .refl c
  | cons i r ih => exact (keepsQueue_scrPut c _ _).trans (ih _)

theorem keepsQueue_vecEffect (c : Core) (q : QStep) (f : Nat) : KeepsQueue c (vecEffect c q f) := by
  unfold vecEffect
  dsimp only
  split
  · exact ⟨rfl, rfl⟩
  · split
    · exact keepsQueue_scrPut c _ _
    · exact keepsQueue_vecRows c q f _ _ _ c

theorem keepsQueue_saveRows (f : Core → Nat → Nat × List Byte) (c : Core) (l : List Nat) :
    KeepsQueue c (l.foldl (fun c' i => scrPut c' (f c i).1 (f c i).2) c) := keepsQueue_foldl (fun c' _ => keepsQueue_scrPut c' _ _) c l

theorem core_freeN (d : Dev) (n k : Nat) : core { d with freeN := k } n = core d n := rfl

/-! ## A core with one step in its queue -/

/-- Step `q` is all that stands in the queue of core `n`, which is not asked to heel. -/
def Alone (n : Nat) (q : QStep) (d : Dev) : Prop := (core d n).q = [q] ∧ (core d n).heelReq = false

section
variable {d : Dev} {n : Nat} {q : QStep} (h : Alone n q d)
include h

theorem Alone.setCore {c : Core} (hc : KeepsQueue (core d n) c) (e : Dev) : Alone n q (setCore e n c) := by
  rw [Alone, core_setCore_self]
  exact ⟨hc.1.trans h.1, hc.2.trans h.2⟩

theorem Alone.of_core {e : Dev} (hc : core e n = core d n) : Alone n q e := by
  rw [Alone, hc]
  exact h

theorem Alone.act (u k m : Nat) : Alone n q (act d u k m) := h.of_core (core_act d n u k m)

theorem Alone.count (pg k : Nat) (f : Fld) : Alone n q (count d pg f k) := h.of_core (core_count d n pg k f)

theorem Alone.addCounts (m : Nat) (k : AccCount) : Alone n q (addCounts d m k) := (h.count _ _ _).count _ _ _

theorem Alone.qset (f : QStep → QStep) : Alone n (f q) (qset d n 0 f) := by
  rw [Alone, Machine.qset, core_setCore_self, h.1]
  exact ⟨rfl, h.2⟩

theorem Alone.coreFault (idx code status : Nat) : Alone n q (coreFault d n idx code status) := by
  by_cases stopped : (core d n).st = .fault ∨ (core d n).st = .muzzled
  · have still : Machine.coreFault d n idx code status = d := by
      unfold Machine.coreFault
      dsimp only
      rw [if_pos (by simpa using stopped)]
    rw [still]
    exact h
  · rw [Alone, core_coreFault idx code status (fun e => stopped (.inl e)) (fun e => stopped (.inr e))]
    exact h

end

/-- An uncorrectable word stops the step as its engine started it. -/
theorem Alone.fails {d : Dev} {n : Nat} {q : QStep} (h : Alone n q d) (idx code status : Nat) :
    Alone n { q with started := true, failed := true } (qfail (Machine.coreFault d n idx code status) n 0) :=
  (h.coreFault idx code status).qset _

/-- The step that `q` has become has started in an engine beside the MOVE engine, and has failed, has its data, or drains rows that it has yet
to read. -/
structure Started (q q' : QStep) : Prop where
  word : q'.word = q.word
  eng : q'.eng = q.eng
  started : q'.started = true
  rest : q'.failed = true ∨ q'.arrived = true ∨ (q.eng = .drain ∧ q'.got = 0)

theorem started_of_failed (q : QStep) : Started q { q with started := true, failed := true } := ⟨rfl, rfl, rfl, .inl rfl⟩

theorem started_of_arrived {q : QStep} (m : BitVec 32) (ha : q.arrived = true) : Started q { q with started := true, rowMask := m } :=
  ⟨rfl, rfl, rfl, .inr (.inl ha)⟩

section
variable {d : Dev} {n : Nat} {q : QStep} (h : Alone n q d) (ha : q.arrived = true)
include h ha

theorem startLoad_alone : ∃ q', Alone n q' (startLoad d n 0 q) ∧ Started q q' := by
  unfold startLoad
  dsimp only
  split
  · exact ⟨_, h.fails _ _ _, started_of_failed q⟩
  · exact ⟨_, (h.setCore (c := { core d n with shadow := loadTile (core d n) q.word.toNat (q.ea.getD 0 0) (wOp q.word.toNat == 1) })
      ⟨rfl, rfl⟩ _).qset _, started_of_arrived q.rowMask ha⟩

end

section
variable {d : Dev} {n : Nat} {q₀ q : QStep} (h : Alone n q d) (hq : Started q₀ q)
include h hq

/-- A step whose data stands at hand is done with its engine's work, or has failed on an uncorrectable word. -/
theorem finishVec_alone (a : QStep) : ∃ q', Alone n q' (finishVec d n 0 a) ∧ Started q₀ q' := by
  unfold finishVec
  dsimp only
  split
  · exact ⟨_, h.fails _ _ _, ⟨hq.word, hq.eng, rfl, .inl rfl⟩⟩
  · refine ⟨q, (h.setCore (keepsQueue_vecEffect (core d n) a d.freeN) d).of_core ?_, hq⟩
    rw [core_act, apply_ite (core · n), core_act, ite_self, apply_ite (core · n)]
    split
    · exact core_freeN _ n _
    · rfl

theorem finishStream_alone (a : QStep) : ∃ q', Alone n q' (finishStream d n 0 a) ∧ Started q₀ q' := by
  unfold finishStream
  dsimp only
  split
  · split
    · exact ⟨_, h.fails _ _ _, ⟨hq.word, hq.eng, rfl, .inl rfl⟩⟩
    · split
      · exact ⟨q, h, hq⟩
      · have rows := fun k f t rs =>
          (((h.setCore (keepsQueue_streamRows k f t (sAdd a.word.toNat) rs (sRow a.word.toNat) (core d n) ⟨0, 0⟩) d).addCounts n
            (streamRows k f t (sAdd a.word.toNat) rs (sRow a.word.toNat) (core d n) ⟨0, 0⟩).2).act (unitCore n) (sPath a.word.toNat)
            (sM a.word.toNat * (enabled t.rowMask).length * (enabled t.colMask).length)).act (unitCore n) 4 (sM a.word.toNat)
        refine ⟨q, Alone.count ?_ _ _ _, hq⟩
        split
        · exact rows _ _ _ _
        · exact (rows _ _ _ _).act _ _ _
  · exact ⟨q, h, hq⟩

end

/-! ## Each engine starts its step -/

section
variable {d : Dev} {n : Nat} {q : QStep} (h : Alone n q d) (ha : q.arrived = true)
include h ha

theorem startVec_alone (hv : vecDrain q = false) : ∃ q', Alone n q' (startVec d n 0 q) ∧ Started q q' := by
  unfold startVec
  rw [hv]
  exact finishVec_alone (h.qset _) (started_of_arrived q.rowMask ha) q

theorem startStream_alone (hs : sDirect q.word.toNat = false) : ∃ q', Alone n q' (startStream d n 0 q) ∧ Started q q' := by
  unfold startStream
  extract_lets w c tile len e m
  have kept : KeepsQueue (core d n) tile := by
    dsimp only [tile]
    split <;> exact ⟨rfl, rfl⟩
  have left : Alone n q e := h.setCore kept d
  clear_value e tile m
  rw [if_neg (by simp [w, hs])]
  split
  · exact ⟨_, left.fails _ _ _, started_of_failed q⟩
  · exact finishStream_alone (left.qset _) (started_of_arrived _ ha) q

theorem startAcc_alone (hd : wOp q.word.toNat = 1 → q.eng = .drain ∧ q.got = 0) : ∃ q', Alone n q' (startAcc d n 0 q) ∧ Started q q' := by
  have fails := fun idx code status => (⟨_, h.fails idx code status, started_of_failed q⟩ : ∃ q', Alone n q' _ ∧ Started q q')
  have go : ∀ (e : Dev) (c : Core) (b : Nat), KeepsQueue (core d n) c → Alone n { q with started := true }
      (qset (act (act (setCore e n c) (unitCore n) 4 (cCount q.word.toNat)) (unitCore n) 3 b) n 0 (fun q => { q with started := true })) :=
    fun e c b hc => (((h.setCore hc e).act _ _ _).act _ _ _).qset _
  have done : Started q { q with started := true } := started_of_arrived q.rowMask ha
  unfold startAcc
  dsimp only
  split
  case h_1 => exact ⟨_, go d _ _ (keepsQueue_clearRows _ _ _ _), done⟩
  case h_2 op =>
    split
    · exact fails _ _ _
    · refine ⟨_, (go d _ _ (.refl _)).qset _, ⟨rfl, rfl, rfl, .inr (.inr (hd op))⟩⟩
  case h_3 =>
    split
    · exact fails _ _ _
    · exact ⟨_, go _ _ _ (keepsQueue_drainRows _ _ _ _ _ _ _ _), done⟩
  case h_4 =>
    split
    · exact fails _ _ _
    · exact ⟨_, go _ _ _ (keepsQueue_saveRows (fun c i => (q.ea.getD 0 0 + 384 * i, saveRow c (cRow q.word.toNat + i))) _ _), done⟩
  case h_5 =>
    split
    · exact fails _ _ _
    · exact ⟨_, (go _ _ _ (keepsQueue_restoreRows _ _ _ _ _)).addCounts _ _, done⟩
  case h_6 =>
    split
    · exact fails _ _ _
    · exact ⟨_, ((go _ _ _ (keepsQueue_mergeRows _ _ _ _ _)).count _ _ _).addCounts _ _, done⟩

theorem startStep_alone (hm : q.eng ≠ .move) (hy : q.eng ≠ .sync) (hs : q.eng = .rowFeeder → sDirect q.word.toNat = false)
    (hv : q.eng = .vec → vecDrain q = false) (hd : q.eng = .acc → wOp q.word.toNat ≠ 1) (hg : q.got = 0) :
    ∃ q', Alone n q' (startStep d n q) ∧ Started q q' := by
  unfold startStep
  cases eng : q.eng with
  | move => exact absurd eng hm
  | sync => exact absurd eng hy
  | colFeeder => exact startLoad_alone h ha
  | rowFeeder => exact startStream_alone h ha (hs eng)
  | vec => exact startVec_alone h ha (hv eng)
  | acc => exact startAcc_alone h ha (fun op => absurd op (hd eng))
  | drain => exact startAcc_alone h ha (fun _ => ⟨eng, hg⟩)

end

/-! ## How the pump ends -/

section
variable {d : Dev} {n : Nat} {q₀ q : QStep} (h : Alone n q d)
include h

theorem proceedFirst_alone : proceedFirst d n (numbered (core d n).q) = proceed d n 0 q := by
  rw [h.1]
  show (match proceed d n 0 q with | some d => some d | none => none) = _
  cases proceed d n 0 q <;> rfl

/-- A step that has its data, or has failed, leaves the engines nothing to do. -/
theorem pumpGo_of_rest (hp : proceed d n 0 q = none) (k : Nat) : pumpGo n k d = d := by
  cases k with
  | zero => rfl
  | succ k => simp only [pumpGo, proceedFirst_alone h, hp]

omit h in
theorem drainNext_of_full (full : laneRoom d n = 0) : drainNext d n 0 q = none := by
  simp [drainNext, full]

theorem drainTaken_alone : drainTaken d n =
    if q.eng == .drain && q.started && !q.arrived && !q.failed then (drainNext d n 0 q).getD d else d := by
  unfold drainTaken
  rw [h.1]
  rfl

/-- A drain takes at most what its lanes have leashes for, and no more then: a second look finds nothing to read. -/
theorem drainNext_once {e : Dev} (hn : drainNext d n 0 q = some e) :
    ∃ q', Alone n q' e ∧ q'.word = q.word ∧ q'.eng = q.eng ∧ q'.started = q.started ∧
      (q'.arrived = true ∨ drainNext e n 0 q' = none) := by
  unfold drainNext at hn
  dsimp only at hn
  split at hn
  case isTrue => exact absurd hn (by simp)
  case isFalse some_ =>
    obtain rfl := Option.some.inj hn
    generalize rows : (List.range (min (laneRoom d n) (cCount q.word.toNat - q.got))).map _ = rs
    have taken : rs.length = min (laneRoom d n) (cCount q.word.toNat - q.got) := by rw [← rows, List.length_map, List.length_range]
    rw [← taken] at some_ ⊢
    refine ⟨_, (h.setCore (c := { core d n with drained := (core d n).drained ++ rs }) ⟨rfl, rfl⟩ d).qset _, rfl, rfl, rfl, ?_⟩
    by_cases all : q.got + rs.length = cCount q.word.toNat
    · exact .inl (by simpa using all)
    · refine .inr (drainNext_of_full ?_)
      simp only [laneRoom, qset, core_setCore_self, List.length_append, beq_iff_eq] at taken some_ ⊢
      omega

end

/-- A started step beside MOVE that has failed, has its data or drains rows: the drain reads on, and nothing else is left to do. -/
theorem proceed_started {d : Dev} {n : Nat} {q : QStep} (hs : q.started = true) (hm : q.eng ≠ .move) (hy : q.eng ≠ .sync)
    (far : crossesTower q.word.toNat = false) (rest : q.failed = true ∨ q.arrived = true ∨ q.eng = .drain) :
    proceed d n 0 q = if q.eng == .drain && q.started && !q.arrived && !q.failed then drainNext d n 0 q else none := by
  unfold proceed
  rcases rest with fail | arrived | drain
  · simp [fail]
  · simp [far, hy, hm, hs, arrived]
  · cases q.failed <;> cases q.arrived <;> simp [far, drain, hs]

/-- What is left to the engines of a step that has started: the rows that a drain's lanes have leashes for, and those once. -/
theorem pumpGo_started {d : Dev} {n : Nat} {q₀ q : QStep} (h : Alone n q d) (hq : Started q₀ q) (hm : q₀.eng ≠ .move) (hy : q₀.eng ≠ .sync)
    (far : crossesTower q₀.word.toNat = false) (k : Nat) : pumpGo n (k + 1) d = drainTaken d n ∧ (core (drainTaken d n) n).heelReq = false := by
  obtain ⟨word, eng, started, rest⟩ := hq
  rw [← eng] at hm hy rest
  rw [← word] at far
  rw [pumpGo, proceedFirst_alone h, drainTaken_alone h, proceed_started started hm hy far (rest.imp_right (Or.imp_right And.left))]
  split_ifs with pulls
  · have drain : q.eng = .drain := by simp only [Bool.and_eq_true, beq_iff_eq] at pulls; exact pulls.1.1.1
    cases next : drainNext d n 0 q with
    | none => exact ⟨rfl, h.2⟩
    | some e =>
      obtain ⟨q', h', word', eng', started', spent⟩ := drainNext_once h next
      refine ⟨pumpGo_of_rest h' ?_ k, h'.2⟩
      rw [proceed_started (started'.trans started) (by rw [eng']; exact hm) (by rw [eng']; exact hy) (by rw [word']; exact far)
        (.inr (.inr (eng'.trans drain)))]
      rcases spent with arrived | full
      · simp [arrived]
      · rw [full, ite_self]
  · exact ⟨rfl, h.2⟩

/-! ## The step as it issues on an empty queue -/

theorem arrayIssue_shadow (c : Core) (w : Nat) : (arrayIssue (syncIssue c w) w).shadow = c.shadow := by
  unfold arrayIssue syncIssue
  repeat' split
  all_goals rfl

theorem op_lt_of_array {op : Nat} (h : (usedBits clsArray op).isSome = true) : op < 3 := by
  match op, h with
  | 0, _ => decide
  | 1, _ => decide
  | 2, _ => decide
  | k + 3, h => simp [usedBits, clsArray] at h

/-- Nothing before a step holds it in its engine, if the shadow tile is as its class needs it. -/
theorem waitOf_of_first {d : Dev} {n : Nat} {q : QStep} (hm : q.eng ≠ .move) (hy : q.eng ≠ .sync)
    (load : q.eng = .colFeeder → (core d n).shadow = none)
    (stream : q.eng = .rowFeeder → sTake q.word.toNat = true → (core d n).shadow ≠ none) : waitOf d n 0 q = 0 := by
  unfold waitOf
  cases eng : q.eng with
  | move => exact absurd eng hm
  | sync => exact absurd eng hy
  | colFeeder => simp [load eng]
  | rowFeeder => exact (by cases take : sTake q.word.toNat with | false => simp [take] | true => simp [take, stream eng take])
  | acc => simp
  | drain => simp
  | vec => simp

theorem proceed_unstarted {d : Dev} {n : Nat} {q : QStep} (hs : q.started = false) (hf : q.failed = false) (hm : q.eng ≠ .move)
    (hy : q.eng ≠ .sync) (far : crossesTower q.word.toNat = false) (hw : waitOf d n 0 q = 0) :
    proceed d n 0 q = some (startStep d n q) := by
  unfold proceed startStep
  cases eng : q.eng with
  | move => exact absurd eng hm
  | sync => exact absurd eng hy
  | _ => simp [hs, hf, far, hw]

/-- A step that may start is the only one of its core: the engines start it, and drain what its lanes have leashes for. -/
theorem pump_of_start {d : Dev} {n : Nat} {q : QStep} (h : Alone n q d) (hm : q.eng ≠ .move) (hy : q.eng ≠ .sync)
    (far : crossesTower q.word.toNat = false) (goes : proceed d n 0 q = some (startStep d n q))
    (starts : ∃ q', Alone n q' (startStep d n q) ∧ Started q q') : pump d n = showWait (drainTaken (startStep d n q) n) n := by
  obtain ⟨q', h', hq⟩ := starts
  obtain ⟨k, fuel⟩ : ∃ k, ((core d n).q.length + 1) * ((core d n).q.length + 1) * 2 + rxCount d n + 2 * linkTurns (core d n) = k + 2 := by
    rw [h.1]
    exact Nat.exists_eq_add_of_le' (by simp only [List.length_singleton]; omega)
  obtain ⟨ends, noHeel⟩ := pumpGo_started h' hq hm hy far k
  unfold pump
  dsimp only
  rw [fuel, pumpGo, proceedFirst_alone h, goes]
  dsimp only
  rw [ends, heelIn_of_no_request noHeel]

/-- The engine of an ARRAY, ACC or VEC step. -/
theorem engOf_array {w : Nat} (h : wCls w = clsArray) : engOf w = if wOp w == 2 then .rowFeeder else .colFeeder := by simp [engOf, h, clsArray]
theorem engOf_acc {w : Nat} (h : wCls w = clsAcc) : engOf w = if wOp w == 1 || wOp w == 2 then .drain else .acc := by simp [engOf, h, clsAcc]
theorem engOf_vec {w : Nat} (h : wCls w = clsVec) : engOf w = .vec := by simp [engOf, h, clsVec]

/-- Settles O6: the step is alone in its queue and may start; the pump starts it, and a drain then reads its rows. -/
theorem arrayAccVecStepStarts : Obligations.ArrayAccVecStepStarts := by
  unfold Obligations.ArrayAccVecStepStarts
  intro s i cls op n w hi hc hr h hw hp hq load stream vec
  obtain ⟨rfl, rfl⟩ := wCls_wOp_of_isOp hw
  obtain ⟨-, -, -, noHeel, queue⟩ := queued_frame s.dev n w
  have alone : Alone n (issuedStep s.dev n w) (queued s.dev n w) :=
    ⟨by rw [queue, hq, List.nil_append], noHeel.trans (heelReq_of_headOf h.head)⟩
  have shadow : (core (queued s.dev n w) n).shadow = (core s.dev n).shadow := by rw [core_queued, arrayIssue_shadow]; rfl
  have far : crossesTower w.toNat = false := by rcases hc with hc | hc | hc <;> simp [crossesTower, hc, clsArray, clsAcc, clsVec]
  have kind : engOf w.toNat ≠ .move ∧ engOf w.toNat ≠ .sync ∧ (engOf w.toNat = .colFeeder → (core s.dev n).shadow = none) ∧
      (engOf w.toNat = .rowFeeder → sDirect w.toNat = false ∧ (sTake w.toNat = true → (core s.dev n).shadow ≠ none)) ∧
      (engOf w.toNat = .vec → vecDrain (issuedStep s.dev n w) = false) ∧
      (engOf w.toNat = .acc → wOp w.toNat ≠ 1) := by
    rcases hc with hc | hc | hc
    · have three := op_lt_of_array (hc ▸ h.used)
      rw [engOf_array hc]
      by_cases two : wOp w.toNat = 2
      · obtain ⟨direct, taken⟩ := stream hc two
        simp [two, direct, Option.isSome_iff_ne_none] at taken ⊢
        exact taken
      · simp [two, load hc (by omega)]
    · rw [engOf_acc hc]
      by_cases drain : wOp w.toNat = 1 ∨ wOp w.toNat = 2
      · simp [drain]
      · simp [not_or.1 drain]
    · simp [engOf_vec hc, vec hc]
  obtain ⟨hm, hy, hl, hs, hv, hd⟩ := kind
  rw [exec_queued hi (by rcases hc with hc | hc | hc <;> simp [hc, clsArray, clsAcc, clsVec, clsCtrl])
    (by rcases hc with hc | hc | hc <;> simp [hc, clsArray, clsAcc, clsVec, clsSync]) hr h hw hp]
  rw [pump_of_start alone hm hy far]
  · exact proceed_unstarted rfl rfl hm hy far (waitOf_of_first hm hy (by rw [shadow]; exact hl) (by rw [shadow]; exact fun e => (hs e).2))
  · exact startStep_alone alone rfl hm hy (fun e => (hs e).1) hv hd rfl

end Sys2Proof.Machine
end

section
/-!
PROOFS. Token messages (chapter 5, R131 to R136): each message, resend and watchdog command by what it finds at its port.
-/
namespace Sys2Proof.Machine

/-- A command of a device not held in reset ends with what its function makes of the device. -/
theorem exec_next {i : Instr} {s : State} {f : Dev → Dev} {d : Dev} (hr : s.dev.boot.reset = false) (hx : exec i s = live s f)
    (hf : f s.dev = d) : exec i s = .next (s.after d) := by rw [hx, live_next s f hr, hf]

section
variable {d : Dev} {r p u turn : Nat}

/-- A grant or a release finds its port waiting for it with the message still to be acted on. -/
theorem grantArrives_of_waiting (hp : (port d r p).place = .granting) (ht : (port d r p).turn % 2 ^ 14 = turn)
    (hm : (port d r p).msgs.any (isMsg 0 turn u) = true) : grantArrives r p u turn true d =
      pump (setCore (setPort d r p { port d r p with place := .parked, stalled := false, msgs := markSeen (isMsg 0 turn u) (port d r p).msgs })
        (128 * r + u) { core d (128 * r + u) with parked := mput none (core d (128 * r + u)).parked p (some ⟨p, turn⟩) }) (128 * r + u) := by
  simp [grantArrives, hp, ht, hm, -Nat.reducePow]

theorem releaseArrives_of_waiting (hp : (port d r p).place = .releasing) (ht : (port d r p).turn % 2 ^ 14 = turn)
    (hm : (port d r p).msgs.any (isMsg 1 turn u) = true) : releaseArrives r p u turn true d =
      releaseAtPort (setPort d r p { port d r p with msgs := markSeen (isMsg 1 turn u) (port d r p).msgs }) r p := by
  simp [releaseArrives, hp, ht, hm, -Nat.reducePow]

/-- A message of another turn, or that the port does not wait for, changes nothing. -/
theorem grantArrives_of_stale (crc : Bool) (h : (port d r p).place ≠ .granting ∨ (port d r p).turn % 2 ^ 14 ≠ turn) :
    grantArrives r p u turn crc d = d := by
  unfold grantArrives
  dsimp only
  rw [if_neg]
  rcases h with h | h <;> simp [h, -Nat.reducePow]

theorem releaseArrives_of_stale (crc : Bool) (h : (port d r p).place ≠ .releasing ∨ (port d r p).turn % 2 ^ 14 ≠ turn) :
    releaseArrives r p u turn crc d = d := by
  unfold releaseArrives
  dsimp only
  rw [if_neg]
  rcases h with h | h <;> simp [h, -Nat.reducePow]

/-- What a resend of the oldest message does, up to eight and after. -/
theorem resendToken_of_cons {m : TokMsg} {rest : List TokMsg} (h : (port d r p).msgs = m :: rest) (hm : m.resends < 8) :
    resendToken r p d =
      count (setPort d r p { port d r p with msgs := { m with resends := m.resends + 1 } :: rest }) (ordPg r) ORD.TOK_RESENDS 1 := by
  simp [resendToken, h, hm]

theorem resendToken_of_last {m : TokMsg} {rest : List TokMsg} (h : (port d r p).msgs = m :: rest) (hm : 8 ≤ m.resends) :
    resendToken r p d =
      let z := muzzleCore (setPort d r p { port d r p with msgs := rest }) (128 * r + m.user) 7
      if (port d r p).lead == some p && (port d r p).turn % 2 ^ 14 == m.turn && (port z r p).lead == some p &&
        (port z r p).turn == (port d r p).turn then returnToken z r p else z := by
  unfold resendToken
  dsimp only
  rw [h]
  dsimp only
  rw [if_neg (by omega)]

/-- A wait that does not count raises nothing. -/
theorem tokenStalls_of_quiet (h : getF d (ordPg r) ORD.ORD_WDOG_LIMIT = 0 ∨ (port d r p).list = none ∨ (port d r p).halted = true ∨
    (port d r p).ended = true ∨ (port d r p).stalled = true ∨ (port d r p).place = .held) : tokenStalls r p d = d := by
  unfold tokenStalls
  dsimp only
  split
  · rfl
  · rw [if_pos]
    rcases h with h | h | h | h | h | h <;> simp [h]

theorem tokenStalls_of_waiting {e : BitVec 32} (he : portEntry p (port d r p) = some e) (hl : getF d (ordPg r) ORD.ORD_WDOG_LIMIT ≠ 0)
    (list : (port d r p).list.isSome = true) (halted : (port d r p).halted = false) (ended : (port d r p).ended = false)
    (stalled : (port d r p).stalled = false)
    (waits : (port d r p).place = .parked ∨ ((port d r p).place = .joinWait ∧ (port d r p).lead = none) ∨
      ((port d r p).place = .atPort ∧ (entryUser e).isSome = true)) :
    tokenStalls r p d =
      let y := count (setPort d r p { port d r p with stalled := true }) (ordPg r) ORD.TOKEN_STALLS 1
      bark y 0x2502 (ordPg r) (regionDie r) 1 (partOf y r) none
        (leBytes 2 p ++ leBytes 2 (port d r p).ent ++ [BitVec.ofNat 8 (if oeKind e == oeFloor then 0xFF else oeUser e)]) := by
  unfold tokenStalls
  simp only [he]
  rw [if_neg]
  obtain ⟨l, list⟩ := Option.isSome_iff_exists.1 list
  rcases waits with waits | ⟨waits, lead⟩ | ⟨waits, user⟩ <;> simp [*]

end

/-- Settles O18: each clause is what the message, the resend or the watchdog finds at its port. -/
theorem tokenMessagesAct : Obligations.TokenMessagesAct := by
  unfold Obligations.TokenMessagesAct
  refine ⟨fun s r p u turn hr => ?_, fun s r p hr => ?_⟩
  · refine ⟨fun hp ht hm => ?_, fun hp ht hm => ?_, ?_, fun stale => ?_, fun stale => ?_, ?_, ?_, ?_⟩
    · exact exec_next hr rfl (grantArrives_of_waiting hp ht hm)
    · exact exec_next hr rfl (releaseArrives_of_waiting hp ht hm)
    · exact exec_next hr rfl rfl
    · exact exec_next hr rfl (grantArrives_of_stale true stale)
    · exact exec_next hr rfl (releaseArrives_of_stale true stale)
    · exact exec_next hr rfl rfl
    · exact exec_next hr rfl rfl
    · exact exec_next hr rfl rfl
  · refine ⟨fun m rest h hm => ?_, fun m rest h hm => ⟨fun away => ?_, fun away => ?_⟩, fun quiet => ?_,
      fun e he hl list halted ended stalled waits => ?_⟩
    · exact exec_next hr rfl (resendToken_of_cons h hm)
    · exact exec_next hr rfl ((resendToken_of_last h hm).trans (if_pos (by simpa [and_assoc] using away)))
    · exact exec_next hr rfl ((resendToken_of_last h hm).trans (if_neg (by simpa [and_assoc] using away)))
    · exact exec_next hr rfl (tokenStalls_of_quiet quiet)
    · exact exec_next hr rfl (tokenStalls_of_waiting he hl list halted ended stalled waits)

end Sys2Proof.Machine
end

section
/-!
PROOFS. The conflict detector at a port (chapter 5, R137 and R138): what a unit that passes and one that is refused leave at the port, and
accesses alone or two in one cycle.
-/
namespace Sys2Proof.Machine

/-! ## What leaves the ports as they are -/

@[simp] theorem haltRegion_ports (d : Dev) (r : Nat) : (haltRegion d r).ports = d.ports := by
  unfold haltRegion haltPart
  split
  · split
    · exact setF_ports d _ _ _
    · rfl
  · rfl

@[simp] theorem coreFault_ports (d : Dev) (n idx code status : Nat) : (coreFault d n idx code status).ports = d.ports := by
  unfold coreFault
  dsimp only
  repeat' split
  all_goals simp

@[simp] theorem floorFault_ports (d : Dev) (t code col status : Nat) : (floorFault d t code col status).ports = d.ports := by
  unfold floorFault
  dsimp only
  repeat' split
  all_goals simp

theorem port_stopUser (d : Dev) (r p u step r' p' : Nat) : port (stopUser d r p u step) r' p' = port d r' p' := by
  unfold stopUser port
  split <;> simp

theorem portKey_ne {r p q : Nat} (h : q ≠ p) : portKey r q ≠ portKey r p := by unfold portKey; omega

/-! ## A unit that passes, and one that is refused -/

/-- What a pass does to the ports: it is counted, nothing else. -/
theorem passUnit_ports (d : Dev) (r p : Nat) : (passUnit d r p).ports =
    (setPort d r p { port d r p with moved := (port d r p).moved + 64, units := (port d r p).units + 1 }).ports := by
  unfold passUnit
  dsimp only
  repeat' split
  all_goals simp

/-- What a refusal does to the ports: it halts the one. -/
theorem refuse_ports (d : Dev) (r p cond u step : Nat) (st : Option Nat) :
    (refuse d r p cond u step st).ports = (setPort d r p { port d r p with halted := true }).ports := by
  unfold refuse
  extract_lets x fl e w f g k b l
  have counted : f.ports = d.ports := by
    dsimp only [f]
    split
    · exact count_ports d _ _ _
    · exact (setReg_ports _ _ _ _).trans (count_ports d _ _ _)
  have halted : l.ports = g.ports := by
    dsimp only [l]
    split
    · exact (setF_ports _ _ _ _).trans (count_ports _ _ _ _)
    · rfl
  rw [bark_ports, halted]
  show mput _ f.ports _ _ = mput _ d.ports _ _
  rw [counted]

theorem port_of_ports {d e : Dev} (h : d.ports = e.ports) (r p : Nat) : port d r p = port e r p := by rw [port, h, port]

/-! ## One access -/

section
variable {d : Dev} {r p u step : Nat} {tok : Option Token}

/-- A unit of a vertical channel's own core, while a vertical step of it runs. -/
def RunsVertical (d : Dev) (r p u : Nat) : Prop :=
  u < 128 ∧ vertPort d (128 * r + u) = p ∧
    (core d (128 * r + u)).q.any (fun q => q.eng == .move && q.started && !q.dataDone && !onCrossbar (wOp q.word.toNat)) = true

theorem accessOne_of_pass (own : p < 236 ∨ RunsVertical d r p u) (h : refusal d r p u tok false = none) :
    accessOne d r p u step tok false = passUnit d r p := by
  unfold accessOne
  dsimp only
  rw [h]
  rcases own with own | ⟨core, vert, runs⟩
  · simp only [decide_eq_false (not_le.2 own), Bool.false_and, Bool.false_eq_true, if_false]
  · simp only [runs, vert, bne_self_eq_false, decide_eq_false (not_le.2 core), Bool.or_self, Bool.not_true, Bool.and_false, Bool.false_eq_true,
      if_false]

theorem accessOne_of_refusal {c : Nat} (own : p < 236) (h : refusal d r p u tok false = some c) :
    accessOne d r p u step tok false =
      stopUser (refuse d r p c u step (if accessItem d r u then some stSchedule else none)) r p u step := by
  unfold accessOne
  dsimp only
  rw [h]
  simp only [decide_eq_false (not_le.2 own), Bool.false_and, Bool.false_eq_true, if_false]

/-- Of two units in one cycle and direction none finds its port open. -/
theorem refusal_of_clash : ∃ c, refusal d r p u tok true = some c := by
  simp only [refusal, ↓reduceIte]
  repeat' split
  all_goals exact ⟨_, rfl⟩

/-- An access that meets another in its direction halts the port and moves nothing. -/
theorem port_accessOne_of_clash : port (accessOne d r p u step tok true) r p = { port d r p with halted := true } := by
  obtain ⟨c, hc⟩ := refusal_of_clash (d := d) (r := r) (p := p) (u := u) (tok := tok)
  unfold accessOne
  dsimp only
  rw [hc, port_stopUser, port_of_ports (refuse_ports _ _ _ _ _ _ _), port_setPort_self]
  split <;> rfl

end

/-- Of two units in one cycle and direction neither passes. -/
theorem port_portAccesses_of_clash (d : Dev) (r p : Nat) (a b : PortUnit) (h : a.write = b.write) :
    (port (portAccesses r p a (some b) d) r p).halted = true ∧ (port (portAccesses r p a (some b) d) r p).units = (port d r p).units := by
  unfold portAccesses
  dsimp only
  rw [h, beq_self_eq_true, port_setPort_self, port_accessOne_of_clash, port_setPort_self, port_accessOne_of_clash]
  exact ⟨rfl, rfl⟩

/-- Settles O19: a lone access by what the detector says of it, two of one direction by what both leave, and the port after each. -/
theorem portAccessActs : Obligations.PortAccessActs := by
  unfold Obligations.PortAccessActs
  refine ⟨fun s r p a hr => ?_, fun d r p cond u step st => ⟨?_, ?_, fun q hq => ⟨?_, ?_⟩⟩⟩
  · refine ⟨fun hp h => ?_, fun v hu hp hv hh runs => ?_, fun v c hu hp h => ?_, fun c hu hp h => ?_, fun b hb => ?_⟩
    · exact exec_next hr rfl (accessOne_of_pass (.inl hp) h)
    · have core : userOf a.user < 128 := by rw [hu]; exact v.isLt
      refine exec_next hr rfl (accessOne_of_pass (.inr ⟨core, hv, runs⟩) ?_)
      simp [refusal, hp, hh]
    · have core : userOf a.user < 128 := by rw [hu]; exact v.isLt
      refine exec_next hr rfl ((accessOne_of_refusal hp h).trans ?_)
      simp only [stopUser, accessItem, if_pos core]
      rfl
    · have seq : ¬ userOf a.user < 128 := by rw [hu]; decide
      refine exec_next hr rfl ((accessOne_of_refusal hp h).trans ?_)
      simp only [stopUser, accessItem, if_neg seq]
      rfl
    · exact ⟨_, exec_next hr rfl rfl, port_portAccesses_of_clash s.dev r p (unitOf a) (unitOf b) hb⟩
  · rw [port_of_ports (passUnit_ports d r p), port_setPort_self]
  · rw [port_of_ports (refuse_ports d r p cond u step st), port_setPort_self]
  · rw [port_of_ports (passUnit_ports d r p), port_setPort_other _ _ _ _ _ _ (portKey_ne hq)]
  · rw [port_of_ports (refuse_ports d r p cond u step st), port_setPort_other _ _ _ _ _ _ (portKey_ne hq)]

end Sys2Proof.Machine
end

section
/-!
PROOFS. Bank columns (chapter 6): host pieces, the sweep's block, refresh and the end of a FETCH turn, each by what its column owes and holds;
and the elements of the floor's integer arithmetic (R197).
-/
namespace Sys2Proof.Machine

/-! ## Host pieces (R174) -/

section
variable {d e : Dev} {t b : Nat} {pc : Piece} {rest : List Piece} (now : fetchNow d t b = true) (queue : (column d t b).queue = pc :: rest)
include now queue

theorem hostPiece_read {bs : List Byte} {h tag off came : Nat} {last : Bool} (kind : pc.kind = .read)
    (why : pc.purpose = .hostRead h tag off last came)
    (read : readTower (setColumn d t b { column d t b with queue := rest }) .host (devAddr t pc.page pc.off) pc.len = (e, .ok bs)) :
    hostPiece t b d = sendCpl (showLatency (count e (twrPg t) TWR.HOST_READS 1) t came) h tag off stOk last bs := by
  unfold hostPiece
  rw [if_pos now]
  unfold serveHead
  simp only [queue, kind, why, pieceWho, read]
  rfl

theorem hostPiece_write {bs : List Byte} {h idx seq : Nat} (kind : pc.kind = .write bs) (why : pc.purpose = .hostWrite h idx seq)
    (wrote : writeTower (setColumn d t b { column d t b with queue := rest }) .host (devAddr t pc.page pc.off) bs = (e, none)) :
    hostPiece t b d = count e (twrPg t) TWR.HOST_WRITES 1 := by
  unfold hostPiece
  rw [if_pos now]
  unfold serveHead
  simp only [queue, kind, why, pieceWho, wrote]
  simp only [answerWrite, why]

end

/-! ## Refresh (R170, R171) -/

section
variable {d : Dev} {t b : Nat}

theorem tower_refreshOp (f : Fld) : tower (refreshOp d t b f) t =
    tower (setColumn d t b { column d t b with debt := max (-2) ((column d t b).debt - 1) }) t := rfl

theorem column_refreshOp (f : Fld) (b' : Nat) : column (refreshOp d t b f) t b' =
    column (setColumn d t b { column d t b with debt := max (-2) ((column d t b).debt - 1) }) t b' := rfl

theorem refreshForced_of_debt (hold : (tower d t).hold = false) (owes : 8 ≤ (column d t b).debt) :
    refreshForced t b d =
      let e := count (refreshOp d t b TWR.STRETCHES) (twrPg t) TWR.STRETCH_FORCED 1
      if floorSelects e t b then
        setFloor e t { floor e t with st := .wait, wait := 6, time := { (floor e t).time with pause := pauseTicks } }
      else e := by
  unfold refreshForced
  rw [if_pos (by simp [hold, owes])]

theorem refreshStretch_of_overdue (hold : (tower d t).hold = false) (owes : 8 ≤ (column d t b).debt) :
    refreshStretch t b d = refreshForced t b d := by
  unfold refreshStretch
  rw [if_neg (by simp [hold]; omega), if_pos owes]

theorem refreshStretch_of_due (hold : (tower d t).hold = false) (four : 4 ≤ (column d t b).debt) (eight : (column d t b).debt < 8) :
    refreshStretch t b d = if floorSelects d t b then floorBoundary t d else refreshOp d t b TWR.STRETCHES := by
  unfold refreshStretch
  rw [if_neg (by simp [hold]; omega), if_neg (by omega)]

/-! ## The end of a FETCH turn (R127, R169, R173) -/

section
variable (hold : (tower d t).hold = false) (scrubs : (tower d t).scrub.running = false)
include hold scrubs

theorem fetchTurnEnd_of_held (held : turnHeld d t b = true) : fetchTurnEnd t b d = d := by
  simp [fetchTurnEnd, hold, scrubs, held]

section
variable (held : turnHeld d t b = false)
include held

theorem fetchTurnEnd_of_ended (ended : (port d t b).ended = true) (list : (port d t b).list.isSome = true) :
    fetchTurnEnd t b d = idleRefresh
      (count (setPort d t b { port d t b with turn := ((port d t b).turn + 1) % 65536 }) (twrPg t) TWR.FETCH_TURNS 1) t b := by
  simp [fetchTurnEnd, hold, scrubs, held, ended, list]

theorem fetchTurnEnd_of_unplanned (plan : (port d t b).plan = false) (ended : (port d t b).ended = false) :
    fetchTurnEnd t b d = leaveFetch (idleRefresh d t b) t b := by
  simp [fetchTurnEnd, hold, scrubs, held, ended, colIdle, plan]

theorem fetchTurnEnd_of_planned (plan : (port d t b).plan = true) (ended : (port d t b).ended = false) (now : fetchNow d t b = true) :
    fetchTurnEnd t b d = leaveFetch
      (if (column d t b).queue = [] ∧ 1 ≤ (column d t b).debt then refreshOp d t b TWR.REFRESH_IDLE else d) t b := by
  simp [fetchTurnEnd, hold, scrubs, held, ended, colIdle, plan, now]

end
end
end

/-- Settles O22: each command by what its column's queue, debt and list say. -/
theorem towerColumnsAct : Obligations.TowerColumnsAct := by
  unfold Obligations.TowerColumnsAct
  refine ⟨fun s t b pc rest hr now queue => ⟨?_, ?_⟩, fun s t sw hr sweep now => ?_, fun s t b hr hold => ?_,
    fun s t b hr hold scrubs => ⟨?_, ?_, ?_, ?_⟩⟩
  · intro d' bs h tag off last came kind why read
    exact exec_next hr rfl (hostPiece_read now queue kind why read)
  · intro d' bs h idx seq kind why wrote
    exact exec_next hr rfl (hostPiece_write now queue kind why wrote)
  · exact exec_next hr rfl (by simp [sweepBlock, sweep, now])
  · refine ⟨?_, fun owes free => ⟨?_, ?_⟩, fun owes takes => ?_, fun four eight free => ?_, fun four eight takes => ?_, fun f => ?_,
      fun f b' hb => ?_⟩
    · exact exec_next hr rfl (by simp [refreshTick, hold])
    · exact exec_next hr rfl ((refreshForced_of_debt hold owes).trans (by simp [free]))
    · exact exec_next hr rfl ((refreshStretch_of_overdue hold owes).trans ((refreshForced_of_debt hold owes).trans (by simp [free])))
    · exact exec_next hr rfl ((refreshForced_of_debt hold owes).trans (by simp [takes]))
    · exact exec_next hr rfl ((refreshStretch_of_due hold four eight).trans (by simp [free]))
    · exact exec_next hr rfl ((refreshStretch_of_due hold four eight).trans (by simp [takes]))
    · rw [column_refreshOp, column_setColumn_self]
    · rw [column_refreshOp, column_setColumn_other _ _ _ _ _ _ (.inr hb)]
  · exact fun held => exec_next hr rfl (fetchTurnEnd_of_held hold scrubs held)
  · exact fun held ended list => exec_next hr rfl (fetchTurnEnd_of_ended hold scrubs held ended list)
  · exact fun held plan ended => exec_next hr rfl (fetchTurnEnd_of_unplanned hold scrubs held plan ended)
  · exact fun held plan ended now => exec_next hr rfl (fetchTurnEnd_of_planned hold scrubs held plan ended now)

/-! ## Integer elements (R197) -/

/-- A signed word in the range of 32 bits is kept whole. -/
theorem toInt_ofInt_32 {v : Int} (low : -2147483648 ≤ v) (high : v ≤ 2147483647) : (BitVec.ofInt 32 v).toInt = v := by
  rw [BitVec.toInt_ofInt]
  exact Int.bmod_eq_of_le (by omega) (by omega)

/-- Settles O27: the result is clamped to 32 bits before it becomes a word. -/
theorem floorElementsSaturate : Obligations.FloorElementsSaturate := by
  unfold Obligations.FloorElementsSaturate
  intro mul a b
  exact toInt_ofInt_32 (by omega) (by omega)

end Sys2Proof.Machine
end

section
/-!
PROOFS. The floor sequencer (chapter 7): how a command at the head of its sequence starts or waits, TURN and END, and the way to the next
command (R187, R190 to R204).
-/
namespace Sys2Proof.Machine

/-- A row that names a floor command takes the command at the head of its sequence. -/
theorem exec_floorRow {i : Instr} {op : Nat} {t : TowerId} (s : State) (h : floorRow i = some (op, t)) :
    exec i s = live s (floorStart op t) := by
  cases i <;> simp only [floorRow, Option.some.injEq, Prod.mk.injEq, reduceCtorEq] at h <;> obtain ⟨rfl, rfl⟩ := h <;> rfl

section
variable {d : Dev} {t : Nat}

/-- What holds a command holds it, and WAIT shows that. -/
theorem floorStart_of_held (ready : floorReady (floor d t) = true) (up : (tower d t).hold = false)
    (loaded : (floor d t).cmd < (floor d t).loaded) (legal : floorStatic (fMask d t (fWord d t)) (fWord d t) = 0) {why : Nat} (hw : why ≠ 0)
    (holds : floorHolds (floor d t) (fMask d t (fWord d t)) (fWord d t) = why) :
    floorStart (fOp (fWord d t)) t d = setFloor d t { floor d t with st := .wait, wait := why } := by
  unfold floorStart
  dsimp only
  rw [if_neg (by simp [ready, up]), if_neg (by omega), if_neg (by simp), if_neg (by simp [legal]), if_pos (by simpa [holds] using hw), holds]

section
variable (h : FloorStarts d t)
include h

/-- A data command that nothing holds, with its tokens, its pages and room under the cap, takes effect. -/
theorem floorStart_of_data (op : fOp (fWord d t) ≤ 12) (tokens : heldFault d t (selCols (fMask d t (fWord d t))) = none)
    (pages : pageFault d t (fWord d t) (selCols (fMask d t (fWord d t))) = none)
    (room : fRuns (fWord d t) = [] ∨ capSum (floor d t) + (selCols (fMask d t (fWord d t))).length ≤ capOf (tierNow d t)) :
    floorStart (fOp (fWord d t)) t d = floorEffect t (fWord d t) (selCols (fMask d t (fWord d t))) (floorStarted d t) := by
  have cap : (fRuns (fWord d t) != [] && !capRoom d t (selCols (fMask d t (fWord d t))).length) = false := by
    rcases room with none_ | room
    · simp [none_]
    · simp [capRoom, room]
  unfold floorStart
  dsimp only
  rw [if_neg (by simp [h.ready, h.up]), if_neg (by have := h.loaded; omega), if_neg (by simp), if_neg (by simp [h.legal]),
    if_neg (by simp [h.holds]), if_neg (by simp [h.good]), if_neg (by simp only [beq_iff_eq]; omega), if_neg (by simp only [beq_iff_eq]; omega),
    tokens, pages]
  dsimp only
  rw [if_neg (by simp [h.good]), if_neg (by simp only [cap, Bool.false_eq_true, not_false_eq_true])]
  rfl

theorem floorStart_of_turn (op : fOp (fWord d t) = 13) : floorStart 13 t d =
    let x := floorRelease t (count d (flrPg t) FLR.CMDS 1)
    setFloor x t { floor x t with running := true, turnSent := true, st := .wait, wait := 1 } := by
  unfold floorStart
  dsimp only
  rw [if_neg (by simp [h.ready, h.up]), if_neg (by have := h.loaded; omega), if_neg (by simp [op]), if_neg (by simp [h.legal]),
    if_neg (by simp [h.holds]), if_neg (by simp [h.good])]
  rfl

theorem floorStart_of_end (op : fOp (fWord d t) = 14) {item : Nat} (serves : (floor d t).item = some item) : floorStart 14 t d =
    let x := count (count (floorRelease t d) (flrPg t) FLR.CMDS 1) (flrPg t) FLR.SEQ_DONE 1
    event (setFloor x t { floor x t with st := .heel, wait := 0, item := none }) (.done item (unitFloor t)) := by
  unfold floorStart
  dsimp only
  rw [if_neg (by simp [h.ready, h.up]), if_neg (by have := h.loaded; omega), if_neg (by simp [op]), if_neg (by simp [h.legal]),
    if_neg (by simp [h.holds]), if_neg (by simp [h.good]), serves]
  rfl

end

/-- The next command comes to the head of a sequence that goes on, if it is one of the floor's. -/
theorem floorNext_of_goes (heel : (floor d t).heelReq = false) (more : (floor d t).cmd + 1 < (floor d t).loaded)
    (known : (fLowBit (fOp (mget (0 : BitVec 128) (floor d t).seq ((floor d t).cmd + 1)).toNat)).isSome = true) :
    floorNext t FloorTime.init d = setFloor d t { floor d t with
      running := false, turnSent := false, clearWait := none, cmd := (floor d t).cmd + 1, st := .run, wait := 0, time := FloorTime.init } := by
  unfold floorNext
  have stays : ∀ e : Dev, (floor e t).heelReq = false → floorHeelIn t e = e := fun e he => by simp [floorHeelIn, he]
  dsimp only
  rw [stays _ (by rw [floor_setFloor_self]; exact heel), if_neg (by simp only [floor_setFloor_self, Bool.and_eq_true, decide_eq_true_eq]; omega)]
  unfold floorReserved
  dsimp only
  rw [if_neg]
  rw [floor_setFloor_self]
  simp only [fWord, floor_setFloor_self, Bool.and_eq_true, Option.isNone_iff_eq_none, not_and]
  exact fun _ unknown => Bool.false_ne_true ((congrArg Option.isSome unknown).symm.trans known)

theorem floorDone_of_running (running : (floor d t).running = true) (st : (floor d t).st ≠ .fault) (turn : (floor d t).turnSent = false)
    (clear : (floor d t).clearWait = none) (opens : (floor d t).time.opens = []) : floorDone t d = floorNext t FloorTime.init d := by
  unfold floorDone
  dsimp only
  rw [if_neg (by simpa using st), if_neg (by simp [running]), if_neg (by simp [turn]), clear, opens]
  dsimp only [List.foldl_nil, openRest]
  exact if_pos (by rw [opens]; rfl)

end

/-- Settles O25: the gates of the start in their order, each passed, or the one that holds the command. -/
theorem floorCommandStarts : Obligations.FloorCommandStarts := by
  unfold Obligations.FloorCommandStarts
  intro s i op t hi hr hop
  refine ⟨fun h op12 tokens pages room => ?_, fun why hw ready up loaded legal holds => ?_⟩
  · exact exec_next hr (exec_floorRow s hi) (by rw [← hop]; exact floorStart_of_data h (by omega) tokens pages room)
  · exact exec_next hr (exec_floorRow s hi) (by rw [← hop]; exact floorStart_of_held ready up loaded legal hw holds)

/-- Settles O26: TURN and END pass the same gates as a data command; a command that has finished makes place for the next. -/
theorem floorSequenceMoves : Obligations.FloorSequenceMoves := by
  unfold Obligations.FloorSequenceMoves
  refine ⟨fun s t item hr h => ⟨fun op => ?_, fun op serves => ?_⟩,
    fun s t hr => ⟨fun running st turn clear heel opens more known => ?_, ?_⟩⟩
  · exact exec_next hr rfl (floorStart_of_turn h op)
  · exact exec_next hr rfl (floorStart_of_end h op serves)
  · exact exec_next hr rfl ((floorDone_of_running running st turn clear opens).trans (floorNext_of_goes heel more known))
  · exact exec_next hr rfl rfl

end Sys2Proof.Machine
end

section
/-!
PROOFS. Optical frames and bundle slots (chapter 8, R213 to R222): what a frame or slot finds on a channel or bundle that is up.
-/
namespace Sys2Proof.Machine

/-! ## Sequence numbers -/

/-- The number that is expected stands in its place. -/
theorem seqPlace_self (mod n : Nat) : seqPlace mod n n = 0 := by
  simp [seqPlace]

/-- Another number of the range does not. -/
theorem seqPlace_ne_zero {mod n k : Nat} (hn : n < mod) (hk : k < mod) (h : k ≠ n) : seqPlace mod n k ≠ 0 := by
  have off : (k + mod - n) % mod ≠ 0 := by
    rcases Nat.lt_or_gt_of_ne h with less | more
    · rw [Nat.mod_eq_of_lt (by omega)]
      omega
    · rw [show k + mod - n = (k - n) + mod by omega, Nat.add_mod_right, Nat.mod_eq_of_lt (by omega)]
      omega
  unfold seqPlace
  dsimp only
  rw [if_neg (by simpa using off)]
  split <;> simp

/-! ## Frames (R213 to R216) -/

/-- Line 31 alone returns to the region that sends. -/
theorem lineOf_ne (i j : RegionId) (h : i ≠ j) : (lineOf i j == 31) = false := by
  have ne : i.val ≠ j.val := fun e => h (Fin.ext e)
  have := i.isLt
  have := j.isLt
  simp only [lineOf, beq_eq_false_iff_ne]
  omega

theorem chan_key_ne (i j : RegionId) (h : i ≠ j) : 32 * i.val + j.val ≠ 32 * j.val + i.val := by
  have ne : i.val ≠ j.val := fun e => h (Fin.ext e)
  have := i.isLt
  have := j.isLt
  omega

section
variable {d : Dev} {i j : RegionId} {f : OptFrame}

/-- A sender with nothing unacknowledged takes no acknowledge and owes no replay. -/
theorem ackAndNak_of_idle (idle : (chan d j i).unacked = []) (nak : f.nak = false) :
    ackAndNak d i j f = setChan d j i { chan d j i with lastNak := none } := by
  simp [ackAndNak, takeAck, takeNak, idle, nak]

theorem chan_back (h : i ≠ j) : chan (setChan d j i { chan d j i with lastNak := none }) i j = chan d i j :=
  chan_setChan_other _ _ _ _ _ _ (chan_key_ne i j h)

section
variable (h : i ≠ j) (up : (link d i j).st = .up)
include h up

theorem frameArrives_of_bad {kind : Nat} (crc : frameCrc kind f ≠ f.crc) :
    frameArrives i j kind f d = setChan (setLink (count d (optPg j) OPT.CRC_FAILS 1) i j
      { link d i j with crcCnt := (link d i j).crcCnt + 1 }) i j { chan d i j with nak := true } := by
  unfold frameArrives
  dsimp only
  rw [if_neg (by simp [lineOf_ne i j h]), if_neg (by simp [up]), if_neg (by simp [up]), if_pos (by simpa using crc)]
  rfl

section
variable (idle : (chan d j i).unacked = []) (nak : f.nak = false)
include idle nak

/-- A good frame, its acknowledge taken, meets the number its channel expects. -/
theorem frameArrives_of_good {kind : Nat} (crc : frameCrc kind f = f.crc) : frameArrives i j kind f d =
    let e := setChan d j i { chan d j i with lastNak := none }
    let c := chan e i j
    match seqPlace seqOpt c.expect f.seq.toNat with
    | 0 =>
      if kind == 0 then e
      else if c.rx.length ≥ winOpt then setChan e i j { c with nak := true }
      else
        let data := if kind == kData || kind == kLast then (nBytes 56 f.payload).take (f.nb.toNat + 1) else []
        pumpReceivers (chanDrop (setChan e i j
          { c with expect := (c.expect + 1) % seqOpt, nak := false, rx := c.rx ++ [⟨f.seq.toNat, kind, data, 0⟩] }) i j) i j
    | 1 => setChan e i j { c with nak := true }
    | _ => if kind == 0 then e else setChan e i j { c with nak := true } := by
  unfold frameArrives
  dsimp only
  rw [if_neg (by simp [lineOf_ne i j h]), if_neg (by simp [up]), if_neg (by simp [up]), if_neg (by simpa using crc),
    ackAndNak_of_idle idle nak]
  refine if_neg ?_
  have same : link (setChan d j i { chan d j i with lastNak := none }) i j = link d i j := rfl
  simp [same, up]

section
variable (seq : f.seq.toNat = (chan d i j).expect)
include seq

/-- The expected frame. -/
theorem frameArrives_of_expected {kind : Nat} (crc : frameCrc kind f = f.crc) : frameArrives i j kind f d =
    let e := setChan d j i { chan d j i with lastNak := none }
    let c := chan e i j
    if kind == 0 then e
    else if c.rx.length ≥ winOpt then setChan e i j { c with nak := true }
    else
      let data := if kind == kData || kind == kLast then (nBytes 56 f.payload).take (f.nb.toNat + 1) else []
      pumpReceivers (chanDrop (setChan e i j
        { c with expect := (c.expect + 1) % seqOpt, nak := false, rx := c.rx ++ [⟨f.seq.toNat, kind, data, 0⟩] }) i j) i j := by
  rw [frameArrives_of_good h up idle nak crc, seq]
  dsimp only
  rw [chan_back h, seqPlace_self]
  rfl

theorem frameArrives_of_room {kind : Nat} (crc : frameCrc kind f = f.crc) (seqd : kind ≠ 0)
    (room : (chan (setChan d j i { chan d j i with lastNak := none }) i j).rx.length < 512) : frameArrives i j kind f d =
    let e := setChan d j i { chan d j i with lastNak := none }
    let c := chan e i j
    let data := if kind == kData || kind == kLast then (nBytes 56 f.payload).take (f.nb.toNat + 1) else []
    pumpReceivers (chanDrop (setChan e i j
      { c with expect := (c.expect + 1) % 1024, nak := false, rx := c.rx ++ [⟨f.seq.toNat, kind, data, 0⟩] }) i j) i j := by
  rw [frameArrives_of_expected h up idle nak seq crc]
  dsimp only
  rw [if_neg (by simpa using seqd), if_neg (by exact not_le.2 room)]
  rfl

theorem frameArrives_of_full {kind : Nat} (crc : frameCrc kind f = f.crc) (seqd : kind ≠ 0)
    (full : 512 ≤ (chan (setChan d j i { chan d j i with lastNak := none }) i j).rx.length) : frameArrives i j kind f d =
    let e := setChan d j i { chan d j i with lastNak := none }
    setChan e i j { chan e i j with nak := true } := by
  rw [frameArrives_of_expected h up idle nak seq crc]
  dsimp only
  rw [if_neg (by simpa using seqd), if_pos (by simpa only [winOpt] using full)]

end

/-- A frame of another number asks for a replay. -/
theorem frameArrives_of_other {kind : Nat} (crc : frameCrc kind f = f.crc) (seqd : kind ≠ 0) (seq : f.seq.toNat ≠ (chan d i j).expect)
    (range : (chan d i j).expect < 1024) : frameArrives i j kind f d =
    let e := setChan d j i { chan d j i with lastNak := none }
    setChan e i j { chan e i j with nak := true } := by
  rw [frameArrives_of_good h up idle nak crc]
  dsimp only
  have place := seqPlace_ne_zero range f.seq.isLt seq
  rw [chan_back h]
  split
  case h_1 zero => exact absurd zero place
  case h_2 => rfl
  case h_3 => rw [if_neg (by simpa using seqd)]

end
end
end

/-- Asking for a replay leaves what a channel has received. -/
theorem rx_of_nak (d : Dev) (i j a b : Nat) : (chan (setChan d i j { chan d i j with nak := true }) a b).rx = (chan d a b).rx := by
  by_cases h : 32 * a + b = 32 * i + j
  · simp only [chan, setChan, h, mget_mput_self]
  · rw [chan_setChan_other _ _ _ _ _ _ h]

/-- Settles O28: a frame of each kind, by the number its channel expects, the room it has, and its CRC. -/
theorem opticalFrameArrives : Obligations.OpticalFrameArrives := by
  unfold Obligations.OpticalFrameArrives
  refine ⟨fun s i j f hr h up idle nak seq => ?_, fun s i j f hr h up idle nak seq range => ?_, fun s i j f hr h up => ?_⟩
  · refine ⟨fun room => ⟨fun crc => ?_, fun crc => ?_, fun crc => ?_, fun crc => ?_⟩,
      fun full => ⟨fun crc => ?_, fun crc => ?_, fun crc => ?_, fun crc => ?_⟩, fun crc => ?_⟩
    · exact exec_next hr rfl (frameArrives_of_room h up idle nak seq crc (by decide) room)
    · exact exec_next hr rfl (frameArrives_of_room h up idle nak seq crc (by decide) room)
    · exact exec_next hr rfl (frameArrives_of_room h up idle nak seq crc (by decide) room)
    · exact exec_next hr rfl (frameArrives_of_room h up idle nak seq crc (by decide) room)
    · exact exec_next hr rfl (frameArrives_of_full h up idle nak seq crc (by decide) full)
    · exact exec_next hr rfl (frameArrives_of_full h up idle nak seq crc (by decide) full)
    · exact exec_next hr rfl (frameArrives_of_full h up idle nak seq crc (by decide) full)
    · exact exec_next hr rfl (frameArrives_of_full h up idle nak seq crc (by decide) full)
    · exact exec_next hr rfl (frameArrives_of_expected h up idle nak seq crc)
  · refine ⟨fun crc => ?_, fun crc => ?_, fun crc => ?_, fun crc => ?_⟩
    · exact exec_next hr rfl (frameArrives_of_other h up idle nak crc (by decide) seq range)
    · exact exec_next hr rfl (frameArrives_of_other h up idle nak crc (by decide) seq range)
    · exact exec_next hr rfl (frameArrives_of_other h up idle nak crc (by decide) seq range)
    · exact exec_next hr rfl (frameArrives_of_other h up idle nak crc (by decide) seq range)
  · refine ⟨fun crc => ?_, fun crc => ?_, fun crc => ?_, fun crc => ?_, fun crc => ?_, fun a b => ?_⟩
    · exact exec_next hr rfl (frameArrives_of_bad h up crc)
    · exact exec_next hr rfl (frameArrives_of_bad h up crc)
    · exact exec_next hr rfl (frameArrives_of_bad h up crc)
    · exact exec_next hr rfl (frameArrives_of_bad h up crc)
    · exact exec_next hr rfl (frameArrives_of_bad h up crc)
    · exact rx_of_nak (setLink (count s.dev (optPg j) OPT.CRC_FAILS 1) i j
        { link s.dev i j with crcCnt := (link s.dev i j).crcCnt + 1 }) i j a b

/-! ## Bundle slots (R220 to R222) -/

/-- A slot that is next to be sent joins the window, which has room. -/
theorem sentUpTo_of_next {seq : Nat} {data : List Byte} {c : Chan} (next : c.txNext = seq) (room : c.unacked.length < 32) :
    sentUpTo seq data c = { c with txNext := (seq + 1) % 256, unacked := c.unacked ++ [⟨seq, 0, data, 0⟩] } := by
  simp [sentUpTo, next, seqBundle, winBundle, room]

section
variable {d : Dev} {t b : Nat} {up : Bool} {f : BundleSlot} (hl : (link d t (64 + b)).st = .up)
include hl

theorem slotArrives_of_bad (crc : slotCrc f ≠ f.crc) : slotArrives t b up f d =
    setBundle (setLink (count d (optPg t) OPT.CRC_FAILS 1) t (64 + b)
      { link d t (64 + b) with crcCnt := (link d t (64 + b)).crcCnt + 1 }) t b up { bundle d t b up with nak := true } := by
  unfold slotArrives
  dsimp only
  rw [if_neg (by simp [hl]), if_neg (by simp [hl]), if_neg (by simp [hl]), if_pos (by simpa using crc)]
  rfl

/-- The data frame and messages of a slot that its end expects and that is next to be sent. -/
theorem slotArrives_of_expected (crc : slotCrc f = f.crc) (idle : (bundle d t b (!up)).unacked = []) (nak : f.nak = false)
    (seqd : f.dkind = 1#2 ∨ f.mt0 ≠ 0#4 ∨ f.mt1 ≠ 0#4) {e : Dev}
    (he : e = setBundle d t b (!up) { bundle d t b (!up) with lastNak := none })
    (seq : f.seq.toNat = (bundle e t b up).expect) (next : (bundle e t b up).txNext = (bundle e t b up).expect)
    (room : (bundle e t b up).unacked.length < 32) {data : List Byte}
    (hd : data = if f.dkind = 1#2 then nBytes (64 * (f.nu.toNat + 1)) f.data else []) :
    slotArrives t b up f d = slotWords t b up f (setBundle e t b up
      { bundle e t b up with
          expect := ((bundle e t b up).expect + 1) % 256, nak := false, txNext := (f.seq.toNat + 1) % 256,
          unacked := (bundle e t b up).unacked ++ [⟨f.seq.toNat, 0, data, 0⟩],
          rx := if f.dkind = 1#2 ∧ (bundleCore e t b).bind (pathUp e) = some up then [⟨f.seq.toNat, 1, data, 0⟩]
                else (bundle e t b up).rx }) := by
  have seqd' : (f.dkind == 1#2 || f.mt0 != 0#4 || f.mt1 != 0#4) = true := by rcases seqd with h | h | h <;> simp [h]
  have data' : (if f.dkind == 1#2 then nBytes (64 * (f.nu.toNat + 1)) f.data else []) = data := by simp [hd]
  have acked : takeAck winBundle seqBundle (bundle d t b (!up)).expect f.ack.toNat (bundle d t b (!up)) = bundle d t b (!up) := by
    simp [takeAck, idle]
  unfold slotArrives
  dsimp only
  rw [if_neg (by simp [hl]), if_neg (by simp [hl]), if_neg (by simp [hl]), if_neg (by simpa using crc), acked, data', seqd']
  simp only [nak, Bool.false_and, Bool.false_eq_true, if_false, takeNak, Bool.not_false, if_true]
  rw [← he, sentUpTo_of_next (next.trans seq.symm) room]
  dsimp only
  rw [← seq, seqPlace_self]
  simp [seqBundle]

end

/-- Settles O29: the slot is the next its sender sends and the next its receiver expects, or fails its CRC. -/
theorem bundleSlotArrives : Obligations.BundleSlotArrives := by
  unfold Obligations.BundleSlotArrives
  intro s t b up f hr hl
  refine ⟨fun crc idle nak seq next room seqd => ?_, fun crc => ?_⟩
  · exact exec_next hr rfl (slotArrives_of_expected hl crc idle nak seqd rfl seq next room rfl)
  · exact exec_next hr rfl (slotArrives_of_bad hl crc)

end Sys2Proof.Machine
end

section
/-!
PROOFS. Fields of registers beside the writes of other registers: other pages, barks, the life log, and a field written on every OPT page.
-/
namespace Sys2Proof.Machine

theorem getF_of_regs {d e : Dev} (kind : e.kind = d.kind) (regs : e.regs = d.regs) (pg : Nat) (f : Fld) : getF e pg f = getF d pg f := by
  unfold getF getReg
  rw [kind, regs]

/-- A field of another page. -/
theorem getF_setF_page {d : Dev} {pg p v : Nat} {f g : Fld} (hf : f.off < 4096) (hg : g.off < 4096) (h : p ≠ pg) :
    getF (setF d pg f v) p g = getF d p g := by
  apply getF_setF_other
  unfold regKey
  omega

theorem getF_count_page {d : Dev} {pg p k : Nat} {f g : Fld} (hf : f.off < 4096) (hg : g.off < 4096) (h : p ≠ pg) :
    getF (count d pg f k) p g = getF d p g := getF_setF_page hf hg h

theorem getF_bark (d : Dev) (y k die v : Nat) (p t : Option Nat) (l : List Byte) (pg : Nat) (f : Fld) :
    getF (bark d y k die v p t l) pg f = getF d pg f := rfl

/-- A field of a page of its own beside those of the life log and the flash keeps its value as the log takes a record. -/
theorem getF_life {d : Dev} {kind sub p : Nat} {bs : List Byte} {g : Fld} (hg : g.off < 4096) (hl : p ≠ lifePg) (hf : p ≠ flshPg) :
    getF (life d kind sub bs) p g = getF d p g := by
  unfold life
  have packed : ∀ e : Dev, getF (if e.log.length ≥ logCap then compact e else e) p g = getF e p g := by
    intro e
    split
    · unfold compact
      dsimp only
      rw [getF_setF_page (by decide) hg hf, getF_count_page (by decide) hg hf, getF_count_page (by decide) hg hf]
      rfl
    · rfl
  show getF (count (if d.log.length ≥ logCap then compact d else d) lifePg LIFE.LOG_WRITES 1) p g = _
  rw [getF_count_page (by decide) hg hl, packed]

/-- A record of the log leaves links and channels. -/
theorem life_frame (d : Dev) (kind sub : Nat) (bs : List Byte) :
    (life d kind sub bs).links = d.links ∧ (life d kind sub bs).chans = d.chans ∧ (life d kind sub bs).freeN = d.freeN := by
  have packed : ∀ e : Dev, (compact e).links = e.links ∧ (compact e).chans = e.chans ∧ (compact e).freeN = e.freeN := by
    intro e
    unfold compact
    extract_lets _ _ _ _ _ _ f
    rw [setF_links, setF_chans, setF_freeN]
    refine ⟨?_, ?_, ?_⟩
    · exact (count_links _ _ _ _).trans (count_links _ _ _ _)
    · exact (count_chans _ _ _ _).trans (count_chans _ _ _ _)
    · exact (count_freeN _ _ _ _).trans (count_freeN _ _ _ _)
  unfold life
  extract_lets e f
  have he : e.links = d.links ∧ e.chans = d.chans ∧ e.freeN = d.freeN := by
    dsimp only [e]
    split
    · exact packed d
    · exact ⟨rfl, rfl, rfl⟩
  clear_value e
  exact he

/-! ## A field of every OPT page -/

theorem optPg_ne {a b : Nat} (h : a ≠ b) : optPg a ≠ optPg b := by simp only [optPg, PageType.pg]; omega

theorem getF_foldl_setF {f g : Fld} {v r : Nat} (hf : f.off < 4096) (hg : g.off < 4096) (rs : List Nat) (out : r ∉ rs) (d : Dev) :
    getF (rs.foldl (fun d r => setF d (optPg r) f v) d) (optPg r) g = getF d (optPg r) g := by
  induction rs generalizing d with
  | nil => rfl
  | cons a rs ih =>
    rw [List.foldl_cons, ih (fun h => out (List.mem_cons_of_mem _ h)),
      getF_setF_page hf hg (optPg_ne (List.ne_of_not_mem_cons out))]

/-- A field written on every OPT page. -/
theorem getF_setAllOpt_self {d : Dev} {f : Fld} {v r : Nat} (hf : f.off < 4096) (hw : f.lo + f.w ≤ 64) (hr : r < 32) :
    getF (setAllOpt d f v) (optPg r) f = v % 2 ^ f.w := by
  have parts : List.range 32 = List.range r ++ r :: (List.range' (r + 1) (31 - r)) := by
    rw [List.range_eq_range', List.range_eq_range', show (32 : Nat) = r + (31 - r + 1) by omega, ← List.range'_append_1, List.range'_succ]
    simp
  unfold setAllOpt
  rw [parts, List.foldl_append, List.foldl_cons, getF_foldl_setF hf hf _ (by simp), getF_setF_self _ _ _ _ hw]

/-- The other fields of the register stay. -/
theorem getF_setAllOpt_off {d : Dev} {f g : Fld} {v r : Nat} (hf : f.off < 4096) (hw : f.lo + f.w ≤ 64) (ho : g.off = f.off)
    (hd : g.lo + g.w ≤ f.lo ∨ f.lo + f.w ≤ g.lo) : getF (setAllOpt d f v) (optPg r) g = getF d (optPg r) g := by
  unfold setAllOpt
  generalize List.range 32 = rs
  induction rs generalizing d with
  | nil => rfl
  | cons a rs ih =>
    rw [List.foldl_cons, ih]
    by_cases same : r = a
    · rw [same, getF_setF_off _ _ _ _ _ hw ho hd]
    · exact getF_setF_page hf (ho ▸ hf) (optPg_ne same)

theorem setAllOpt_frame (d : Dev) (f : Fld) (v : Nat) :
    (setAllOpt d f v).links = d.links ∧ (setAllOpt d f v).chans = d.chans ∧ (setAllOpt d f v).freeN = d.freeN := by
  unfold setAllOpt
  generalize List.range 32 = rs
  induction rs generalizing d with
  | nil => exact ⟨rfl, rfl, rfl⟩
  | cons a rs ih => exact ih (setF d (optPg a) f v)

end Sys2Proof.Machine
end

section
/-!
PROOFS. Failures of links (chapter 8): the 1 ms windows over the CRC counts (R225), and the combs (R210, R231).
-/
namespace Sys2Proof.Machine

section
variable {d : Dev} {r v weakest margin : Nat}

/-- A window ends: the lane kept as the weakest, and the third window over the limit in succession. -/
theorem windowEnd_of_ok (ok : linkOk r v = true) (n : Nat) (hn : n = if getF d (optPg r) OPT.CRC_LIM ≠ 0 ∧
      getF d (optPg r) OPT.CRC_LIM < (link d r v).crcCnt then (link d r v).overrun + 1 else 0) :
    windowEnd r v weakest margin d =
      let l := link d r v
      let low := if l.overrun = 0 ∨ margin < l.margin then (weakest, margin) else (l.weakest, l.margin)
      let e := setLink d r v { l with crcCnt := 0, overrun := if 3 ≤ n then 0 else n, weakest := low.1, margin := low.2 }
      if n < 3 ∨ l.st ≠ .up then e else laneFails r v low.1 4 e := by
  unfold windowEnd
  dsimp only
  rw [if_neg (by simp [ok])]
  have count : (if (getF d (optPg r) OPT.CRC_LIM != 0 && decide ((link d r v).crcCnt > getF d (optPg r) OPT.CRC_LIM)) = true
      then (link d r v).overrun + 1 else 0) = n := by rw [hn]; congr 1; simp
  rw [count]
  simp only [Bool.or_eq_true, beq_iff_eq, decide_eq_true_eq, bne_iff_ne]

end

/-- The fields of COMB_STAT stand beside each other. -/
theorem combField_apart (c : Fin 2) : (combField c).off = 0x110 ∧ (combField (1 - c.val)).off = 0x110 ∧ (combBias (1 - c.val)).off = 0x110 ∧
    ((combField c).lo + (combField c).w ≤ (combField (1 - c.val)).lo ∨
      (combField (1 - c.val)).lo + (combField (1 - c.val)).w ≤ (combField c).lo) ∧
    (combField c).lo + (combField c).w ≤ (combBias (1 - c.val)).lo ∧
    (combField (1 - c.val)).lo + (combField (1 - c.val)).w ≤ (combBias (1 - c.val)).lo ∧
    (combBias (1 - c.val)).lo + (combBias (1 - c.val)).w ≤ 64 ∧ (combField c).w = 2 ∧ (combField (1 - c.val)).w = 2 := by
  revert c
  decide

/-- A comb's failure as its state, bark and record leave the device. -/
def combFailed (d : Dev) (c : Nat) : Dev :=
  life (bark (setAllOpt d (combField c) 3) 0x2601 (optPg 0) (lead (setAllOpt d (combField c) 3)) 1 none none
    [4, 0xFF, BitVec.ofNat 8 c, 0xFF, 0xFF]) 8 0 ([BitVec.ofNat 8 (c + 1), 1, 0, 0] ++ leBytes 2 (getF d (optPg 0) (combBias c)))

theorem combFailed_frame (d : Dev) (c : Nat) : (combFailed d c).links = d.links ∧ (combFailed d c).chans = d.chans ∧
    (combFailed d c).freeN = d.freeN := by
  obtain ⟨links, chans, free⟩ := setAllOpt_frame d (combField c) 3
  unfold combFailed
  rw [(life_frame _ _ _ _).1, (life_frame _ _ _ _).2.1, (life_frame _ _ _ _).2.2, bark_links, bark_chans, bark_freeN]
  exact ⟨links, chans, free⟩

theorem optPg_ne_log {r : Nat} (hr : r < 32) : optPg r ≠ lifePg ∧ optPg r ≠ flshPg := by
  constructor <;> simp only [optPg, lifePg, flshPg, PageType.pg, OPT.page, LIFE.page, FLSH.page] <;> omega

theorem getF_life_opt {d : Dev} {kind sub r : Nat} {bs : List Byte} {g : Fld} (hg : g.off = 0x110) (hr : r < 32) :
    getF (life d kind sub bs) (optPg r) g = getF d (optPg r) g :=
  getF_life (by omega) (optPg_ne_log hr).1 (optPg_ne_log hr).2

theorem getF_combFailed (d : Dev) (c : Fin 2) {r : Nat} (hr : r < 32) : getF (combFailed d c) (optPg r) (combField c) = 3 := by
  obtain ⟨off, -, -, apart, -, -, -, width, -⟩ := combField_apart c
  have low : (combField c).lo + (combField c).w ≤ 64 := by revert c; decide
  unfold combFailed
  rw [getF_life_opt off hr, getF_bark, getF_setAllOpt_self (by omega) low hr, width]
  rfl

theorem combFails_of_ok (d : Dev) (c : Nat) (ok : combState d c ≠ 3) : combFails c d =
    let e := combFailed d c
    if combState e (1 - c) = 3 then
      (List.range 32).foldl (fun d i => (List.range 32).foldl (fun d j => if i < j then loseLink d i j 3 0xFF else d) d) e
    else
      let f := { e with freeN := e.freeN + 1 }
      let bias := getF f (optPg 0) (combBias (1 - c))
      if Config.combOverLimit e.freeN then
        bark (life f 8 0 ([BitVec.ofNat 8 (1 - c + 1), 3, 0, 0] ++ leBytes 2 bias)) 0x2002 (RAIL.page.pg 41)
          (lead (life f 8 0 ([BitVec.ofNat 8 (1 - c + 1), 3, 0, 0] ++ leBytes 2 bias))) 2 none none [41]
      else
        life (setAllOpt (setAllOpt f (combField (1 - c)) 2) (combBias (1 - c)) (Config.combBase (1 - c) true).toNat) 8 0
          ([BitVec.ofNat 8 (1 - c + 1), 2, 0, 0] ++ leBytes 2 bias) := by
  unfold combFails
  dsimp only
  rw [if_neg (by simpa using ok)]
  simp only [beq_iff_eq]
  rfl

/-- One comb of two has failed: what the other's bias leaves of links and of the states shown. -/
theorem combFails_of_other (d : Dev) (c : Fin 2) (ok : combState d c ≠ 3) (other : combState (combFailed d c) (1 - c.val) ≠ 3) :
    (combFails c d).links = d.links ∧ (combFails c d).chans = d.chans ∧
      ∀ r : RegionId, getF (combFails c d) (optPg r) (combField c) = 3 ∧
        (Config.combOverLimit d.freeN = false → getF (combFails c d) (optPg r) (combField (1 - c.val)) = 2) := by
  obtain ⟨links, chans, free⟩ := combFailed_frame d c
  obtain ⟨off, off', offB, apart, apartB, apartB', low, width, width'⟩ := combField_apart c
  have shown := fun r : RegionId => getF_combFailed d c r.isLt
  rw [combFails_of_ok d c ok]
  dsimp only
  rw [if_neg other]
  generalize combFailed d c = e at links chans free shown
  rw [free]
  split
  case isTrue limit =>
    refine ⟨?_, ?_, fun r => ⟨?_, fun no => ?_⟩⟩
    · rw [bark_links, (life_frame _ _ _ _).1]
      exact links
    · rw [bark_chans, (life_frame _ _ _ _).2.1]
      exact chans
    · rw [getF_bark, getF_life_opt off r.isLt]
      exact shown r
    · exact absurd (no.symm.trans limit) (by decide)
  case isFalse =>
    have kept := fun x : Dev => (setAllOpt_frame (setAllOpt x (combField (1 - c.val)) 2) (combBias (1 - c.val))
      (Config.combBase (1 - c.val) true).toNat)
    have kept' := fun x : Dev => setAllOpt_frame x (combField (1 - c.val)) 2
    refine ⟨?_, ?_, fun r => ⟨?_, fun _ => ?_⟩⟩
    · rw [(life_frame _ _ _ _).1, (kept _).1, (kept' _).1]
      exact links
    · rw [(life_frame _ _ _ _).2.1, (kept _).2.1, (kept' _).2.1]
      exact chans
    · rw [getF_life_opt off r.isLt, getF_setAllOpt_off (by omega) low (off.trans offB.symm) (.inl apartB),
        getF_setAllOpt_off (by omega) (by omega) (off.trans off'.symm) apart]
      exact shown r
    · rw [getF_life_opt off' r.isLt, getF_setAllOpt_off (by omega) low (off'.trans offB.symm) (.inl apartB'),
        getF_setAllOpt_self (by omega) (by omega) r.isLt, width']
      rfl

/-- Settles O30: the window by how often it has been over its limit, the comb by the state of the other. -/
theorem linkFailuresAct : Obligations.LinkFailuresAct := by
  unfold Obligations.LinkFailuresAct
  refine ⟨fun s r v weak hr ok => ⟨fun within => ?_, fun lim above few => ?_, fun lim above third up => ?_⟩,
    fun s c hr ok => ⟨fun both => ?_, fun one => ?_⟩⟩
  · exact exec_next hr rfl ((windowEnd_of_ok ok 0 (by rw [if_neg (by omega)])).trans (by simp))
  · refine exec_next hr rfl ((windowEnd_of_ok ok ((link s.dev r v).overrun + 1) (by rw [if_pos ⟨lim, above⟩])).trans ?_)
    dsimp only
    rw [if_neg (show ¬ 3 ≤ (link s.dev r v).overrun + 1 by omega)]
    exact if_pos (.inl (by omega))
  · refine exec_next hr rfl ((windowEnd_of_ok ok ((link s.dev r v).overrun + 1) (by rw [if_pos ⟨lim, above⟩])).trans ?_)
    dsimp only
    rw [if_pos (show 3 ≤ (link s.dev r v).overrun + 1 by omega)]
    exact if_neg (fun few => few.elim (fun lt => by omega) (fun down => down up))
  · exact exec_next hr rfl ((combFails_of_ok s.dev c ok).trans (if_pos both))
  · exact ⟨_, exec_next hr rfl rfl, combFails_of_other s.dev c ok one⟩

end Sys2Proof.Machine
end

section
/-!
PROOFS. Training of links (chapter 8, R224 to R231): the fields of training words, what each word does in its phase, and what a link that comes
up holds.
-/
namespace Sys2Proof.Machine

/-! ## Training words (R228) -/

theorem toNat_append_add {m n : Nat} (x : BitVec m) (y : BitVec n) : (x ++ y).toNat = x.toNat * 2 ^ n + y.toNat := by
  rw [BitVec.toNat_append, ← Nat.shiftLeft_add_eq_or_of_lt y.isLt, Nat.shiftLeft_eq]

theorem tKind_bypassBits (g : BitVec 3) (pos : BitVec 6) : tKind (bypassBits g pos) = 1 := by
  have := g.isLt
  have := pos.isLt
  simp only [tKind, bits, bypassBits, toNat_append_add, BitVec.toNat_ofNat]
  omega

theorem tGroup_bypassBits (g : BitVec 3) (pos : BitVec 6) : tGroup (bypassBits g pos) = g.toNat := by
  have := g.isLt
  have := pos.isLt
  simp only [tGroup, bits, bypassBits, toNat_append_add, BitVec.toNat_ofNat]
  omega

theorem tPos_bypassBits (g : BitVec 3) (pos : BitVec 6) : tPos (bypassBits g pos) = pos.toNat := by
  have := g.isLt
  have := pos.isLt
  simp only [tPos, bits, bypassBits, toNat_append_add, BitVec.toNat_ofNat]
  omega

section
variable (k : BitVec 4) (halves : BitVec 2) (joint : Bool) (tid : BitVec 8)

theorem toNat_maskBits : (maskBits k halves joint tid).toNat =
    k.toNat * 2 ^ 28 + halves.toNat * 2 ^ 26 + joint.toNat * 2 ^ 25 + tid.toNat * 2 ^ 16 := by
  simp only [maskBits, toNat_append_add, BitVec.toNat_ofNat, BitVec.toNat_ofBool]
  omega

theorem tKind_maskBits : tKind (maskBits k halves joint tid) = k.toNat := by
  have := k.isLt
  have := halves.isLt
  have := tid.isLt
  have := joint.toNat_le
  simp only [tKind, bits, toNat_maskBits]
  omega

theorem tTid_maskBits : tTid (maskBits k halves joint tid) = tid.toNat := by
  have := k.isLt
  have := halves.isLt
  have := tid.isLt
  have := joint.toNat_le
  simp only [tTid, bits, toNat_maskBits]
  omega

theorem tHalves_maskBits : tHalves (maskBits k halves joint tid) = halves := by
  apply BitVec.eq_of_toNat_eq
  have := k.isLt
  have := halves.isLt
  have := tid.isLt
  have := joint.toNat_le
  simp only [tHalves, BitVec.extractLsb'_toNat, Nat.shiftRight_eq_div_pow, toNat_maskBits]
  omega

theorem tJoint_maskBits : tJoint (maskBits k halves joint tid) = joint := by
  have := k.isLt
  have := halves.isLt
  have := tid.isLt
  simp only [tJoint, BitVec.getLsbD, toNat_maskBits, Nat.testBit_eq_decide_div_mod_eq]
  cases joint
  · exact decide_eq_false (by simp only [Bool.toNat_false]; omega)
  · exact decide_eq_true (by simp only [Bool.toNat_true]; omega)

end

/-! ## Detect and Centre (R224, R227, R327) -/

section
variable {d : Dev} {r v : Nat} (ok : linkOk r v = true) (st : (link d r v).st = .training)
include ok st

/-- What a link in training holds after Measure, with the settings that Centre has found. -/
def measuredLink (d : Dev) (r v : Nat) (near far : List (BitVec 8)) (centre : List (BitVec 16)) : Link :=
  let l := link d r v
  let toFar := namedLanes d r v false near
  let toNear := namedLanes d r v true far
  let agreed := agreedHalves v toFar toNear
  { l with phase := .measure, weakest := (lowestMargin near far).1, margin := (lowestMargin near far).2, centre := centre,
           near := { l.near with margins := near, usable := usableHalves d r v false near &&& agreed, bypass := toNear },
           far := { l.far with margins := far, usable := usableHalves d r v true far &&& agreed, bypass := toFar } }

section
variable (phase : (link d r v).phase = .detect) {near far : List (BitVec 8)} {centre : List (BitVec 16)}
include phase

theorem detectLock_of_fresh (kind : (link d r v).kind = .fresh) :
    detectLock r v near far centre d = setLink d r v (measuredLink d r v near far centre) := by
  unfold detectLock
  dsimp only
  rw [if_neg (by simp [ok, st, phase]), if_neg (by simp [kind])]
  simp only [measuredLink, kind]

theorem detectLock_of_saved (kind : (link d r v).kind = .saved) {old : SavedRec}
    (saved : d.saved.find? (fun x => x.1 == saveKey r v) = some (saveKey r v, old)) : detectLock r v near far centre d =
      if worseEye (getF d (optPg (endRegion r v false)) OPT.MARGIN_THR) old.near near = true ∨
          worseEye (getF d (optPg (endRegion r v true)) OPT.MARGIN_THR) old.far far = true then
        setLink d r v { link d r v with kind := .fresh }
      else setLink d r v (measuredLink d r v near far old.centre) := by
  unfold detectLock
  dsimp only
  rw [if_neg (by simp [ok, st, phase]), saved]
  simp only [measuredLink, kind, Option.map_some, beq_self_eq_true, Bool.true_and, Bool.or_eq_true]

end

/-! ## Words of Measure and Agree (R224, R229) -/

theorem bypassWord_of_alone (phase : (link d r v).phase = .measure) {g pos : Nat} (alone : mget none (link d r v).far.bypass g = none) :
    bypassWord r v false g pos d = setLink d r v { link d r v with
      near := { (link d r v).near with bypass := mput none (link d r v).near.bypass g (if pos = 63 then none else some pos) } } := by
  unfold bypassWord
  dsimp only
  rw [if_neg (by simp [ok, st, phase])]
  simp only [Bool.false_eq_true, if_false, alone, beq_iff_eq, mget_mput_self]
  split
  case h_1 _ both => exact absurd both (by simp)
  case h_2 => rfl

section
variable (phase : (link d r v).phase = .agree)
include phase

theorem advWord_of_agreed {halves own : BitVec 2} (adv : (link d r v).near.adv = some own) (first : (link d r v).near.sentConf = none)
    (within : own &&& halves = own) : advWord r v false halves (link d r v).joint (link d r v).tid d =
      setLink d r v { link d r v with
        near := { (link d r v).near with gotAdv := some halves, sentConf := some (((link d r v).near.adv.getD 0) &&& halves) } } := by
  have same : toAgree (link d r v) = link d r v := by simp [toAgree, phase]
  unfold advWord
  dsimp only
  rw [if_neg (by simp [ok, st, phase]), same]
  simp [getEnd, putEnd, adv, first, within]

theorem confWord_of_second {halves : BitVec 2} (kind : (link d r v).kind = .saved) (sent : (link d r v).near.sentConf = some halves)
    (some_ : halves ≠ 0#2) (other : (link d r v).far.gotConf.isSome = true) :
    confWord r v false halves (link d r v).joint (link d r v).tid d =
      let l := link d r v
      let up := setLink d r v { l with
        st := .up, phase := .up, width := widthCode halves,
        near := freshEnd { l.near with agreed := halves, gotConf := some halves } true, far := freshEnd l.far true }
      startLink (if l.width = widthCode halves then up else epochLink up r v) r v := by
  unfold confWord
  dsimp only
  rw [if_neg (by simp [ok, st, phase])]
  simp only [getEnd, putEnd, sent, kind, bne_self_eq_false, Bool.false_eq_true, if_false, beq_eq_false_iff_ne.2 some_, Bool.not_false, other,
    if_true, beq_iff_eq, reduceCtorEq]

end

theorem trainTimeout_of_saved (kind : (link d r v).kind = .saved) : trainTimeout r v d =
    if (link d r v).joint = true then startJoint d r v .fresh else startTraining d r v .fresh 3#2 3#2 := by
  simp [trainTimeout, ok, st, kind]

theorem trainTimeout_of_other (kind : (link d r v).kind ≠ .saved) : trainTimeout r v d = dropLink d r v 3 0xFF := by
  simp [trainTimeout, ok, st, kind]

end

/-! ## A link that comes up (R227) -/

theorem chan_startLink {d : Dev} {r v j : Nat} (peer : linkPeer r v = some j) (h : j ≠ r) :
    chan (startLink d r v) r j = { Chan.init with sendK := (chan d r j).sendK, skip := (chan d r j).skip } ∧
    chan (startLink d r v) j r = { Chan.init with sendK := (chan d j r).sendK, skip := (chan d j r).skip } := by
  have small : j < 32 := by
    unfold linkPeer at peer
    split at peer
    · obtain rfl := Option.some.inj peer
      exact Nat.mod_lt _ (by decide)
    · exact absurd peer (by simp)
  unfold startLink
  rw [peer]
  dsimp only
  constructor
  · rw [chan_setChan_other _ _ _ _ _ _ (by omega), chan_setChan_self]
  · rw [chan_setChan_self]

theorem bundle_setBundle_other (d : Dev) (t b : Nat) (up : Bool) (c : Chan) :
    bundle (setBundle d t b up c) t b (!up) = bundle d t b (!up) := by
  have off : 2 * (136 * t + b) + (!up).toNat ≠ 2 * (136 * t + b) + up.toNat := by cases up <;> simp
  exact mget_mput_off Chan.init Chan.init d.bundles _ _ c off

theorem bundle_startLink {d : Dev} {r v : Nat} (alone : linkPeer r v = none) (up : Bool) :
    bundle (startLink d r v) r (v - 64) up = Chan.init := by
  unfold startLink
  rw [alone]
  dsimp only
  cases up
  · rw [bundle_setBundle_self]
  · exact (bundle_setBundle_other _ _ _ _ _).trans (bundle_setBundle_self _ _ _ _ _)

/-- Settles O31: Detect by the kind of the training, each word in its phase, the timeouts, and the state of a link that comes up. -/
theorem trainingWordsAct : Obligations.TrainingWordsAct := by
  unfold Obligations.TrainingWordsAct
  refine ⟨fun s r v hr ok => ⟨fun eyes centre st phase => ⟨fun kind => ?_, fun old kind saved => ⟨fun near far => ?_, fun worse => ?_⟩⟩,
    fun g pos st phase alone => ?_, fun halves tid st phase same => ?_, fun halves tid st phase kind same sent some_ other => ?_,
    fun st kind joint => ?_, fun st kind joint => ?_, fun st kind => ?_⟩, fun d r v => ⟨fun j peer h => ?_, fun alone up => ?_⟩⟩
  · exact exec_next hr rfl (detectLock_of_fresh ok st phase kind)
  · exact exec_next hr rfl ((detectLock_of_saved ok st phase kind saved).trans (if_neg (by rw [near, far]; simp)))
  · exact exec_next hr rfl ((detectLock_of_saved ok st phase kind saved).trans (if_pos worse))
  · refine exec_next hr rfl ?_
    unfold trainArrives
    rw [tKind_bypassBits, tGroup_bypassBits, tPos_bypassBits]
    exact bypassWord_of_alone ok st phase alone
  · rintro ⟨own, adv, first, within⟩
    refine exec_next hr rfl ?_
    unfold trainArrives
    rw [tKind_maskBits, tHalves_maskBits, tJoint_maskBits, tTid_maskBits, same]
    exact advWord_of_agreed ok st phase adv first within
  · refine exec_next hr rfl ?_
    unfold trainArrives
    rw [tKind_maskBits, tHalves_maskBits, tJoint_maskBits, tTid_maskBits, same]
    exact confWord_of_second ok st phase kind sent some_ other
  · exact exec_next hr rfl ((trainTimeout_of_saved ok st kind).trans (if_pos joint))
  · exact exec_next hr rfl ((trainTimeout_of_saved ok st kind).trans (if_neg (by simp [joint])))
  · exact exec_next hr rfl (trainTimeout_of_other ok st kind)
  · obtain ⟨out, back⟩ := chan_startLink (d := d) peer h
    rw [out, back]
    exact ⟨rfl, rfl, rfl, rfl⟩
  · exact bundle_startLink alone up

end Sys2Proof.Machine
end

section
/-!
PROOFS. Descriptors at the heads of their rings (chapter 9): RUN and BATCH_STEP start their units (R240, R258, R259), a core starts its program
(R92), and the stream descriptors (R255 to R257).
-/
namespace Sys2Proof.Machine

/-! ## RUN and BATCH_STEP -/

section
variable {d : Dev} {p q i : Nat} {it : Item} (goes : refusedStart d p it = none) (free : ((entryOf d it).getD []).all (unitFree d) = true)
include goes free

theorem runDesc_of_free (head : readyHead d p q 1 = some (i, it)) :
    runDesc p q d = startEntry d i it ((entryOf d it).getD []) [itw it 2, itw it 3, itw it 4, itw it 5] := by
  simp [runDesc, head, goes, free]

/-- A BATCH_STEP at the head of its ring goes by the stage of its table. -/
theorem batchStepDesc_of_free (head : readyHead d p q 2 = some (i, it)) : batchStepDesc p q d =
    match it.stage with
    | .idle =>
      if tableOk d p (itw it 2 % 2 ^ 44) (bits (itw it 1) 31 16 + 1) then
        newJob (setItem d i (some { it with stage := .reading })) (.table i) false p (itw it 2 % 2 ^ 44) (16 * (bits (itw it 1) 31 16 + 1))
      else finishPlain d i stMalformed
    | .read => batchGo d p i it
    | _ => d := by
  unfold batchStepDesc
  rw [head]
  dsimp only
  rw [goes]
  dsimp only
  exact if_neg (by simp [free])

end

/-- A table that the walkers have found in order: its streams take BUSY, its words 1 are zeroed, and the entry starts once they stand in the
table. -/
theorem batchGo_of_ok {d : Dev} {p i : Nat} {it : Item} (ok : walkCheck d p (tableWords it) = some stOk) : batchGo d p i it =
    let n := bits (itw it 1) 31 16 + 1
    let a := itw it 2 % 2 ^ 44
    let recs := walkOrder ((List.range n).map (fun j => batchRec ((tableWords it).getD j 0) j))
    let y := (List.range n).foldl (fun d j => walkWrite d (a + 16 * j + 8) (zeros 8)) (recs.foldl (fun d b => setBusy d b.record true) d)
    let named := { it with batch := recs, batchAddr := a }
    if walkWaiting y a (16 * n) = [] then batchStart y i named
    else setItem y i (some { named with started := true, units := ((entryOf y named).getD []).map unitNo, stage := .zeroing }) := by
  unfold batchGo batchTable
  dsimp only
  rw [ok]
  dsimp only
  rw [if_neg (by simp)]
  simp only [List.isEmpty_iff]

/-- Settles O32: RUN starts its entry; BATCH_STEP by its stage, its table and what the walkers find. -/
theorem itemStartsUnits : Obligations.ItemStartsUnits := by
  unfold Obligations.ItemStartsUnits
  intro s p q i it hr d us goes free
  refine ⟨fun head => ?_, fun head => ⟨fun idle ok => ?_, fun idle bad => ?_, fun read ok done => ?_, fun read ok waits => ?_⟩⟩
  · exact exec_next hr rfl (runDesc_of_free goes free head)
  · exact exec_next hr rfl ((batchStepDesc_of_free goes free head).trans (by rw [idle]; exact if_pos ok))
  · exact exec_next hr rfl ((batchStepDesc_of_free goes free head).trans (by rw [idle]; exact if_neg (by rw [bad]; simp)))
  · exact exec_next hr rfl ((batchStepDesc_of_free goes free head).trans (by rw [read]; exact (batchGo_of_ok ok).trans (if_pos done)))
  · exact exec_next hr rfl ((batchStepDesc_of_free goes free head).trans (by rw [read]; exact (batchGo_of_ok ok).trans (if_neg waits)))

/-! ## A core starts (R92) -/

/-- A program that starts within what is loaded. -/
theorem startCore_of_loaded {d : Dev} {n entry item : Nat} {args : List Nat} (h : entry < (core d n).loaded) :
    startCore d n entry args item = setCore d n { core d n with
      st := .run, wait := 0, pc := entry, entry := entry, loops := [], holders := [], k := [],
      addr := (List.range 4).foldl (fun m i => mput 0 m (i + 1) (BitVec.ofNat 48 (args.getD i 0))) [],
      item := some item, heelBy := false, heelReq := false } :=
  runPast_of_lt (by rw [core_setCore_self]; exact h)

/-- The registers that take the arguments. -/
theorem mget_argRegs (args : List Nat) (k : Nat) :
    mget (0 : BitVec 48) ((List.range 4).foldl (fun m i => mput 0 m (i + 1) (BitVec.ofNat 48 (args.getD i 0))) []) (k + 1) =
      if k < 4 then BitVec.ofNat 48 (args.getD k 0) else 0 := by
  have four : List.range 4 = [0, 1, 2, 3] := by decide
  rw [four]
  simp only [List.foldl_cons, List.foldl_nil]
  match k with
  | 0 => rw [mget_mput_off _ _ _ _ _ _ (by omega), mget_mput_off _ _ _ _ _ _ (by omega), mget_mput_off _ _ _ _ _ _ (by omega), mget_mput_self]; rfl
  | 1 => rw [mget_mput_off _ _ _ _ _ _ (by omega), mget_mput_off _ _ _ _ _ _ (by omega), mget_mput_self]; rfl
  | 2 => rw [mget_mput_off _ _ _ _ _ _ (by omega), mget_mput_self]; rfl
  | 3 => rw [mget_mput_self]; rfl
  | k + 4 =>
    rw [mget_mput_off _ _ _ _ _ _ (by omega), mget_mput_off _ _ _ _ _ _ (by omega), mget_mput_off _ _ _ _ _ _ (by omega),
      mget_mput_off _ _ _ _ _ _ (by omega), if_neg (by omega)]
    rfl

/-- Settles O33: the core as its start leaves it. -/
theorem coreStartsProgram : Obligations.CoreStartsProgram := by
  unfold Obligations.CoreStartsProgram
  intro d n entry item args h
  rw [startCore_of_loaded h, core_setCore_self]
  refine ⟨rfl, rfl, rfl, rfl, rfl, rfl, fun k hk => ?_, fun k hk => ?_, fun m hm => core_setCore_other d n m _ hm⟩
  · exact (mget_argRegs args k).trans (if_pos hk)
  · obtain ⟨j, rfl⟩ : ∃ j, k = j + 1 := ⟨k - 1, by omega⟩
    exact (mget_argRegs args j).trans (if_neg (by omega))

/-! ## Stream descriptors -/

section
variable {d e : Dev} {p q i : Nat} {it : Item}

/-- The words of a record that opens. -/
def openWords (d : Dev) (p : Nat) (it : Item) : List Nat :=
  [p * 2 ^ 17 + bits (itw it 1) 25 20 * 2 ^ 20, itw it 4, itw it 2, 0, itw it 3 % 2 ^ 32, 0, getF d lifePg LIFE.LIFE_STAT_NOTE_IDX * 2 ^ 32,
    it.seq * 2 ^ 32, recStamp d (bits (itw it 1) 19 0), 0, 0, 0, 0, 0, 0, 0]

theorem rget_openWords_part (d : Dev) {p : Nat} (it : Item) (hp : p < 8) : rget (openWords d p it) 0 19 17 = p := by
  simp only [rget, openWords, List.getD_cons_zero, bits]
  omega

theorem rget_openWords_ring (d : Dev) {p : Nat} (it : Item) (hp : p < 8) : rget (openWords d p it) 0 25 20 = bits (itw it 1) 25 20 := by
  simp only [rget, openWords, List.getD_cons_zero, bits]
  omega

theorem streamOpenDesc_of_free (head : readyHead d p q 3 = some (i, it)) (st : partState d p = psLoaded ∨ partState d p = psHalted)
    (own : ownTower d p (recTower (bits (itw it 1) 19 0)) = true) (root : itw it 2 % 2 ^ 44 < 2 ^ 41)
    (rootOwn : ownTower d p (bits (itw it 2 % 2 ^ 44) 40 36) = true) (state : (hkOf d (bits (itw it 1) 19 0)).state = ssFree)
    (held : recHeld d (bits (itw it 1) 19 0) = false) : streamOpenDesc p q d =
      finish (transition (setAcct d (bits (itw it 1) 19 0) (some { Acct.init with part := p })) (bits (itw it 1) 19 0) (openWords d p it) ssOpen
        stOk (itemCause it true) none) i stOk ssFree ssOpen (bits (itw it 1) 19 0) 0 0 [bits (itw it 1) 19 0] := by
  unfold streamOpenDesc
  rw [head]
  refine (if_neg ?_).trans ((if_neg ?_).trans ((if_neg ?_).trans (if_neg ?_)))
  · rcases st with st | st <;> simp [st]
  · simp only [own, rootOwn]
    simpa using root
  · simp [state]
  · simp [held]

/-- What STREAM_ABORT makes of a record of its partition that is live and at rest. -/
theorem abort_of_live {n : Nat} {h : HkRec} (own : h.part = p) (live : liveState h.state = true) (busy : h.busy = false)
    (held : recHeld d n = false) {ws : List Nat} (read : recRead d n = (e, some ws)) :
    (if h.part != p || !liveState h.state then finishPlain d i stNotNow
    else if h.busy || recHeld d n then d
    else
      match recRead d n with
      | (d, none) => finishPlain d i stUncorr
      | (d, some ws) =>
        let d := transition d n ws ssFailed stAborted (itemCause it true) none
        finish d i stAborted h.state ssFailed n (rget ws 3 63 32) (hkOf d n).receipt [n]) =
      let x := transition e n ws ssFailed stAborted (itemCause it true) none
      finish x i stAborted h.state ssFailed n (rget ws 3 63 32) (hkOf x n).receipt [n] := by
  rw [if_neg (by simp [own, live]), if_neg (by simp [busy, held]), read]

theorem streamAbortDesc_of_live (head : readyHead d p q 4 = some (i, it)) (own : (hkOf d (bits (itw it 1) 19 0)).part = p)
    (live : liveState (hkOf d (bits (itw it 1) 19 0)).state = true) (busy : (hkOf d (bits (itw it 1) 19 0)).busy = false)
    (held : recHeld d (bits (itw it 1) 19 0) = false) {ws : List Nat} (read : recRead d (bits (itw it 1) 19 0) = (e, some ws)) :
    streamAbortDesc p q d =
      let x := transition e (bits (itw it 1) 19 0) ws ssFailed stAborted (itemCause it true) none
      finish x i stAborted (hkOf d (bits (itw it 1) 19 0)).state ssFailed (bits (itw it 1) 19 0) (rget ws 3 63 32)
        (hkOf x (bits (itw it 1) 19 0)).receipt [bits (itw it 1) 19 0] := by
  unfold streamAbortDesc
  rw [head]
  exact abort_of_live own live busy held read

section
variable (head : readyHead d p q 5 = some (i, it)) (own : (hkOf d (bits (itw it 1) 19 0)).part = p)
  (state : (hkOf d (bits (itw it 1) 19 0)).state = ssEnded ∨ (hkOf d (bits (itw it 1) 19 0)).state = ssFailed)
  (pending : (hkOf d (bits (itw it 1) 19 0)).pending = false) (acct : acctOf d (bits (itw it 1) 19 0) = none)
  (held : recHeld d (bits (itw it 1) 19 0) = false) (alone : releasing d (bits (itw it 1) 19 0) = false)
include head own state pending acct held alone

theorem streamReleaseDesc_of_free : streamReleaseDesc p q d =
    if !bit (itw it 1) 20 then releaseGo d i it none
    else
      match recRead d (bits (itw it 1) 19 0) with
      | (d, none) => finishPlain d i stUncorr
      | (d, some ws) =>
        newJob (setItem d i (some { it with started := true, stage := .listing })) (.kv i) false p (rget ws 2 43 0) (4 * rget ws 2 63 48) := by
  unfold streamReleaseDesc
  rw [head]
  dsimp only
  rw [if_neg (by rcases state with state | state <;> simp [releaseOk, own, state, pending])]
  exact if_neg (by simp [acct, held, alone])

end
end

/-- Settles O34: each descriptor on a record that it may act on. -/
theorem streamDescriptorsAct : Obligations.StreamDescriptorsAct := by
  unfold Obligations.StreamDescriptorsAct
  intro s p q i it hr
  refine ⟨fun head st own root rootOwn state held => ?_, fun d1 ws head own live busy held read => ?_,
    fun d1 ws head own state pending acct held alone read => ⟨fun keep => ?_, fun clear => ?_⟩, fun head => ?_⟩
  · exact ⟨openWords s.dev p it, rfl, rget_openWords_part s.dev it p.isLt, rget_openWords_ring s.dev it p.isLt,
      exec_next hr rfl (streamOpenDesc_of_free head st own root rootOwn state held)⟩
  · exact exec_next hr rfl (streamAbortDesc_of_live head own live busy held read)
  · refine exec_next hr rfl ((streamReleaseDesc_of_free head own state pending acct held alone).trans ?_)
    rw [if_pos (by simp [keep])]
    unfold releaseGo
    dsimp only
    rw [read]
    rfl
  · refine exec_next hr rfl ((streamReleaseDesc_of_free head own state pending acct held alone).trans ?_)
    rw [if_neg (by simp [clear]), read]
  · exact exec_next hr rfl (by simp [nopDesc, head])

end Sys2Proof.Machine
end

section
/-!
PROOFS. The housekeeping copies of records: what the writes of stored words, of records and of completions leave of them, and a transition of one
record (chapter 9, R252 and R255).
-/
namespace Sys2Proof.Machine

theorem foldl_hk {α : Type} {f : Dev → α → Dev} (h : ∀ d x, (f d x).hk = d.hk) (l : List α) (d : Dev) : (l.foldl f d).hk = d.hk := by
  induction l generalizing d with
  | nil => rfl
  | cons x r ih => exact (ih _).trans (h d x)

/-! ## Retirement and stored words -/

theorem burnFuse_hk (d : Dev) (e die : Nat) : (burnFuse d e die).hk = d.hk := by
  unfold burnFuse
  dsimp only
  split
  · rw [setF_hk]
  · rw [bark_hk]

theorem kennelFlash_hk (d : Dev) (e cause : Nat) : (kennelFlash d e cause).hk = d.hk := by
  unfold kennelFlash
  extract_lets n r a b c f
  split
  · rw [bark_hk, count_hk]
    dsimp only [c]
    split
    · rw [setF_hk, setF_hk]
    · rw [setF_hk]
  · rw [bark_hk]

theorem kennelAdd_hk (d : Dev) (e cause : Nat) : (kennelAdd d e cause).hk = d.hk :=
  (foldl_hk (fun d die => burnFuse_hk d e die) _ _).trans (kennelFlash_hk d e cause)

theorem retireFrame_hk (d : Dev) (t f : Nat) : (retireFrame d t f).hk = d.hk := by
  unfold retireFrame
  dsimp only
  rw [kennelAdd_hk, count_hk, count_hk, setTower_hk]

theorem retireAll_hk (d : Dev) (t : Nat) (sel : Nat → Bool) (fs : List Nat) : (retireAll d t sel fs).hk = d.hk := by
  unfold retireAll
  extract_lets
  rw [count_hk, foldl_hk (fun d f => count_hk d _ _ _), setTower_hk]

theorem failColumn_hk (d : Dev) (t b : Nat) : (failColumn d t b).hk = d.hk := by
  unfold failColumn
  rw [retireAll_hk, setColumn_hk]

theorem failLayer_hk (d : Dev) (t l : Nat) : (failLayer d t l).hk = d.hk := by
  unfold failLayer
  rw [retireAll_hk, setF_hk]

theorem retireLimits_hk (d : Dev) (t f : Nat) : (retireLimits d t f).hk = d.hk := by
  unfold retireLimits
  extract_lets since cl ll b l e inL
  have column_ : e.hk = d.hk := by
    dsimp only [e]
    split
    · rw [kennelAdd_hk, failColumn_hk]
    · rfl
  split
  · rw [kennelAdd_hk, failLayer_hk, column_]
  · exact column_

theorem retirePage_hk (d : Dev) (t k w : Nat) : (retirePage d t k w).hk = d.hk := by
  unfold retirePage
  extract_lets
  rw [retireLimits_hk, bark_hk, retireFrame_hk]
  rfl

theorem bucketAdd_hk (d : Dev) (i : Nat) : (bucketAdd d i).hk = d.hk := by
  unfold bucketAdd
  extract_lets e lv
  have counted : e.hk = d.hk := by
    dsimp only [e]
    split <;> rw [count_hk]
  split
  · rw [setF_hk, counted]
  · rw [bark_hk, count_hk, setF_hk, setF_hk, counted]

theorem corrected_hk (d : Dev) (t f : Nat) : (corrected d t f).hk = d.hk := by
  unfold corrected
  extract_lets a b c now seen x e lim
  have added : e.hk = d.hk := by
    dsimp only [e]
    rw [setTower_hk, bucketAdd_hk, count_hk, count_hk]
  split
  · rw [setTower_hk, added]
  · exact added

theorem readWord_hk (d : Dev) (t k w : Nat) : (readWord d t k w).1.hk = d.hk := by
  unfold readWord
  split
  · exact count_hk _ _ _ _
  · rfl
  · exact corrected_hk _ _ _
  · exact count_hk _ _ _ _
  · exact (retirePage_hk _ _ _ _).trans (count_hk _ _ _ _)

theorem setWord_hk (d : Dev) (t f w : Nat) (v : BitVec 280) : (setWord d t f w v).hk = d.hk := setTower_hk _ _ _

theorem setEBit_hk (d : Dev) (t f blk : Nat) (v : Bool) : (setEBit d t f blk v).hk = d.hk := setTower_hk _ _ _

theorem setEntry_hk (d : Dev) (t k : Nat) (e : MapEntry) : (setEntry d t k e).hk = d.hk := setTower_hk _ _ _

theorem storeWord_hk (d : Dev) (t k w : Nat) (data : List Byte) : (storeWord d t k w data).hk = d.hk := by
  unfold storeWord
  extract_lets e f blk z fill filled
  have kept : filled.hk = d.hk := by
    dsimp only [filled]
    split
    · rfl
    · rw [count_hk, setEBit_hk]
      exact foldl_hk (fun d i => setWord_hk d _ _ _ _) _ d
  clear_value filled
  rw [setEntry_hk, setWord_hk, kept]

theorem readParts_hk (t k : Nat) (ws : List Nat) (d : Dev) : (readParts t k ws d).1.hk = d.hk := by
  induction ws generalizing d with
  | nil => rfl
  | cons w ws ih =>
    have first := readWord_hk d t k w
    unfold readParts
    split
    case h_1 e read => rwa [read] at first
    case h_2 e x read =>
      rw [read] at first
      have rest := ih e
      split
      case h_1 _ more => rw [more] at rest; exact rest.trans first
      case h_2 _ _ more => rw [more] at rest; exact rest.trans first

theorem writePageGo_hk (t k : Nat) (parts : List (Nat × List Byte)) (fuel o : Nat) (bs : List Byte) (d : Dev) :
    (writePageGo t k parts fuel o bs d).hk = d.hk := by
  induction fuel generalizing o bs d with
  | zero => rfl
  | succ fuel ih =>
    unfold writePageGo
    split
    · rfl
    · exact (ih _ _ _).trans (storeWord_hk _ _ _ _ _)

theorem writePage_hk (d : Dev) (t k o : Nat) (bs : List Byte) : (writePage d t k o bs).1.hk = d.hk := by
  have read := readParts_hk t k (partWords o bs.length) d
  unfold writePage
  split
  case h_1 e parts => rwa [parts] at read
  case h_2 e ps parts =>
    rw [parts] at read
    exact (writePageGo_hk _ _ _ _ _ _ _).trans read

theorem writeTower_hk (d : Dev) (who : Who) (addr : Nat) (bs : List Byte) : (writeTower d who addr bs).1.hk = d.hk := by
  unfold writeTower
  extract_lets t k
  split
  · exact bark_hk _ _ _ _ _ _ _ _
  · have wrote := writePage_hk d t k (bits addr 20 0) bs
    split
    case h_1 e done => rwa [done] at wrote
    case h_2 e done => rw [done] at wrote; exact wrote

/-! ## Writes of records -/

/-- A write of the walkers alone in its column's queue is served as it stands there. -/
theorem serveHead_walker_hk {d : Dev} {t b k o n : Nat} {bs : List Byte} (alone : (column d t b).queue = [⟨k, o, n, .write bs, .walker⟩]) :
    (serveHead d t b).hk = d.hk := by
  have wrote := writeTower_hk (setColumn d t b { column d t b with queue := [] }) (pieceWho d .walker) (devAddr t k o) bs
  unfold serveHead
  simp only [alone]
  split
  case h_1 e done =>
    rw [done] at wrote
    exact (count_hk _ _ _ _).trans wrote
  case h_2 e _ done =>
    rw [done] at wrote
    exact wrote

theorem walkWrite_hk (d : Dev) (a : Nat) (bs : List Byte) : (walkWrite d a bs).hk = d.hk := by
  unfold walkWrite
  extract_lets t k b alone e
  split
  case isTrue now =>
    simp only [alone, Bool.and_eq_true, List.isEmpty_iff] at now
    have queue : (column e t b).queue = [⟨k, bits a 20 0, bs.length, .write bs, .walker⟩] := by
      dsimp only [e, queuePiece]
      rw [column_setColumn_self, now.1, List.nil_append]
    exact (serveHead_walker_hk queue).trans (setColumn_hk _ _ _ _)
  case isFalse => exact setColumn_hk _ _ _ _

theorem recWrite_hk (d : Dev) (n : Nat) (ws : List Nat) : (recWrite d n ws).hk = d.hk := (count_hk _ _ _ _).trans (walkWrite_hk _ _ _)

/-! ## Completions -/

theorem sendFor_hk (d : Dev) (who : Nat) (x : Tlp) : (sendFor d who x).hk = d.hk := by
  unfold sendFor
  split
  · rfl
  · split <;> rfl

theorem devWrite_hk (d : Dev) (host : Bool) (who src addr : Nat) (bs : List Byte) : (devWrite d host who src addr bs).hk = d.hk := by
  unfold devWrite
  split
  · exact sendFor_hk _ _ _
  · split
    · exact setColumn_hk _ _ _ _
    · exact bark_hk _ _ _ _ _ _ _ _

theorem writeCpl_hk (d : Dev) (p q : Nat) (c : Cpl) (rest : List Cpl) : (writeCpl d p q c rest).hk = d.hk := by
  unfold writeCpl
  extract_lets r bs e t r₁ r₂ f g n
  have rung : f.hk = d.hk := (setRq_hk _ _ _ _).trans (devWrite_hk _ _ _ _ _ _)
  have left : g.hk = d.hk := by
    dsimp only [g]
    split
    · split
      · split
        · exact rung
        · exact rung
      · exact rung
    · exact rung
  split
  · exact (sendFor_hk _ _ _).trans left
  · exact left

theorem cplGo_hk (p q fuel : Nat) (d : Dev) : (cplGo p q fuel d).hk = d.hk := by
  induction fuel generalizing d with
  | zero => rfl
  | succ fuel ih =>
    unfold cplGo
    extract_lets r
    split
    · rfl
    · split
      · exact (ih _).trans (writeCpl_hk _ _ _ _ _)
      · rfl

theorem pushCpl_hk (d : Dev) (p q : Nat) (c : Cpl) : (pushCpl d p q c).hk = d.hk := (cplGo_hk _ _ _ _).trans (setRq_hk _ _ _ _)

/-! ## A transition -/

theorem countStream_hk (d : Dev) (p old new : Nat) : (countStream d p old new).hk = d.hk := by
  have step : ∀ (b : Bool) (e : Dev) (f : Fld), (if b then count e (partPg p) f 1 else e).hk = e.hk := by
    intro b e f
    cases b
    · rfl
    · exact count_hk _ _ _ _
  unfold countStream
  extract_lets
  rw [setF_hk, step, step, step, step]

theorem hkOf_of_hk {d e : Dev} (h : e.hk = d.hk) (n : Nat) : hkOf e n = hkOf d n := by rw [hkOf, h, hkOf]

/-- What a transition does to the housekeeping copies: it writes the one of its record. -/
theorem transition_hk (d : Dev) (n : Nat) (ws : List Nat) (new status : Nat) (why : Cause) (d1 : Option Nat) :
    ∃ h : HkRec, h.state = new ∧ (transition d n ws new status why d1).hk = (setHk d n h).hk := by
  unfold transition
  extract_lets h old p q terminal gen own w₁ w₂ busy
  have receipt : (if terminal = true then nextReceipt d else (d, rget ws 6 31 0)).1.hk = d.hk := by
    split
    · exact setF_hk _ _ _ _
    · rfl
  generalize (if terminal = true then nextReceipt d else (d, rget ws 6 31 0)) = x at receipt
  obtain ⟨e, rs⟩ := x
  dsimp -zeta only at receipt ⊢
  extract_lets on pend ep w₃ w₄ out d₁ d₂ d₃ d₄ d₅
  have written : ∃ h' : HkRec, h'.state = new ∧ d₂.hk = (setHk d n h').hk := by
    have copy : ∀ h', (setHk e n h').hk = (setHk d n h').hk := fun h' => by rw [setHk, setHk, receipt]
    dsimp only [d₂]
    split
    case isTrue free =>
      simp only [Bool.and_eq_true, beq_iff_eq] at free
      refine ⟨HkRec.free, free.1.symm, ?_⟩
      rw [← copy HkRec.free]
      dsimp only [d₁, setHk]
      rw [mput_mput]
    case isFalse => exact ⟨_, rfl, copy _⟩
  have left : d₅.hk = d₂.hk := by
    have counted : d₄.hk = d₂.hk := (countStream_hk _ _ _ _).trans (recWrite_hk _ _ _)
    dsimp only [d₅]
    split
    · split
      · exact (setAcct_hk _ _ _).trans counted
      · exact counted
    · exact counted
  obtain ⟨h', state, hk⟩ := written
  refine ⟨h', state, ?_⟩
  split
  · exact left.trans hk
  · exact (pushCpl_hk _ _ _ _).trans (left.trans hk)

/-- Settles O35: a transition writes one housekeeping copy; an item that has ended is passed over. -/
theorem recordsAndItemsHold : Obligations.RecordsAndItemsHold := by
  unfold Obligations.RecordsAndItemsHold
  refine ⟨fun d n ws new status why d1 => ?_, fun d i st1 st2 a b c e f g it hi ended => ⟨?_, ?_⟩⟩
  · obtain ⟨h, state, hk⟩ := transition_hk d n ws new status why d1
    refine ⟨fun m hm => ?_, ?_⟩
    · rw [hkOf_of_hk hk, hkOf_setHk_other _ _ _ _ hm]
    · rw [hkOf_of_hk hk, hkOf_setHk_self, state]
  · simp [finish, hi, ended]
  · simp [endRun, hi, ended]

end Sys2Proof.Machine
end

section
/-!
PROOFS. Flits of a port that is up (chapter 10, R267, R268), and the host's transactions as they are carried out (R278 to R286).
-/
namespace Sys2Proof.Machine

/-! ## Flits (R267, R268) -/

section
variable {d : Dev} {h k : Nat} {f : Flit}

/-- What the header of a good flit that neither acknowledges nor asks for a replay leaves at its port: the credits that it returns. -/
def credited (n : Narta) (f : Flit) : Narta :=
  { n with lastNak := none, heldP := n.heldP + f.pcr.toNat, heldN := n.heldN + f.ncr.toNat, heldC := n.heldC + f.ccr.toNat }

theorem flitBack_of_none (hf : (narta d h).flits = []) (hn : f.nak = false) :
    flitBack d h f = (setNarta d h (credited (narta d h) f), true) := by
  simp [flitBack, ackFlits, nakFlits, hf, hn, credited]

/-- A flit that fails its codeword or its CRC. -/
theorem flitArrives_of_bad (hs : (narta d h).st = psUp) (bad : f.cwOk = false ∨ crc64 (flitBytes k f) ≠ f.crc.toNat) :
    flitArrives k h f d = setNak (count d (hlkPg h) HLK.FLITS_DISCARDED 1) h := by
  unfold flitArrives
  rw [if_neg (by simp [hs]), if_pos (by simpa using bad)]

section
variable (hs : (narta d h).st = psUp) (cw : f.cwOk = true) (crc : crc64 (flitBytes k f) = f.crc.toNat) (hf : (narta d h).flits = [])
  (hn : f.nak = false)
include hs cw crc hf hn

/-- A good flit whose SEQ lies above the one expected. -/
theorem flitArrives_of_ahead (ahead : seqPlace 4096 (narta d h).expect f.seq.toNat = 1) :
    flitArrives k h f d = setNarta d h { credited (narta d h) f with nak := true } := by
  unfold flitArrives
  rw [if_neg (by simp [hs]), if_neg (by simp [cw, crc]), flitBack_of_none hf hn]
  simp only [narta_setNarta_self, show (credited (narta d h) f).expect = (narta d h).expect from rfl, ahead, setNak, setNarta_setNarta]

/-- The good flit that is expected: one that carries transactions gives them to the port. -/
theorem flitArrives_of_next (next : f.seq.toNat = (narta d h).expect) :
    flitArrives k h f d = if k == 0 then setNarta d h (credited (narta d h) f) else
      acceptTlps h (setNarta d h (takeTlps f.seq.toNat 16
        (((f.slots ++ zeros 240).take 240).drop
          (if (narta d h).part.isEmpty then (if f.first.toNat == 15 then 240 else 16 * f.first.toNat) else 0))
        { credited (narta d h) f with expect := ((narta d h).expect + 1) % 4096, nak := false })) := by
  have place : seqPlace 4096 (narta d h).expect f.seq.toNat = 0 := by rw [next, seqPlace_self]
  unfold flitArrives
  rw [if_neg (by simp [hs]), if_neg (by simp [cw, crc]), flitBack_of_none hf hn]
  simp only [narta_setNarta_self, show (credited (narta d h) f).expect = (narta d h).expect from rfl, place, setNarta_setNarta]
  rfl

end

end

/-- Settles O36: a flit by its codeword and CRC, then by its sequence number. -/
theorem flitArrives_obligation : Obligations.FlitArrives := by
  unfold Obligations.FlitArrives
  intro s h f hr hs n m d bad from_
  have again : ∀ x, setNarta d h x = setNarta s.dev h x := setNarta_setNarta _ _ _
  refine ⟨fun cw hf hn crc => ⟨fun next => ?_, fun ahead => ?_⟩, fun cw hf hn crc => ⟨fun next => ?_, fun ahead => ?_⟩,
    fun wrong => ?_, fun wrong => ?_⟩ <;> refine exec_next hr rfl ?_
  · exact (flitArrives_of_next hs cw crc hf hn next).trans (if_pos rfl)
  · exact (flitArrives_of_ahead hs cw crc hf hn ahead).trans (again _).symm
  · rw [again]
    exact (flitArrives_of_next hs cw crc hf hn next).trans (if_neg (by decide))
  · exact (flitArrives_of_ahead hs cw crc hf hn ahead).trans (again _).symm
  · exact flitArrives_of_bad hs wrong
  · exact flitArrives_of_bad hs wrong

/-! ## Writes and reads of registers (R279, R298) -/

/-- A write that the state and the lock of its page allow does what it is to do. -/
theorem writeAllowed_of_allowed {d : Dev} {t : PageType} {pg off : Nat} {v : Word64} (h : Allowed d t pg off v) (act : Dev → Dev × Nat) :
    writeAllowed t pg off v act d = act d := by
  have guard : off ≠ 0x018 := by
    intro e
    have writes := h.writes
    rw [e] at writes
    exact absurd writes (by decide)
  have unlocked : ¬(guarded t off && !pageUnlocked d pg) = true := by
    simp only [Bool.and_eq_true, Bool.not_eq_true', not_and, Bool.not_eq_false]
    exact h.open_
  have there : ¬(pageState d t.code (pageInst t pg) == 0 || pageState d t.code (pageInst t pg) == 3) = true ∧
      ¬(pageState d t.code (pageInst t pg) == 4) = true := by
    rcases h.state with st | st | st <;> simp [st]
  unfold writeAllowed
  dsimp only
  rw [if_neg there.1, if_neg (by simpa using guard), if_neg there.2, if_neg unlocked, if_pos h.writes]

/-- So does a write of a register. -/
theorem ctlWrite_of_allowed {d : Dev} {t : PageType} {pg off : Nat} {v : Word64} (h : Allowed d t pg off v) :
    ctlWrite pg off v d = (lowerRemain pg off (writeReg t.code (pageInst t pg) pg off v d).1, (writeReg t.code (pageInst t pg) pg off v d).2) := by
  unfold ctlWrite
  simp only [h.page, h.legal, Bool.and_false, Bool.false_eq_true, if_false, writeChecked, writeAllowed_of_allowed h]

/-! ## Host requests (R278, R279) -/

section
variable {d : Dev} {h : Nat} {r : RxTlp}

theorem mwr_of_tower {t k o : Nat} (first : firstOf (narta d h) (fun x => tlpType x == tMwr) = some r) (ok : memOk r.tlp = true)
    (at_ : addrKind d.kind (tlpAddr r.tlp) = .tower t k o) (free : (tower d t).hold = false) :
    mwr h d = queuePiece (takeRx d h r) t (pageCol (takeRx d h r) t k) ⟨k, o, r.tlp.data.length, .write r.tlp.data, .hostWrite h r.idx r.seq⟩ := by
  have held : (tower (takeRx d h r) t).hold = false := free
  have place : addrKind (takeRx d h r).kind (tlpAddr r.tlp) = .tower t k o := at_
  simp [mwr, first, ok, place, held]

theorem mrd_of_tower {t k o : Nat} (first : firstOf (narta d h) (fun x => tlpType x == tMrd) = some r) (ok : memOk r.tlp = true)
    (some_ : tlpLen r.tlp ≠ 0) (at_ : addrKind d.kind (tlpAddr r.tlp) = .tower t k o) (free : (tower d t).hold = false) :
    mrd h d = (readPieces (tlpAddr r.tlp) 17 0 (tlpLen r.tlp)).foldl (fun e p => queuePiece e t (pageCol e t k)
      ⟨k, o + p.1, p.2, .read, .hostRead h (tlpTag r.tlp) p.1 (p.1 + p.2 == tlpLen r.tlp) (mget 0 e.ticks (regionDie t))⟩) (takeRx d h r) := by
  have held : (tower (takeRx d h r) t).hold = false := free
  have place : addrKind (takeRx d h r).kind (tlpAddr r.tlp) = .tower t k o := at_
  simp [mrd, first, ok, some_, place, held]

theorem mrd_of_flush (first : firstOf (narta d h) (fun x => tlpType x == tMrd) = some r) (ok : memOk r.tlp = true)
    (none_ : tlpLen r.tlp = 0) :
    mrd h d = setNarta (takeRx d h r) h { narta (takeRx d h r) h with flushes := (narta (takeRx d h r) h).flushes ++ [(tlpTag r.tlp, r.idx)] } := by
  simp [mrd, first, ok, none_]

theorem crd_of_page {pg off : Nat} {t : PageType} (first : firstOf (narta d h) (fun x => tlpType x == tCrd) = some r)
    (ok : badHeader r.tlp = false) (at_ : ctlPlace d (tlpAddr r.tlp) = some (pg, off)) (page : pageTypeOf pg = some t) {e : Dev}
    (he : wServed (takeRx d h r) (portStation h) (pageStation (takeRx d h r) pg) wtPageRead = e) :
    crd h d = sendCpl (lowerRemain pg off e) h (tlpTag r.tlp) 0 stOk true (leBytes 8 (pageValue e t pg off).toNat) := by
  have place : ctlPlace (takeRx d h r) (tlpAddr r.tlp) = some (pg, off) := at_
  simp [crd, first, ok, place, ctlRead, page, he]

/-- A CWR that reaches its page writes it; its completion waits for the drain that the write begins. -/
theorem cwr_of_page {pg off : Nat} (first : firstOf (narta d h) (fun x => tlpType x == tCwr) = some r) (done : performed d h r.idx = true)
    (ok : badHeader r.tlp = false) (at_ : ctlPlace d (tlpAddr r.tlp) = some (pg, off)) {e y : Dev} {st : Nat}
    (he : wServed (takeRx d h r) (portStation h) (pageStation (takeRx d h r) pg) wtPageWrite = e)
    (hw : ctlWrite pg off (BitVec.ofNat 64 (leNat r.tlp.data)) e = (y, st)) :
    (e.drain.isSome = true ∨ y.drain = none → cwr h d = sendCpl y h (tlpTag r.tlp) 0 st true []) ∧
    ∀ z, e.drain = none → y.drain = some z → cwr h d = { y with drain := some { z with cpl := some (h, tlpTag r.tlp) } } := by
  have place : ctlPlace (takeRx d h r) (tlpAddr r.tlp) = some (pg, off) := at_
  refine ⟨fun stays => ?_, fun z was begins => ?_⟩
  · rcases stays with was | none_
    · obtain ⟨z, hz⟩ := Option.isSome_iff_exists.mp was
      simp [cwr, first, done, ok, place, he, hw, hz]
    · cases e.drain <;> simp [cwr, first, done, ok, place, he, hw, none_]
  · simp [cwr, first, done, ok, place, he, hw, was, begins]

end

/-- Settles O37: each request that is first of its kind, by where it reaches. -/
theorem hostRequestsAct : Obligations.HostRequestsAct := by
  unfold Obligations.HostRequestsAct
  intro s h r hr d x e
  refine ⟨fun t k o first ok at_ free => exec_next hr rfl (mwr_of_tower first ok at_ free),
    fun t k o first ok some_ at_ free => exec_next hr rfl (mrd_of_tower first ok some_ at_ free),
    fun first ok none_ => exec_next hr rfl (mrd_of_flush first ok none_),
    fun pg off t first ok at_ page => exec_next hr rfl (crd_of_page first ok at_ page rfl),
    fun pg off t first done ok at_ => ?_⟩
  intro e v w y allowed
  obtain ⟨stays, begins⟩ := cwr_of_page first done ok at_ rfl (ctlWrite_of_allowed allowed)
  exact ⟨fun now => exec_next hr rfl (stays now), fun z was now => exec_next hr rfl (begins z was now)⟩

/-! ## Completions and doorbells (R281, R286) -/

/-- To take a transaction leaves the port's reads as they are. -/
theorem takeRx_reads (d : Dev) (h : Nat) (r : RxTlp) : (narta (takeRx d h r) h).reads = (narta d h).reads := by
  simp only [takeRx, narta_setNarta_self, freePlace]
  split
  · rfl
  · split
    · rfl
    · split <;> rfl

section
variable {d : Dev} {h : Nat}

/-- The CPL that brings the last bytes of a job's read. -/
theorem cpl_of_last {r : RxTlp} {q : DevReq} {i : Nat} (first : firstOf (narta d h) (fun x => tlpType x == tCpl) = some r)
    (read : mget none (narta d h).reads (tlpTag r.tlp) = some q) (job : q.purpose = .job i) (last : tlpLast r.tlp = true)
    (ok : tlpStatus r.tlp = stOk) (whole : (q.data ++ r.tlp.data).length = q.len) {e : Dev} (he : takeRx d h r = e) :
    cpl h d = jobData (setNarta e h { narta e h with reads := mput none (narta e h).reads (tlpTag r.tlp) none }) i (.ok (q.data ++ r.tlp.data)) := by
  have here : mget none (narta e h).reads (tlpTag r.tlp) = some q := by rw [← he, takeRx_reads, read]
  unfold cpl
  simp only [first, he, here, last, Bool.not_true, Bool.false_and, Bool.false_eq_true, if_false, job, ok, bne_self_eq_false, whole, beq_self_eq_true, if_true]

theorem doorbell_of_first {mc off : Nat} {r : RxTlp}
    (first : firstOf (narta d h) (fun x => tlpType x == tMsg && x.w1.toNat % 256 == mc) = some r) (done : performed d h r.idx = true) :
    doorbell mc off h d = (ctlWrite (partPg (bits r.tlp.w1.toNat 18 16)) (off + 16 * bits r.tlp.w1.toNat 24 19)
      (BitVec.ofNat 64 (bits r.tlp.w1.toNat 40 25)) (takeRx d h r)).1 := by
  unfold doorbell
  simp only [first, done, Bool.not_true, Bool.false_eq_true, if_false]

theorem cplTimeout_of_job {tag : Nat} {q : DevReq} {i : Nat} (read : mget none (narta d h).reads tag = some q) (job : q.purpose = .job i) :
    cplTimeout h tag d = jobData (bark (count (setNarta d h { narta d h with reads := mput none (narta d h).reads tag none }) (hlkPg h)
      HLK.CPL_TIMEOUTS 1) 0x1704 (hlkPg h) (portDie h) 2 none (some stLink) ([BitVec.ofNat 8 h] ++ zeros 7 ++ leBytes 8 q.addr)) i (.error stLink) := by
  unfold cplTimeout
  simp only [read, job]

end

/-- Settles O38: the last CPL of a read, the two doorbells and the timeout. -/
theorem completionsAndDoorbells : Obligations.CompletionsAndDoorbells := by
  unfold Obligations.CompletionsAndDoorbells
  intro s h hr d
  exact ⟨fun r q i first read job last ok whole => exec_next hr rfl (cpl_of_last first read job last ok whole rfl),
    fun r first done => exec_next hr rfl (doorbell_of_first first done),
    fun r first done => exec_next hr rfl (doorbell_of_first first done),
    fun tag q i read job => exec_next hr rfl (cplTimeout_of_job read job)⟩

end Sys2Proof.Machine
end

section
/-!
PROOFS. Training and timers of a host port (chapter 10, R270 to R275): each record in its phase.
-/
namespace Sys2Proof.Machine

/-! ## The window of 1 ms (R274) -/

/-- Entries that are all set to 0 read 0. -/
theorem mget_foldl_zero (f : Nat → Nat) (k : Nat) (ls : List Nat) (m : List (Nat × Nat)) (zero : ∀ l ∈ ls, f l = 0)
    (hk : k ∈ ls ∨ mget 0 m k = 0) : mget 0 (ls.foldl (fun m l => mput 0 m l (f l)) m) k = 0 := by
  induction ls generalizing m with
  | nil => simpa using hk
  | cons l ls ih =>
    rw [List.foldl_cons]
    refine ih _ (fun x hx => zero x (List.mem_cons_of_mem _ hx)) ?_
    by_cases same : k = l
    · right
      rw [same, zero l List.mem_cons_self, mget_mput_self]
    · rcases hk with mem | was
      · exact .inl ((List.mem_cons.mp mem).resolve_left same)
      · right
        rw [mget_mput_off _ _ _ _ _ _ same, was]

theorem foldl_count_narta (pg : Nat) (f : Nat → Fld) (n : Nat → Nat) (ls : List Nat) (d : Dev) :
    (ls.foldl (fun d l => count d pg (f l) (n l)) d).narta = d.narta := by
  induction ls generalizing d with
  | nil => rfl
  | cons l ls ih => exact (ih _).trans (count_narta ..)

/-- A window in which no lane passes its limit only counts. -/
theorem laneWindow_of_quiet {d : Dev} {h : Nat} {cor : List Nat} (cw : Nat) (up : (narta d h).st = psUp)
    (quiet : ∀ l, l < 16 → cor.getD l 0 ≤ getF d (hlkPg h) HLK.LANE_LIM) :
    ∃ x o, laneWindow h cor cw d = setNarta x h { narta d h with overrun := o } ∧ x.narta = d.narta ∧ ∀ l, l < 16 → mget 0 o l = 0 := by
  unfold laneWindow
  rw [if_neg (by simp [up])]
  extract_lets lim d₁ d₂ n overrun lost d₃
  have same : d₂.narta = d.narta := (foldl_count_narta _ _ _ _ _).trans (count_narta ..)
  have here : n = narta d h := congrArg (fun m => mget Narta.init m h) same
  have zero : ∀ l, l < 16 → mget 0 overrun l = 0 := fun l hl =>
    mget_foldl_zero _ l _ _ (fun k hk => if_neg (by
      rw [decide_eq_false (Nat.not_lt.mpr (quiet k (List.mem_range.mp hk)))]
      simp)) (.inl (List.mem_range.mpr hl))
  have none_ : lost = [] := List.filter_eq_nil_iff.mpr fun l hl => by simp [zero l (List.mem_range.mp hl)]
  refine ⟨d₂, overrun, ?_, same, zero⟩
  rw [if_pos (by rw [none_]; rfl)]
  exact congrArg (fun m => setNarta d₂ h { m with overrun := overrun }) here

/-! ## Training records (R270 to R273) -/

section
variable {d : Dev} {h : Nat} {r : Word64}

theorem nartaAdvRec_of_agree {usable own : BitVec 16} (st : (narta d h).st = psTraining) (phase : (narta d h).phase = .agree)
    (conf : (narta d h).conf = none) (ok : recordOk 3 r = true) (kind : (narta d h).kind ≠ .fresh) (notFull : trFull r = false)
    (full : (narta d h).full = false) (mask : (narta d h).usable &&& ~~~(narta d h).failed &&& (narta d h).agreed = own)
    (kept : own &&& trMask r = own) (width : chooseWidth own ≠ none) :
    nartaAdvRec h r usable d = setNarta d h { narta d h with
      farAdv := some (trMask r), farFull := false, farTid := trTid r, sentAdv := some own, conf := some own } := by
  obtain ⟨w, hw⟩ := Option.ne_none_iff_exists'.mp width
  have off : ((narta d h).st == psUp) = false := by simp [st, psUp, psTraining]
  have old : ((narta d h).kind == TrainKind.fresh) = false := beq_false_of_ne kind
  unfold nartaAdvRec
  rw [if_neg (by simp [ok]), if_neg (by simp [off]), if_neg (by simp [notFull])]
  unfold nartaAdvRec.nartaAgree
  rw [if_neg (by simp [inTraining, st, phase, conf])]
  have none_ : own &&& ~~~own = 0 := by simp
  simp [ownMask, full, old, mask, kept, notFull, hw, none_]

theorem nartaConfRec_of_match (st : (narta d h).st = psTraining) (phase : (narta d h).phase = .agree) (ok : recordOk 4 r = true)
    (conf : (narta d h).conf = some (trMask r)) (tid : trTid r = (narta d h).tid ∨ trTid r = (narta d h).farTid) :
    nartaConfRec h r d = setNarta d h { narta d h with
      agreed := trMask r, width := ((chooseWidth (trMask r)).getD (3, 0)).1, lanes := ((chooseWidth (trMask r)).getD (3, 0)).2,
      conf := none, phase := .start } := by
  have taken : (inTraining (narta d h) && (narta d h).phase == .agree && recordOk 4 r &&
      (trTid r == (narta d h).tid || trTid r == (narta d h).farTid)) = true := by
    simpa [inTraining, st, phase, ok] using tid
  have narrow : ((narta d h).st == psWidth) = false := by simp [st, psWidth, psTraining]
  simp [nartaConfRec, conf, taken, narrow]

end

/-- Settles O39: the timers, then each record in its phase. -/
theorem hostPortTrains : Obligations.HostPortTrains := by
  unfold Obligations.HostPortTrains
  constructor
  · intro s h hr d n
    refine ⟨fun up => ?_, fun training => ?_, fun failed => ?_, fun running sig => ?_, fun cor cw up quiet => ?_⟩
    case refine_5 =>
      obtain ⟨x, o, eq, same, zero⟩ := laneWindow_of_quiet cw up quiet
      exact ⟨x, o, exec_next hr rfl eq, same, zero⟩
    all_goals refine exec_next hr rfl ?_
    · exact if_pos (beq_iff_eq.mpr up)
    · exact if_pos (by simpa [inTraining] using training)
    · simp [portRetry, show (narta s.dev h).st = psFailed from failed, d, n]
    · simp [portRetry, show (narta s.dev h).st ≠ psFailed from running, d, n]
  · intro s h hr st d n
    refine ⟨fun inv phase => ?_, fun r lane phase ok order => ?_, fun r phase ok preset => ?_,
      fun r usable phase conf ok kind notFull full => ?_, fun r phase ok conf tid => ?_, fun r phase ok kind => ?_⟩
    case refine_4 =>
      intro own kept width
      exact exec_next hr rfl (nartaAdvRec_of_agree st phase conf ok kind notFull full rfl kept width)
    all_goals refine exec_next hr rfl ?_
    · exact if_pos (by simp [show (narta s.dev h).phase = _ from phase, st])
    · exact if_pos (by simpa [show (narta s.dev h).phase = _ from phase, st, ok] using order)
    · exact if_pos (by simpa [show (narta s.dev h).phase = _ from phase, st, ok] using preset)
    · exact nartaConfRec_of_match st phase ok conf tid
    · exact (if_pos (by simp [show (narta s.dev h).phase = _ from phase, st, ok])).trans (if_neg (by simpa using kind))

end Sys2Proof.Machine
end

section
/-!
PROOFS. Control pages (chapter 11): what a write of a register, of PAGE_GUARD and of a counter does, and what it leaves (R297 to R302).
-/
namespace Sys2Proof.Machine

/-! ## Writes by their page's state, lock and codes (R298 to R300) -/

section
variable {d : Dev} {t : PageType} {pg off : Nat} {v : Word64}

theorem ctlReserved_false (there : pageTypeOf pg = some t) (h : off % 8 = 0) (less : off < 4096) : ctlReserved pg off = false := by
  simp [ctlReserved, there, h, less]

/-- A write through the lead of a place that is not reserved. -/
theorem control_of_served (lead : served d = true) (there : ctlReserved pg off = false) : control pg off v d = (ctlWrite pg off v d).1 := by
  simp [control, lead, there]

/-- A write that places a reserved code only lowers REMAIN. -/
theorem ctlWrite_of_reserved (page : pageTypeOf pg = some t) (writes : writable off = true)
    (code : reservedCode d t.code (pageInst t pg) off v = true) : (ctlWrite pg off v d).1 = lowerRemain pg off d := by
  simp [ctlWrite, page, writes, code]

theorem ctlWrite_of_legal (page : pageTypeOf pg = some t) (code : (writable off && reservedCode d t.code (pageInst t pg) off v) = false) :
    (ctlWrite pg off v d).1 = lowerRemain pg off (writeChecked t pg off v d).1 := by
  simp [ctlWrite, page, code]

/-- A page that is ABSENT, MUZZLED or RESET, or locked where that counts, refuses. -/
theorem writeChecked_of_shut (guard : off ≠ 0x018)
    (shut : pageState d t.code (pageInst t pg) = 0 ∨ pageState d t.code (pageInst t pg) = 3 ∨ pageState d t.code (pageInst t pg) = 4 ∨
      (guarded t off = true ∧ pageUnlocked d pg = false)) : (writeChecked t pg off v d).1 = notNow d pg := by
  unfold writeChecked writeAllowed
  dsimp only
  by_cases gone : pageState d t.code (pageInst t pg) = 0 ∨ pageState d t.code (pageInst t pg) = 3
  · rw [if_pos (by simpa using gone)]
    rfl
  · rw [if_neg (by simpa using gone), if_neg (by simpa using guard)]
    by_cases held : pageState d t.code (pageInst t pg) = 4
    · rw [if_pos (by simpa using held)]
      rfl
    · rw [if_neg (by simpa using held), if_pos (by simp only [not_or] at gone; simpa [gone, held] using shut)]
      rfl

/-- A register that takes no writes stands. -/
theorem writeChecked_of_readOnly (guard : off ≠ 0x018) (fixed : writable off = false)
    (open_ : pageState d t.code (pageInst t pg) ≠ 0 ∧ pageState d t.code (pageInst t pg) ≠ 3 ∧ pageState d t.code (pageInst t pg) ≠ 4) :
    (writeChecked t pg off v d).1 = d := by
  obtain ⟨absent, muzzled, held⟩ := open_
  have free : guarded t off = false := by
    simp only [writable, Bool.or_eq_false_iff] at fixed
    simp only [guarded, fixed, Bool.false_or, Bool.and_false]
  unfold writeChecked writeAllowed
  dsimp only
  rw [if_neg (by simp [absent, muzzled]), if_neg (by simpa using guard), if_neg (by simpa using held), if_neg (by simp [free]),
    if_neg (by simp [fixed])]

/-- PAGE_GUARD takes REMAIN from its key. -/
theorem ctlWrite_of_guard (page : pageTypeOf pg = some t)
    (open_ : pageState d t.code (pageInst t pg) ≠ 0 ∧ pageState d t.code (pageInst t pg) ≠ 3) :
    (ctlWrite pg 0x018 v d).1 = { d with guards := mput 0 d.guards pg (if v.toNat = pageId t (pageInst t pg) ^^^ 0xA5A5 then 1024 else 0) } := by
  obtain ⟨absent, muzzled⟩ := open_
  have key : pageKey t (pageInst t pg) = pageId t (pageInst t pg) ^^^ 0xA5A5 := rfl
  rw [ctlWrite_of_legal page (by simp [writable]), ← key]
  unfold writeChecked writeAllowed
  dsimp only
  rw [if_neg (by simp [absent, muzzled]), if_pos (beq_self_eq_true 0x018)]
  simp [lowerRemain]

end

theorem remainOf_guards (d : Dev) (g : Map Nat) (pg : Nat) : remainOf { d with guards := g } pg = mget 0 g pg := rfl

/-- A read but of PAGE_GUARD does not depend on the lock. -/
theorem pageState_guards (d : Dev) (g : Map Nat) (code i : Nat) : pageState { d with guards := g } code i = pageState d code i := rfl

theorem readReg_guards (d : Dev) (g : Map Nat) (code i pg off : Nat) :
    readReg { d with guards := g } code i pg off = readReg d code i pg off := rfl

theorem pageValue_guards (d : Dev) (g : Map Nat) (t : PageType) (pg off : Nat) (h : off ≠ 0x018) :
    pageValue { d with guards := g } t pg off = pageValue d t pg off := by
  unfold pageValue
  dsimp only [pageState_guards, readReg_guards]
  simp only [if_neg (show ¬(off == 0x018) = true by simpa using h)]

/-- Settles O40: a write by the state, lock and codes of its page, then PAGE_GUARD and REMAIN. -/
theorem registerCommandsAct : Obligations.RegisterCommandsAct := by
  unfold Obligations.RegisterCommandsAct
  refine ⟨fun s i pg off v row hr lead => ?_, fun s i pg key t row hr lead page => ?_, fun d pg off h => ?_, fun d pg => ?_,
    fun d g t pg off h => pageValue_guards d g t pg off h⟩
  · intro d
    refine ⟨fun reserved => ?_, fun t there page guard => ?_⟩
    · exact exec_next hr (exec_regRow i pg off v s row) (by simp [control, lead, reserved, d])
    · intro st
      have writes : ∀ {e : Dev}, (ctlWrite pg off v d).1 = e → exec i s = .next (s.after e) := fun h =>
        exec_next hr (exec_regRow i pg off v s row) ((control_of_served lead there).trans h)
      refine ⟨fun allowed => exec_allowed i pg off v t s row hr allowed, fun w code => writes (ctlWrite_of_reserved page w code),
        fun w code shut => writes ?_, fun fixed absent muzzled held => writes ?_⟩
      · rw [ctlWrite_of_legal page (by simp [code]), writeChecked_of_shut guard shut]
      · rw [ctlWrite_of_legal page (by simp [fixed]), writeChecked_of_readOnly guard fixed ⟨absent, muzzled, held⟩]
  · intro st n d absent muzzled
    have there : ctlReserved pg 0x018 = false := ctlReserved_false page rfl (by decide)
    refine ⟨exec_next hr (exec_regRow i pg 0x018 key s row) ((control_of_served lead there).trans (ctlWrite_of_guard page ⟨absent, muzzled⟩)), ?_⟩
    exact mget_mput_self _ _ _ _
  · rw [lowerRemain, if_neg (by simpa using h)]
    exact ⟨mget_mput_self _ _ _ _, fun p ne => mget_mput_off _ _ _ _ _ _ ne⟩
  · simp [pageUnlocked, Nat.pos_iff_ne_zero]

/-! ## Registers and counters (R299, R302) -/

theorem storeRw_eq {pg off : Nat} {t : PageType} (page : pageTypeOf pg = some t) (v : Word64) (d : Dev) :
    storeRw pg off v d = setReg d pg off ((getReg d pg off &&& ~~~BitVec.ofNat 64 (rwMask t.fields off)) |||
      (v &&& BitVec.ofNat 64 (rwMask t.fields off))) := by
  simp only [storeRw, page]

/-- Of a word put together under a mask, the part that the mask names and the part that it does not. -/
theorem masked_and (w v m : Word64) : ((w &&& ~~~m) ||| (v &&& m)) &&& m = v &&& m ∧ ((w &&& ~~~m) ||| (v &&& m)) &&& ~~~m = w &&& ~~~m := by
  constructor <;> ext i hi <;> cases hm : m[i] <;> simp [hm]

/-- Settles O41: what a write stores and leaves, and what a counter does. -/
theorem registersHold : Obligations.RegistersHold := by
  unfold Obligations.RegistersHold
  refine ⟨fun d pg off v t page => ?_, fun d pg k f lo w => ⟨?_, fun p o h => getReg_count_other d pg p o f k h⟩⟩
  · intro m
    obtain ⟨within, without⟩ := masked_and (getReg d pg off) v m
    rw [storeRw_eq page, getReg_setReg_self]
    exact ⟨within, without, fun p o h => getReg_setReg_other d pg off p o _ h⟩
  · rw [count, getF_setF_self d pg f _ (by omega), w]

end Sys2Proof.Machine
end

section
/-!
PROOFS. Commands that are a write of a control register (chapter 11): what the pages of cores, floors, towers, rings and links make of one.
-/
namespace Sys2Proof.Machine

/-! ## A command at its page (R298 to R303) -/

@[simp] theorem pageInst_pg (t : PageType) (k : Nat) : pageInst t (t.pg k) = k := Nat.add_sub_cancel_left _ _

/-- A command that its page allows acts as the page's register does. -/
theorem exec_page {i : Instr} {t : PageType} {k off : Nat} {v : Word64} {s : State} {e : Dev} (hr : s.dev.boot.reset = false)
    (allowed : Allowed s.dev t (t.pg k) off v) (row : regRow i = some (t.pg k, off, v))
    (h : (writeReg t.code k (t.pg k) off v s.dev).1 = e) : exec i s = .next (s.after (lowerRemain (t.pg k) off e)) := by
  rw [exec_allowed i _ off v t s row hr allowed, pageInst_pg, h]

/-- An operation that ends well leaves its word in the register. -/
theorem acting_ok {pg off : Nat} {v : Word64} {r : Dev × Nat} {e : Dev} (h : r = (e, stOk)) : (acting pg off v r).1 = storeRw pg off v e := by
  rw [h]
  rfl

theorem starting1_one (f : Dev → Dev × Nat) (d : Dev) : (starting1 1 [(0, f)] d).1 = (f d).1 := by
  simp [starting1, bit]

theorem starting1_first (f g : Dev → Dev × Nat) (d : Dev) : (starting1 1 [(0, f), (1, g)] d).1 = (f d).1 := by
  simp [starting1, bit]

theorem starting1_second (f g : Dev → Dev × Nat) (d : Dev) : (starting1 2 [(0, f), (1, g)] d).1 = (g d).1 := by
  simp [starting1, bit]

/-- The word of a command: OP in its upper 4 bits, the operand below. -/
theorem command_toNat {op n : Nat} (hop : op < 16) (hn : n < 2 ^ 60) : (command op n).toNat = op * 2 ^ 60 + n := by
  rw [command, BitVec.toNat_ofNat]
  exact Nat.mod_eq_of_lt (by omega)

theorem command_op {op n : Nat} (hop : op < 16) (hn : n < 2 ^ 60) : bits (command op n).toNat 63 60 = op := by
  rw [command_toNat hop hn]
  simp only [bits]
  omega

/-- Bits of the operand. -/
theorem command_bits {op n hi lo : Nat} (hop : op < 16) (hn : n < 2 ^ 60) (hi60 : hi < 60) (hlo : lo ≤ hi) :
    bits (command op n).toNat hi lo = bits n hi lo := by
  rw [command_toNat hop hn]
  simp only [bits]
  have split : op * 2 ^ 60 = 2 ^ lo * (2 ^ (hi + 1 - lo) * (op * 2 ^ (59 - hi))) := by
    have whole : 2 ^ 60 = 2 ^ lo * (2 ^ (hi + 1 - lo) * 2 ^ (59 - hi)) := by
      rw [← pow_add, ← pow_add]
      congr 1
      omega
    rw [whole]
    ring
  rw [split, Nat.mul_add_div (Nat.two_pow_pos lo), Nat.mul_add_mod]

/-! ## HEEL_REQ and RESUME (R64, R207) -/

section
variable {d : Dev} {n t : Nat}

theorem coreHeel_of_running (run : (core d n).st = .run ∨ (core d n).st = .wait) : coreHeel n d = setCore d n
    (if (core d n).q = [] then { core d n with st := .heel, heelBy := (core d n).item.isSome, heelReq := false, wait := 0 }
     else { core d n with heelReq := true }) := by
  have asked : coreHeel n d = heelIn (setCore d n { core d n with heelReq := true }) n := by
    rcases run with run | run <;> simp only [coreHeel, run]
  rw [asked, heelIn]
  simp only [core_setCore_self, setCore_setCore]
  by_cases empty : (core d n).q = []
  · rw [if_pos (by simpa [empty] using run), if_pos empty]
  · rw [if_neg (by simp [empty]), if_neg empty]

theorem floorHeel_of_running (run : (floor d t).st = .run ∨ (floor d t).st = .wait) : floorHeel t d = setFloor d t
    (if (floor d t).running = true ∨ (floor d t).time.tails ≠ [] then { floor d t with heelReq := true }
     else { floor d t with st := .heel, heelBy := (floor d t).item.isSome, heelReq := false, wait := 0 }) := by
  have asked : floorHeel t d = floorHeelIn t (setFloor d t { floor d t with heelReq := true }) := by
    rcases run with run | run <;> simp only [floorHeel, run]
  rw [asked, floorHeelIn]
  simp only [floor_setFloor_self, setFloor_setFloor]
  by_cases busy : (floor d t).running = true ∨ (floor d t).time.tails ≠ []
  · rw [if_neg (by rcases busy with busy | busy <;> simp [busy]), if_pos busy]
  · simp only [not_or, Bool.not_eq_true, not_not] at busy
    rw [if_pos (by simpa [busy] using run), if_neg (by simp [busy])]

theorem coreResumeAt_of_heel (heel : (core d n).st = .heel) (by_ : (core d n).heelBy = true) :
    coreResumeAt n d = pump (runPast (setCore d n { core d n with st := .run, heelBy := false }) n) n := if_pos (by simp [heel, by_])

theorem coreResumeAt_of_not (h : (core d n).st = .run ∨ (core d n).st = .wait ∨ (core d n).heelBy = false) :
    coreResumeAt n d = notNow d (corePg n) := if_neg (by rcases h with h | h | h <;> simp [h])

theorem floorResume_of_heel (heel : (floor d t).st = .heel) (by_ : (floor d t).heelBy = true) :
    floorResume t d = floorReserved t (setFloor d t { floor d t with st := .run, heelBy := false, wait := 0 }) := if_pos (by simp [heel, by_])

theorem floorResume_of_not (h : (floor d t).st ≠ .heel ∨ (floor d t).heelBy = false) :
    floorResume t d = notNow d (flrPg t) := if_neg (by rcases h with h | h <;> simp [h])

end

theorem writeReg_coreHeel (n : Nat) (d : Dev) : (writeReg CORE.page.code n (corePg n) 0x040 1 d).1 = coreHeel n d :=
  starting1_first _ _ _

theorem writeReg_coreResume (n : Nat) (d : Dev) : (writeReg CORE.page.code n (corePg n) 0x040 2 d).1 = coreResumeAt n d :=
  starting1_second _ _ _

theorem writeReg_floorHeel (t : Nat) (d : Dev) : (writeReg FLR.page.code t (flrPg t) 0x040 1 d).1 = floorHeel t d :=
  starting1_first _ _ _

theorem writeReg_floorResume (t : Nat) (d : Dev) : (writeReg FLR.page.code t (flrPg t) 0x040 2 d).1 = floorResume t d :=
  starting1_second _ _ _

/-- Settles O42: a unit that runs, one in heel by a request, and one that is neither. -/
theorem heelAndResumeAct : Obligations.HeelAndResumeAct := by
  unfold Obligations.HeelAndResumeAct
  intro s n t hr d c f low lowF
  exact ⟨fun allowed run => exec_page hr allowed rfl ((writeReg_coreHeel n d).trans (coreHeel_of_running run)),
    fun allowed heel by_ => exec_page hr allowed rfl ((writeReg_coreResume n d).trans (coreResumeAt_of_heel heel by_)),
    fun allowed no => exec_page hr allowed rfl ((writeReg_coreResume n d).trans (coreResumeAt_of_not no)),
    fun allowed run => exec_page hr allowed rfl ((writeReg_floorHeel t d).trans (floorHeel_of_running run)),
    fun allowed heel by_ => exec_page hr allowed rfl ((writeReg_floorResume t d).trans (floorResume_of_heel heel by_)),
    fun allowed no => exec_page hr allowed rfl ((writeReg_floorResume t d).trans (floorResume_of_not no))⟩

end Sys2Proof.Machine
end

section
/-!
PROOFS. Commands of the pages of towers, rings and links (chapters 5, 6 and 8).
-/
namespace Sys2Proof.Machine

/-! ## The TWR page (R178, R181, R182) -/

section
variable {d : Dev} {t k : Nat}

/-- A command of the TWR page that is not refused takes its place in its column, at the head of an empty queue at once. -/
theorem twrCommand_of_ready {op perm part : Nat} (fits : k < Config.pages d.kind) (idle : getF d (twrPg t) TWR.TWR_CMD_STAT_BUSY ≠ 1)
    (there : meState (entry d t k) ≠ meAbsent)
    (attr : op = 2 → (mget none (tower d t).place k).isSome = false ∧ ledgerPage d.kind k = false)
    {kind : PieceKind} (hk : (if op == 1 then PieceKind.clear
      else if op == 2 then .setAttr (BitVec.ofNat 4 perm) (BitVec.ofNat 3 part) else .sweep) = kind) :
    ((column d t (pageCol d t k)).queue ≠ [] → twrCommand t op k perm part d =
      (queuePiece (setF d (twrPg t) TWR.TWR_CMD_STAT_BUSY 1) t (pageCol d t k) ⟨k, 0, 0, kind, .twrCmd⟩, stOk)) ∧
    ((column d t (pageCol d t k)).queue = [] → twrCommand t op k perm part d = (hostPiece t (pageCol d t k)
      (queuePiece (setF d (twrPg t) TWR.TWR_CMD_STAT_BUSY 1) t (pageCol d t k) ⟨k, 0, 0, kind, .twrCmd⟩), stOk)) := by
  have taken : ¬(getF d (twrPg t) TWR.TWR_CMD_STAT_BUSY == 1 || meState (entry d t k) == meAbsent ||
      (op == 2 && ((mget none (tower d t).place k).isSome || ledgerPage d.kind k))) = true := by
    by_cases two : op = 2
    · obtain ⟨unplaced, plain⟩ := attr two
      simp [idle, there, unplaced, plain]
    · simp [idle, there, two]
  have queue : (column (setF d (twrPg t) TWR.TWR_CMD_STAT_BUSY 1) t (pageCol d t k)).queue = (column d t (pageCol d t k)).queue := rfl
  unfold twrCommand
  extract_lets absent kind' b d₁ first d₂
  rw [if_neg (by omega), if_neg taken]
  subst hk
  refine ⟨fun some_ => ?_, fun none_ => ?_⟩
  · rw [if_neg (by simpa [first, d₁, b, queue] using some_)]
  · rw [if_pos (by simpa [first, d₁, b, queue] using none_)]

theorem twrMigrate_of_ready {g : Nat} {x : Dev} (fits : k < Config.pages d.kind) (idle : getF d (twrPg t) TWR.TWR_CMD_STAT_BUSY ≠ 1)
    (there : meState (entry d t k) ≠ meAbsent) (whole : meState (entry d t k) ≠ meRetired) (free : planLoaded d (mePart (entry d t k)) = false)
    (frame : frameFor d t k = some g) (moved : migratePage d t k g false = (x, true)) :
    twrMigrate t k d = (setF x (twrPg t) TWR.TWR_CMD_STAT_STATUS stOk, stOk) := by
  unfold twrMigrate
  dsimp only
  rw [if_neg (by omega), if_neg (by simp [idle, there, whole, free])]
  simp only [frame, moved]
  rfl

theorem writeReg_twr (pg off : Nat) (v : Word64) : writeReg TWR.page.code t pg off v d = writeTwr t pg off v d := rfl

/-- A command word on TWR_CMD. -/
theorem writeReg_twrCommand {op n : Nat} (hop : op < 16) (some_ : op ≠ 0) (hn : n < 2 ^ 60) {e : Dev}
    (h : twrCommand t op (bits n 14 0) (bits n 59 56) (bits n 55 53) d = (e, stOk)) :
    (writeReg TWR.page.code t (twrPg t) 0x040 (command op n) d).1 = storeRw (twrPg t) 0x040 (command op n) e := by
  have taken := command_op hop hn
  rw [writeReg_twr, writeTwr]
  simp only [taken]
  rw [if_pos (beq_self_eq_true 0x040), if_neg (by simpa using some_)]
  rw [command_bits hop hn (by decide) (by decide), command_bits hop hn (by decide) (by decide), command_bits hop hn (by decide) (by decide)]
  exact acting_ok h

theorem writeReg_twrMigrate (hk : k < 2 ^ 15) {e : Dev} (h : twrMigrate t k d = (e, stOk)) :
    (writeReg TWR.page.code t (twrPg t) 0x200 (command 1 k) d).1 = storeRw (twrPg t) 0x200 (command 1 k) e := by
  have taken : writeReg TWR.page.code t (twrPg t) 0x200 (command 1 k) d =
      if bits (command 1 k).toNat 63 60 == 0 then stored (twrPg t) 0x200 (command 1 k) d
      else acting (twrPg t) 0x200 (command 1 k) (twrMigrate t (bits (command 1 k).toNat 14 0) d) := rfl
  have low : bits k 14 0 = k := by
    simp only [bits]
    omega
  rw [taken, command_op (by decide) (by omega), if_neg (by decide), command_bits (by decide) (by omega) (by decide) (by decide), low]
  exact acting_ok h

theorem writeReg_latRestart : (writeReg TWR.page.code t (twrPg t) 0x058 1 d).1 = setF d (twrPg t) TWR.HOST_LAT_MAX 0 :=
  starting1_one _ _

end

/-- The fields of a SET_ATTR operand, and of one that is a page alone. -/
theorem attr_bits (k : BitVec 15) (perm : BitVec 4) (part : BitVec 3) :
    bits (perm.toNat * 2 ^ 56 + part.toNat * 2 ^ 53 + k.toNat) 14 0 = k.toNat ∧
    bits (perm.toNat * 2 ^ 56 + part.toNat * 2 ^ 53 + k.toNat) 59 56 = perm.toNat ∧
    bits (perm.toNat * 2 ^ 56 + part.toNat * 2 ^ 53 + k.toNat) 55 53 = part.toNat ∧
    perm.toNat * 2 ^ 56 + part.toNat * 2 ^ 53 + k.toNat < 2 ^ 60 := by
  have := k.isLt
  have := perm.isLt
  have := part.isLt
  simp only [bits]
  omega

/-- Settles O43: CLEAR, SWEEP and SET_ATTR by what waits in their column, then MIGRATE and LAT_RESTART. -/
theorem towerPagesAct : Obligations.TowerPagesAct := by
  unfold Obligations.TowerPagesAct
  intro s t k perm part hr d pg b row first ready attr
  have fits := k.isLt
  have page : bits k.toNat 14 0 = k.toNat := by
    simp only [bits]
    omega
  refine ⟨fun ⟨inside, idle, there⟩ allowed => ?_, fun ⟨inside, idle, there⟩ allowed => ?_,
    fun ⟨inside, idle, there⟩ allowed unplaced plain => ?_, fun g x ⟨inside, idle, there⟩ allowed whole free frame moved => ?_,
    fun allowed => exec_page hr allowed rfl writeReg_latRestart⟩
  · obtain ⟨waits, now⟩ := twrCommand_of_ready (perm := bits k.toNat 59 56) (part := bits k.toNat 55 53) inside idle there
      (op := 1) (fun h => absurd h (by decide)) rfl
    exact ⟨fun h => exec_page hr allowed rfl (writeReg_twrCommand (by decide) (by decide) (by omega) (by rw [page]; exact waits h)),
      fun h => exec_page hr allowed rfl (writeReg_twrCommand (by decide) (by decide) (by omega) (by rw [page]; exact now h))⟩
  · obtain ⟨waits, now⟩ := twrCommand_of_ready (perm := bits k.toNat 59 56) (part := bits k.toNat 55 53) inside idle there
      (op := 3) (fun h => absurd h (by decide)) rfl
    exact ⟨fun h => exec_page hr allowed rfl (writeReg_twrCommand (by decide) (by decide) (by omega) (by rw [page]; exact waits h)),
      fun h => exec_page hr allowed rfl (writeReg_twrCommand (by decide) (by decide) (by omega) (by rw [page]; exact now h))⟩
  · obtain ⟨pageIs, permIs, partIs, less⟩ := attr_bits k perm part
    obtain ⟨waits, now⟩ := twrCommand_of_ready (perm := perm.toNat) (part := part.toNat) inside idle there
      (op := 2) (fun _ => ⟨unplaced, plain⟩) (kind := .setAttr perm part) (by simp)
    exact ⟨fun h => exec_page hr allowed rfl (writeReg_twrCommand (by decide) (by decide) less (by
        rw [pageIs, permIs, partIs]
        exact waits h)),
      fun h => exec_page hr allowed rfl (writeReg_twrCommand (by decide) (by decide) less (by
        rw [pageIs, permIs, partIs]
        exact now h))⟩
  · exact exec_page hr allowed rfl (writeReg_twrMigrate fits (twrMigrate_of_ready inside idle there whole free frame moved))

end Sys2Proof.Machine
end

section
/-!
PROOFS. Commands of the pages of rings, links, partitions and host ports (chapters 5, 8, 9 and 10).
-/
namespace Sys2Proof.Machine

/-! ## The WHS page (R147, R148) -/

section
variable {d : Dev} {w : Nat}

theorem writeReg_whsCheck : (writeReg WHS.page.code w (whsPg w) 0x200 1 d).1 = (whsCheck w d).1 := starting1_first _ _ _

theorem writeReg_whsTake : (writeReg WHS.page.code w (whsPg w) 0x200 2 d).1 = (whsTake w d).1 := starting1_second _ _ _

theorem whsCheck_fst {k r a : Nat} (hk : ringSel d w = k)
    (hc : checkTable d w k (pendTable d w k) (ring d w k).pendCrc.toNat = (r, a)) :
    (whsCheck w d).1 = if r = 1 then setRing d w k { ring d w k with result := r, at_ := a }
      else checkFailed (setRing d w k { ring d w k with result := r, at_ := a }) w k r a none := by
  simp only [whsCheck, hk, hc, beq_iff_eq]
  split <;> rfl

theorem whsTake_of_passed {k : Nat} (hk : ringSel d w = k) (passed : (ring d w k).result = 1) :
    (whsTake w d).1 = setRing d w k { ring d w k with take := true, taken := (pendTable d w k).map (BitVec.ofNat 8) } := by
  simp [whsTake, hk, passed]

end

/-! ## The OPT page (R227, R230, R233) -/

section
variable {d : Dev} {r v : Nat} (sel : optLink d r = v) (free : linkPlanned d r v = false)
include sel free

theorem optRetrain_alone (ok : linkOk r v = true) (there : (link d r v).st ≠ .lost) : optRetrain r false d =
    (startTraining d r v (if savedValid d (saveKey r v) (laneOf r v) = true then .saved else .fresh) 3#2 3#2, stOk) := by
  simp [optRetrain, sel, free, ok, there]

theorem optRetrain_joint (ok : linkOk r v = true) : optRetrain r true d = (startJoint d r v .fresh, stOk) := by
  simp [optRetrain, sel, free, ok]

theorem optLoop_of_free (far : Bool) (ok : linkOk r v = true) (near : far = false → v < 32) : optLoop r far d =
    (setLink { d with freeN := d.freeN + 1 } r v
      { link d r v with st := .loopBack, before := if (link d r v).st = .loopBack then (link d r v).before else (link d r v).st,
                        loopFrames := 0, loopBy := some r, loopSelf := !far, loopSeed := Config.freePrbs (d.freeN + 1), loopKept := [] }, stOk) := by
  have other : v ≠ r := by
    intro same
    simp [linkOk, same] at ok
  have mine : ¬(linkPlanned d r v || (!far && (v ≥ 32 || v == r))) = true := by
    cases far
    · simp [free, other, near rfl]
    · simp [free]
  unfold optLoop
  simp only [sel]
  rw [if_neg mine, if_neg (by simp [ok])]
  simp only [beq_iff_eq]

theorem optLoopEnd_of_looped (looped : (link d r v).st = .loopBack) : optLoopEnd r d =
    (setLink d r v { link d r v with st := (link d r v).before, loopBy := none, loopSelf := false, loopKept := [] }, stOk) := by
  unfold optLoopEnd
  simp only [sel]
  rw [if_neg (by simp [free, looped])]

end

theorem writeReg_optPage (r pg off : Nat) (v : Word64) (d : Dev) : writeReg OPT.page.code r pg off v d = writeOpt r pg off v d := rfl

/-- A command word on the OPT page does what its OP names. -/
theorem writeReg_opt {r op : Nat} {d : Dev} {f : Dev → Dev × Nat} {e : Dev} (h : f d = (e, stOk))
    (row : writeOpt r (optPg r) 0x200 (command op 0) d = acting (optPg r) 0x200 (command op 0) (f d)) :
    (writeReg OPT.page.code r (optPg r) 0x200 (command op 0) d).1 = storeRw (optPg r) 0x200 (command op 0) e := by
  rw [writeReg_optPage, row]
  exact acting_ok h

/-- Settles O44: CHECK and TAKE, then the commands on the selected link. -/
theorem ringAndLinkPagesAct : Obligations.RingAndLinkPagesAct := by
  unfold Obligations.RingAndLinkPagesAct
  intro s w r hr d k low chk v l kept may
  refine ⟨fun allowed => exec_page hr allowed rfl (writeReg_whsCheck.trans (whsCheck_fst rfl rfl)),
    fun allowed passed => exec_page hr allowed rfl (writeReg_whsTake.trans (whsTake_of_passed rfl passed)),
    fun ⟨allowed, free, ok⟩ there => exec_page hr allowed rfl (writeReg_opt (optRetrain_alone rfl free ok there) rfl),
    fun ⟨allowed, free, ok⟩ => exec_page hr allowed rfl (writeReg_opt (optRetrain_joint rfl free ok) rfl), ?_⟩
  intro looped
  exact ⟨fun ⟨allowed, free, ok⟩ near => exec_page hr allowed rfl (writeReg_opt (optLoop_of_free rfl free false ok fun _ => near) rfl),
    fun ⟨allowed, free, ok⟩ => exec_page hr allowed rfl (writeReg_opt (optLoop_of_free rfl free true ok fun h => absurd h (by decide)) rfl),
    fun ⟨allowed, free, ok⟩ on => exec_page hr allowed rfl (writeReg_opt (optLoopEnd_of_looped rfl free on) rfl)⟩

end Sys2Proof.Machine
end

section
/-!
PROOFS. Commands of the pages of partitions and host ports (chapters 9 to 11).
-/
namespace Sys2Proof.Machine

/-! ## The PART page: plans (R241, R242) -/

section
variable {d : Dev} {p : Nat}

theorem planLoad_of_none (none_ : partState d p = psNone) (idle : getF d (partPg p) PART.PLAN_STAT_BUSY ≠ 1) {y : Dev}
    (hy : setF d (partPg p) PART.PLAN_STAT_BUSY 1 = y) :
    planLoad p d = (newJob y (.plan p) (getF y (partPg p) PART.PLAN_LOC == 1) p (getF y (partPg p) PART.PLAN_ADDR) 64, stOk) := by
  subst hy
  unfold planLoad
  exact if_neg (by simp [none_, idle])

theorem planUnload_of_rest (loaded : planLoaded d p = true) (idle : getF d (partPg p) PART.PLAN_STAT_BUSY ≠ 1)
    (held : ∀ r ∈ regionsOf d p, (tower d r).hold = false) (rest : ∀ q, q < 64 → outstanding (rq d p q) = 0) {a b : Dev}
    (ha : dropUnits p (quietRegions (regionsOf d p) (failRecords (setPartState d p psUnloading) p stAborted)).1 = a)
    (hb : endPlan (regionsOf d p) (quietWhistle (regionsOf d p) ((regionsOf d p).foldl (fun d r => mapChans drainedChan r d) a)).1 = b) :
    planUnload p d =
      (planEnds (setPartState { freeSet b p with plans := mput Plan.none b.plans p Plan.none } p psNone) p stOk, stOk) := by
  have towers : (regionsOf d p).any (fun r => (tower d r).hold) = false := by simpa using held
  have items : (List.range 64).any (fun q => outstanding (rq d p q) != 0) = false := by simpa using rest
  subst ha hb
  unfold planUnload
  exact if_neg (by simp [loaded, idle, towers, items])

/-! ## The PART page: rings (R243, R244, R249, R252, R260) -/

/-- The word that RING_CFG keeps: its fields that are not reserved. -/
theorem ringConfig_on {v : Word64} {q : Nat} (sel : getF d (partPg p) PART.RING_SEL_RING = q) (off : rqOn (rq d p q) = false)
    (on : fieldOf v PART.RING_CFG_ENABLE = 1) : (ringConfig p v d).1 = pendingMirrors (setRq d p q
      { RingQ.init with cfg := BitVec.ofNat 64 (v.toNat % 2 ^ 19 - bits v.toNat 4 1 * 2), sqBase := (rq d p q).sqBase,
                        cqBase := (rq d p q).cqBase, streamCpl := (rq d p q).streamCpl }) p q := by
  unfold ringConfig
  rw [sel]
  dsimp only
  rw [if_neg (by simp [off]), if_pos (by simpa using on)]

theorem ringConfig_off {v : Word64} {q : Nat} (sel : getF d (partPg p) PART.RING_SEL_RING = q) (on : rqOn (rq d p q) = true)
    (off : fieldOf v PART.RING_CFG_ENABLE = 0) (rest : outstanding (rq d p q) = 0) :
    (ringConfig p v d).1 = ringOff p q (BitVec.ofNat 64 (v.toNat % 2 ^ 19 - bits v.toNat 4 1 * 2)) d := by
  unfold ringConfig
  rw [sel]
  dsimp only
  rw [if_pos on, if_neg (by simp [off, rest])]

theorem sqDoorbell_of_off {q v : Nat} (off : rqOn (rq d p q) = false) : sqDoorbell p q v d = (notNow d (partPg p), stNotNow) :=
  if_pos (by simp [off])

theorem sqDoorbell_of_beyond {q v : Nat} (on : rqOn (rq d p q) = true) (beyond : sqSize (rq d p q) ≤ v) : sqDoorbell p q v d =
    (bark d 0x1A02 (partPg p) (lead d) 1 (some p) none ([BitVec.ofNat 8 q, 0] ++ leBytes 2 v), stOk) :=
  (if_neg (by simp [on])).trans (if_pos beyond)

theorem sqDoorbell_of_inside {q v : Nat} (on : rqOn (rq d p q) = true) (inside : v < sqSize (rq d p q)) : sqDoorbell p q v d =
    (readNext (setRq d p q { rq d p q with tail := v }) p q, stOk) :=
  (if_neg (by simp [on])).trans (if_neg (by omega))

theorem cqDoorbell_of_off {q v : Nat} (off : rqOn (rq d p q) = false) : cqDoorbell p q v d = (notNow d (partPg p), stNotNow) :=
  if_pos (by simp [off])

theorem cqDoorbell_of_on {q v : Nat} (on : rqOn (rq d p q) = true) : cqDoorbell p q v d =
    (cplPump (setRq d p q { rq d p q with cqHead := v }) p q, stOk) := if_neg (by simp [on])

theorem writeReg_part (pg off : Nat) (v : Word64) : writeReg PART.page.code p pg off v d = writePart p pg off v d := rfl

/-- A command word on PLAN_CMD does what its OP names. -/
theorem writeReg_plan {op : Nat} {f : Dev → Dev × Nat} {e : Dev} (h : f d = (e, stOk))
    (row : writePart p (partPg p) 0x040 (command op 0) d = acting (partPg p) 0x040 (command op 0) (f d)) :
    (writeReg PART.page.code p (partPg p) 0x040 (command op 0) d).1 = storeRw (partPg p) 0x040 (command op 0) e := by
  rw [writeReg_part, row]
  exact acting_ok h

/-- The block table of a PART page is its rings' doorbells, 16 bytes a ring. -/
theorem writePart_doorbell (pg q j : Nat) (v : Word64) (hj : j = 0 ∨ j = 8) : writePart p pg (0xC00 + j + 16 * q) v d =
    if j = 0 then sqDoorbell p q (bits v.toNat 15 0) d else cqDoorbell p q (bits v.toNat 15 0) d := by
  have ne : ∀ k, k < 0xC00 → (0xC00 + j + 16 * q == k) = false := fun k hk => by
    rw [beq_eq_false_iff_ne]
    omega
  unfold writePart
  simp only [ne 0x040 (by decide), ne 0x060 (by decide), ne 0x068 (by decide), ne 0x070 (by decide), ne 0x078 (by decide),
    Bool.false_eq_true, if_false]
  rw [if_pos (by omega), show (0xC00 + j + 16 * q - 0xC00) / 16 = q by omega, show (0xC00 + j + 16 * q) % 16 = j by omega]
  simp only [beq_iff_eq]

theorem low16 (x : BitVec 16) : bits (x.setWidth 64).toNat 15 0 = x.toNat := by
  have := x.isLt
  rw [BitVec.toNat_setWidth]
  simp only [bits]
  omega

theorem writeReg_sqTail (pg q : Nat) (x : BitVec 16) :
    writeReg PART.page.code p pg (0xC00 + 16 * q) (x.setWidth 64) d = sqDoorbell p q x.toNat d := by
  rw [writeReg_part, ← low16 x]
  exact writePart_doorbell pg q 0 _ (.inl rfl)

theorem writeReg_cqHead (pg q : Nat) (x : BitVec 16) :
    writeReg PART.page.code p pg (0xC08 + 16 * q) (x.setWidth 64) d = cqDoorbell p q x.toNat d := by
  rw [writeReg_part, ← low16 x]
  exact writePart_doorbell pg q 8 _ (.inr rfl)

theorem writeReg_ringCfg (pg : Nat) (v : Word64) : writeReg PART.page.code p pg 0x060 v d = ringConfig p v d := rfl

theorem writeReg_ringAbort (pg : Nat) : (writeReg PART.page.code p pg 0x078 1 d).1 =
    abortRing d p (getF d (partPg p) PART.RING_SEL_RING) stAborted := starting1_one _ _

end

/-- Settles O45: plans, then rings by what RING_CFG and the doorbells find. -/
theorem partitionPagesAct : Obligations.PartitionPagesAct := by
  unfold Obligations.PartitionPagesAct
  intro s p q x cfg hr d pg e low
  refine ⟨fun allowed none_ idle => exec_page hr allowed rfl (writeReg_plan (planLoad_of_none none_ idle rfl) rfl),
    fun allowed loaded idle held rest => exec_page hr allowed rfl (writeReg_plan (planUnload_of_rest loaded idle held rest rfl rfl) rfl),
    ?_, fun allowed => exec_page hr allowed rfl (writeReg_ringAbort _),
    fun allowed on inside => ?_, fun allowed on beyond => ?_, fun allowed off => ?_, fun allowed on => ?_, fun allowed off => ?_⟩
  · intro kept
    exact ⟨fun allowed off on => exec_page hr allowed rfl
        ((congrArg Prod.fst (writeReg_ringCfg _ _)).trans (ringConfig_on rfl off on)),
      fun allowed on off rest => exec_page hr allowed rfl
        ((congrArg Prod.fst (writeReg_ringCfg _ _)).trans (ringConfig_off rfl on off rest))⟩
  · exact exec_page hr allowed rfl (by rw [writeReg_sqTail, sqDoorbell_of_inside on inside])
  · exact exec_page hr allowed rfl (by rw [writeReg_sqTail, sqDoorbell_of_beyond on beyond])
  · exact exec_page hr allowed rfl (by rw [writeReg_cqHead, cqDoorbell_of_off off])
  · exact exec_page hr allowed rfl (by rw [writeReg_cqHead, cqDoorbell_of_on on])
  · exact exec_page hr allowed rfl (by rw [writeReg_sqTail, sqDoorbell_of_off off])

/-! ## The HLK page (R270, R275, R289, R309) -/

section
variable {d : Dev} {h : Nat}

theorem fullTrain_of_free (only : ¬(portUp d h = true ∧ portUp d (1 - h) = false)) (on : (narta d h).st ≠ psDisabled) :
    fullTrain h d = (trainFresh d h, stOk) := if_neg (by
  have : ¬(portUp d h && !portUp d (1 - h)) = true := by simpa using only
  simp [this, on])

theorem hlkDisable_of_free (only : ¬(portUp d h = true ∧ portUp d (1 - h) = false)) :
    hlkDisable h d = (setNarta d h { narta d h with stopping := true }, stOk) := if_neg (by simpa using only)

theorem hlkEnable_of_disabled (off : (narta d h).st = psDisabled) : hlkEnable h d = (portState d h psFailed, stOk) :=
  if_pos (by simpa using off)

/-- The port that a home or the system port is to have. -/
theorem hlkCtl_of_up {home sysPort pg : Nat} {want : Nat → Nat}
    (hw : want = fun w => if w < 8 then (if bit home w = true then 1 else 0) else sysPort)
    (up : ∀ w, w < 9 → portUp d (want w) = true ∧ (mget none d.change w = none ∨ mget none d.change w = some (want w))) :
    (hlkCtl home sysPort pg d).1 = (List.range 9).foldl (fun d w => moveHome d w (want w)) d := by
  have free : ¬(List.range 9).any (fun w => !portUp d (want w) || (mget none d.change w).any (· != want w)) = true := by
    simp only [List.any_eq_true, List.mem_range, not_exists, not_and]
    intro w hlt
    obtain ⟨isUp, still⟩ := up w hlt
    rcases still with still | still <;> simp [isUp, still]
  subst hw
  unfold hlkCtl
  dsimp only
  rw [if_neg free]

theorem writeReg_hlkPage (pg off : Nat) (v : Word64) : writeReg HLK.page.code h pg off v d = writeHlk h pg off v d := rfl

/-- A command word on HLK_CMD does what its OP names. -/
theorem writeReg_hlk {op : Nat} {f : Dev → Dev × Nat} {e : Dev} (hf : f d = (e, stOk))
    (row : writeHlk h (hlkPg h) 0x210 (command op 0) d = acting (hlkPg h) 0x210 (command op 0) (f d)) :
    (writeReg HLK.page.code h (hlkPg h) 0x210 (command op 0) d).1 = storeRw (hlkPg h) 0x210 (command op 0) e := by
  rw [writeReg_hlkPage, row]
  exact acting_ok hf

theorem writeReg_hlkCtl (pg : Nat) (v : Word64) :
    writeReg HLK.page.code h pg 0x040 v d = hlkCtl (bits v.toNat 7 0) (bits v.toNat 8 8) pg d := rfl

end

/-- The fields of HLK_CTL. -/
theorem hlkCtl_bits (home : BitVec 8) (sys : HostPort) : bits (BitVec.ofNat 64 (sys.val * 256 + home.toNat)).toNat 7 0 = home.toNat ∧
    bits (BitVec.ofNat 64 (sys.val * 256 + home.toNat)).toNat 8 8 = sys.val := by
  have := home.isLt
  have := sys.isLt
  rw [BitVec.toNat_ofNat, Nat.mod_eq_of_lt (by omega)]
  simp only [bits]
  omega

/-- Settles O46: the commands of a host port, and the homes of HLK_CTL. -/
theorem hostLinkPagesAct : Obligations.HostLinkPagesAct := by
  unfold Obligations.HostLinkPagesAct
  intro s h home sys hr d n pg only want
  refine ⟨fun allowed two on => exec_page hr allowed rfl (writeReg_hlk (fullTrain_of_free two on) rfl),
    fun allowed two => exec_page hr allowed rfl (writeReg_hlk (hlkDisable_of_free two) rfl),
    fun allowed off => exec_page hr allowed rfl (writeReg_hlk (hlkEnable_of_disabled off) rfl), fun allowed up => ?_⟩
  obtain ⟨homeIs, sysIs⟩ := hlkCtl_bits home sys
  refine exec_page hr allowed rfl ?_
  rw [writeReg_hlkCtl, homeIs, sysIs]
  exact hlkCtl_of_up rfl up

end Sys2Proof.Machine
end

section
/-!
PROOFS. Commands of the package's pages and of the pages of start and repair (chapters 11, 12, 15 to 17).
-/
namespace Sys2Proof.Machine

/-- An operation whose status is OK leaves its word in the register. -/
theorem acting_of_ok {pg off : Nat} {v : Word64} {r : Dev × Nat} (h : r.2 = stOk) : (acting pg off v r).1 = storeRw pg off v r.1 :=
  acting_ok (Prod.ext rfl h)

/-! ## The package's pages (R306, R307, R313 to R316, R399, R441, R444, R479) -/

section
variable {d : Dev}

theorem writeReg_evtHead (v : Word64) : (writeReg EVT.page.code 0 evtPg 0x050 v d).1 = storeRw evtPg 0x050 v d := rfl

theorem writeReg_rcptHead (v : Word64) : (writeReg METR.page.code 0 metrPg 0x058 v d).1 = storeRw metrPg 0x058 v d := rfl

theorem writeReg_warmReq (may : mayDrain d = true) (cool : diesHot d = false) :
    (writeReg PKG.page.code 0 pkgPg 0x040 1 d).1 = startDrain false 5 d :=
  (starting1_one _ _).trans (congrArg Prod.fst (if_neg (by simp [may, cool])))

/-- With no note before it a note is taken at once. -/
theorem writeReg_noteTime {utc : Word64} (never : d.noteAt = none) (none_ : d.note = none) :
    (writeReg LIFE.page.code 0 lifePg 0x040 utc d).1 =
      { setF d lifePg LIFE.NOTE_TIME utc.toNat with note := some utc, noteAt := some (mget 0 d.ticks (lead d)) } := by
  have taken : writeReg LIFE.page.code 0 lifePg 0x040 utc d = noteTime utc d := rfl
  have durable : noteDurable d = d := by simp only [noteDurable, none_]
  rw [taken]
  unfold noteTime
  simp only [never, durable, Bool.false_eq_true, if_false]

theorem attest_of_idle (idle : getF d secPg SEC.ATT_STAT_BUSY ≠ 1) (signs : canSign d false = true) :
    attest d = (setF { d with report := some (reportBytes d) } secPg SEC.ATT_STAT_BUSY 1, stOk) :=
  (if_neg (by simpa using idle)).trans (if_neg (by simp [signs]))

theorem writeReg_attest {e : Dev} (h : attest d = (e, stOk)) :
    (writeReg SEC.page.code 0 secPg 0x040 (command 1 0) d).1 = storeRw secPg 0x040 (command 1 0) e := acting_ok h

theorem advanceRollback_of_lower (lower : rollbackOf d < hdrLevel d.boot.header) (room : rollbackOf d < 64) :
    (advanceRollback d).1 = burnTo (hdrLevel d.boot.header) d := congrArg Prod.fst (if_neg (by
  have : ¬(hdrLevel d.boot.header ≤ rollbackOf d) := by omega
  have : ¬(64 ≤ rollbackOf d) := by omega
  simp [*]))

theorem rebase_of_heat (warm : ∀ k ∈ upDies d, 16 ≤ (quad d k).heat.length) :
    (rebase d).1 = coolantCheck ((upDies d).foldl (fun d k =>
      let b := (dieIndex d k).floor.toNat
      let d := setF d clntPg (CLNT.DIE_BASE.at k) b
      let d := setFI d clntPg (CLNT.DIE_INDEX.at k) (relative (dieIndex d k) (baseOf d k))
      life d 7 0 ([BitVec.ofNat 8 k, 2, 0, 0] ++ leBytes 4 b)) d) := by
  have known : (upDies d).any (fun k => (quad d k).heat.length < 16) = false := by simpa using warm
  unfold rebase
  exact congrArg Prod.fst (if_neg (by simp only [known, Bool.false_eq_true, not_false_eq_true]))

end

/-- Settles O47: one case for each command. -/
theorem packagePagesAct : Obligations.PackagePagesAct := by
  unfold Obligations.PackagePagesAct
  intro s x utc hr d
  exact ⟨fun allowed => exec_page hr allowed rfl (writeReg_evtHead _),
    fun allowed => exec_page hr allowed rfl (writeReg_rcptHead _),
    fun allowed may cool => exec_page hr allowed rfl (writeReg_warmReq may cool),
    fun allowed never none_ => exec_page hr allowed rfl (writeReg_noteTime never none_),
    fun allowed idle signs => exec_page hr allowed rfl (writeReg_attest (attest_of_idle idle signs)),
    fun allowed lower room => exec_page hr allowed rfl ((starting1_one _ _).trans (advanceRollback_of_lower lower room)),
    fun allowed => exec_page hr allowed rfl (starting1_one _ _),
    fun allowed warm => exec_page hr allowed rfl ((starting1_one _ _).trans (rebase_of_heat warm)),
    fun allowed => exec_page hr allowed rfl (starting1_one _ _)⟩

/-! ## The BOOT, KAT and KENL pages (R324, R326, R346, R347) -/

section
variable {d : Dev}

theorem loadHost_of_idle (phase : bootPhase d = 3) (idle : getF d bootPg BOOT.BOOT_CMD_STAT_BUSY ≠ 1) :
    loadHost d = (readHostImage none d, stOk) := if_neg (by simp [phase, idle])

theorem writeSlot_of_idle {k : Nat} (other : slotRuns d k = false) (idle : getF d bootPg BOOT.BOOT_CMD_STAT_BUSY ≠ 1) :
    writeSlot k d = (readHostImage (some k) d, stOk) := if_neg (by simp [other, idle])

theorem writeReg_boot (pg off : Nat) (v : Word64) : writeReg BOOT.page.code 0 pg off v d = writeBoot pg off v d := rfl

theorem writeReg_loadHost {e : Dev} (h : loadHost d = (e, stOk)) :
    (writeReg BOOT.page.code 0 bootPg 0x048 (command 1 0) d).1 = storeRw bootPg 0x048 (command 1 0) e := acting_ok h

theorem writeReg_writeSlot {k : Nat} (hk : k < 2) {e : Dev} (h : writeSlot k d = (e, stOk)) :
    (writeReg BOOT.page.code 0 bootPg 0x048 (command 2 k) d).1 = storeRw bootPg 0x048 (command 2 k) e := by
  have low : bits k 0 0 = k := by
    simp only [bits]
    omega
  rw [writeReg_boot, writeBoot, if_pos (beq_self_eq_true 0x048)]
  simp only [command_op (show 2 < 16 by decide) (show k < 2 ^ 60 by omega),
    command_bits (show 2 < 16 by decide) (show k < 2 ^ 60 by omega) (show 0 < 60 by decide) (Nat.le_refl 0), low]
  exact acting_ok h

theorem katRun_snd {r : Nat} {failed : List Nat} (free : partOf d r = none) (idle : getF d katPg KAT.KAT_STAT_BUSY ≠ 1)
    (up : getF d (rgnPg r) RGN.RGN_STAT_STATE = 1) : (katRun r failed d).2 = stOk := by
  unfold katRun
  dsimp -zeta only
  rw [if_neg (by simp [free, idle, up])]

/-- RUN reaches the KAT page as every command does (R298 to R301). -/
theorem katWrite_of_allowed {r : Nat} {failed : List Nat} (allowed : Allowed d KAT.page katPg 0x200 (command 1 r))
    (ok : (katRun r failed d).2 = stOk) : katWrite r failed d = keeps katPg 0x200 (command 1 r) (katRun r failed d).1 := by
  simp only [katWrite, allowed.lead, Bool.not_true, Bool.false_eq_true, if_false, writeAllowed_of_allowed allowed, acting_of_ok ok, keeps]

theorem kenlAdd_of_ok {e : Nat} (ok : entOk e = true) : (kenlAdd e d).1 =
    if entKind e = 3 then retireNamed (bits e 20 16) (bits e 15 0) (kennelAdd d e 8) else kennelAdd d e 8 := by
  unfold kenlAdd
  rw [if_neg (by simp [ok])]
  simp only [beq_iff_eq]

theorem writeReg_kenl (v : Word64) : writeReg KENL.page.code 0 kenlPg 0x200 v d = kenlAdd (v.toNat % 2 ^ 32) d := rfl

theorem reservedCode_kenl (i : Nat) (v : Word64) : reservedCode d KENL.page.code i 0x200 v = !entOk (v.toNat % 2 ^ 32) := rfl

end

theorem low32 (e : BitVec 32) : (e.setWidth 64).toNat % 2 ^ 32 = e.toNat := by
  have := e.isLt
  rw [BitVec.toNat_setWidth]
  omega

/-- Settles O48: one case for each command. -/
theorem bootPagesAct : Obligations.BootPagesAct := by
  unfold Obligations.BootPagesAct
  intro s k r failed e hr d free
  refine ⟨fun allowed phase idle => exec_page hr allowed rfl (writeReg_loadHost (loadHost_of_idle phase idle)),
    fun allowed other idle => exec_page hr allowed rfl (writeReg_writeSlot k.isLt (writeSlot_of_idle other idle)),
    fun allowed out idle up => exec_next hr rfl (katWrite_of_allowed allowed (katRun_snd out idle up)), fun allowed => ?_⟩
  have ok : entOk e.toNat = true := by
    have legal := allowed.legal
    rw [reservedCode_kenl, low32] at legal
    simpa using legal
  refine exec_page hr allowed rfl ((congrArg Prod.fst (writeReg_kenl _)).trans ?_)
  rw [low32]
  exact kenlAdd_of_ok ok

end Sys2Proof.Machine
end

section
/-!
PROOFS. The die checks and the election of the lead (chapter 12, R319 to R321, R336).
-/
namespace Sys2Proof.Machine

/-- What every step of a fold keeps, the fold keeps. -/
theorem foldl_keeps {α β : Type} (g : Dev → β) (f : Dev → α → Dev) (h : ∀ d x, g (f d x) = g d) (xs : List α) (d : Dev) :
    g (xs.foldl f d) = g d := by
  induction xs generalizing d with
  | nil => rfl
  | cons x xs ih => exact (ih _).trans (h d x)

@[simp] theorem bootDie_setBootDie_self (d : Dev) (k : Nat) (x : BootDie) : bootDie (setBootDie d k x) k = x := mget_mput_self _ _ _ _

theorem bootDie_setBootDie_other (d : Dev) (k j : Nat) (x : BootDie) (h : j ≠ k) : bootDie (setBootDie d k x) j = bootDie d j :=
  mget_mput_off _ _ _ _ _ _ h

theorem bootDie_of_boot {d e : Dev} (h : e.boot = d.boot) (k : Nat) : bootDie e k = bootDie d k := by rw [bootDie, bootDie, h]

theorem getF_setBootDie (d : Dev) (k : Nat) (x : BootDie) (pg : Nat) (f : Fld) : getF (setBootDie d k x) pg f = getF d pg f := rfl

/-! ## Bad units (R335) -/

/-- The bad units named are those of the fuse maps whose copies are good, of the field fuses and of the kennel. -/
theorem badEntries_congr {d e : Dev} (maps : e.fuseMaps = d.fuseMaps) (field : e.fieldFuse = d.fieldFuse) (kenl : e.kenl = d.kenl)
    (a : ∀ k, k < 8 → getF e (fusePg k) FUSE.FUSE_STAT_COPY_A_OK = getF d (fusePg k) FUSE.FUSE_STAT_COPY_A_OK)
    (b : ∀ k, k < 8 → getF e (fusePg k) FUSE.FUSE_STAT_COPY_B_OK = getF d (fusePg k) FUSE.FUSE_STAT_COPY_B_OK)
    (records : getF e kenlPg KENL.KENL_STAT_RECORDS = getF d kenlPg KENL.KENL_STAT_RECORDS) : badEntries e = badEntries d := by
  have copies : (List.range 8).flatMap (fuseUnits e) = (List.range 8).flatMap (fuseUnits d) := by
    refine List.flatMap_congr fun k hk => ?_
    rw [fuseUnits, fuseUnits, a k (List.mem_range.mp hk), b k (List.mem_range.mp hk)]
    simp only [fuseCopy, maps]
  have banks : fuseBank e = fuseBank d := by
    funext k
    rw [fuseBank, fuseBank, field]
  rw [badEntries, badEntries, copies, banks, kennelEntries, kennelEntries, kenl, records]

/-- A register of a page beyond those of FUSE and KENL does not name bad units. -/
theorem badEntries_setF_page (d : Dev) (pg v : Nat) (f : Fld) (hf : f.off < 4096) (fuse : fusePg 7 < pg ∨ pg < fusePg 0) (kenl : kenlPg ≠ pg) :
    badEntries (setF d pg f v) = badEntries d := by
  have other : ∀ k, k < 8 → fusePg k ≠ pg := fun k hk => by
    simp only [fusePg, PageType.pg] at fuse ⊢
    omega
  exact badEntries_congr rfl rfl rfl (fun k hk => getF_setF_page hf (by decide) (other k hk))
    (fun k hk => getF_setF_page hf (by decide) (other k hk)) (getF_setF_page hf (by decide) kenl)

/-! ## The die checks (R319, R336) -/

/-- The checks that a die records are its own with CHK_MATCH from the copies. -/
theorem withMatch_bits (d : Dev) (k : Nat) (p : BitVec 8) : withMatch d k p.toNat < 256 ∧
    ∀ i, i < 6 ∨ i = 7 → bit (withMatch d k p.toNat) i = bit p.toNat i := by
  have := p.isLt
  unfold withMatch
  refine ⟨?_, fun i hi => ?_⟩
  · split <;> omega
  · unfold bit
    have cases_ : i = 0 ∨ i = 1 ∨ i = 2 ∨ i = 3 ∨ i = 4 ∨ i = 5 ∨ i = 7 := by omega
    rcases cases_ with rfl | rfl | rfl | rfl | rfl | rfl | rfl <;> split <;> rw [Bool.eq_iff_iff, beq_iff_eq, beq_iff_eq] <;> omega

/-- A write to one register leaves two devices alike in a register alike in it. -/
theorem getReg_setF_congr {d e : Dev} {pg p off v : Nat} {f : Fld} (hoff : f.off = off) (small : off < 4096)
    (h : getReg e p off = getReg d p off) : getReg (setF e pg f v) p off = getReg (setF d pg f v) p off := by
  subst hoff
  unfold setF
  by_cases same : p = pg
  · rw [← same, getReg_setReg_self, getReg_setReg_self, h]
  · have other : regKey p f.off ≠ regKey pg f.off := by
      unfold regKey
      omega
    rw [getReg_setReg_other _ _ _ _ _ _ other, getReg_setReg_other _ _ _ _ _ _ other, h]

/-- A field beside the one written, whatever its page. -/
theorem getF_setF_aside {d : Dev} {pg p v : Nat} {f g : Fld} (hw : f.lo + f.w ≤ 64) (hoff : g.off = f.off) (small : f.off < 4096)
    (hd : g.lo + g.w ≤ f.lo ∨ f.lo + f.w ≤ g.lo) : getF (setF d pg f v) p g = getF d p g := by
  by_cases same : p = pg
  · rw [same, getF_setF_off d pg f g v hw hoff hd]
  · exact getF_setF_page small (hoff ▸ small) same

/-- What the checks write to a die's FUSE page names bad units by the two copies' marks alone. -/
theorem badEntries_checked (d : Dev) (a : DieId) (c va vb vm : Nat) :
    badEntries (setF (setF (setF (setF d (dbgPg a) DBG.DBG_CHECK c) (fusePg a) FUSE.FUSE_STAT_COPY_A_OK va) (fusePg a)
      FUSE.FUSE_STAT_COPY_B_OK vb) (fusePg a) FUSE.FUSE_STAT_MATCH vm) =
    badEntries (setF (setF d (fusePg a) FUSE.FUSE_STAT_COPY_A_OK va) (fusePg a) FUSE.FUSE_STAT_COPY_B_OK vb) := by
  have debug : ∀ k, k < 8 → fusePg k ≠ dbgPg a := fun k hk => by
    simp only [fusePg, dbgPg, PageType.pg, FUSE.page, DBG.page]
    omega
  have kennel : kenlPg ≠ fusePg a := by
    simp only [fusePg, kenlPg, PageType.pg, FUSE.page, KENL.page]
    omega
  have kennel' : kenlPg ≠ dbgPg a := by
    simp only [dbgPg, kenlPg, PageType.pg, DBG.page, KENL.page]
    omega
  have marks : ∀ k, k < 8 → getReg (setF (setF (setF d (dbgPg a) DBG.DBG_CHECK c) (fusePg a) FUSE.FUSE_STAT_COPY_A_OK va) (fusePg a)
      FUSE.FUSE_STAT_COPY_B_OK vb) (fusePg k) 0x100 =
      getReg (setF (setF d (fusePg a) FUSE.FUSE_STAT_COPY_A_OK va) (fusePg a) FUSE.FUSE_STAT_COPY_B_OK vb) (fusePg k) 0x100 := fun k hk => by
    refine getReg_setF_congr rfl (by decide) (getReg_setF_congr rfl (by decide) (getReg_setReg_other _ _ _ _ _ _ ?_))
    have := debug k hk
    have off : DBG.DBG_CHECK.off = 0x100 := rfl
    unfold regKey
    omega
  refine badEntries_congr rfl rfl rfl (fun k hk => ?_) (fun k hk => ?_) ?_
  · refine (getF_setF_aside (by decide) (by decide) (by decide) (by decide)).trans ?_
    rw [getF, getF, show FUSE.FUSE_STAT_COPY_A_OK.off = 0x100 from rfl, marks k hk]
  · refine (getF_setF_aside (by decide) (by decide) (by decide) (by decide)).trans ?_
    rw [getF, getF, show FUSE.FUSE_STAT_COPY_B_OK.off = 0x100 from rfl, marks k hk]
  · rw [getF_setF_page (by decide) (by decide) kennel, getF_setF_page (by decide) (by decide) kennel, getF_setF_page (by decide) (by decide) kennel,
      getF_setF_page (by decide) (by decide) kennel', getF_setF_page (by decide) (by decide) kennel, getF_setF_page (by decide) (by decide) kennel]

theorem fusePg_ne_dbgPg (a : DieId) : dbgPg a ≠ fusePg a := by
  simp only [fusePg, dbgPg, PageType.pg, FUSE.page, DBG.page]
  omega

theorem stewPg_ne_dbgPg (a : DieId) (s : Nat) : dbgPg a ≠ stewPg a s := by
  have := a.isLt
  simp only [stewPg, dbgPg, PageType.pg, STEW.page, DBG.page]
  omega

theorem diePg_ne_dbgPg (a : DieId) : dbgPg a ≠ diePg a := by
  simp only [diePg, dbgPg, PageType.pg, DIE.page, DBG.page]
  omega

/-- The die checks of a die that takes part in a start: what they record, and that the die is healthy where all that it needs has passed. -/
theorem dieChecks_spec {d : Dev} (a : DieId) (p : BitVec 8) {chk : Nat} (hchk : withMatch d a p.toNat = chk) (reset : d.boot.reset = false)
    (on : d.boot.on = true) (phase : bootPhase d ≤ 1) (open_ : (bootDie d a).closed = false)
    (whole : getF d (dbgPg a) DBG.DBG_MODE_STANDALONE ≠ 1) {named : List Nat}
    (hnamed : badEntries (setF (setF d (fusePg a) FUSE.FUSE_STAT_COPY_A_OK (bit chk 4).toNat) (fusePg a) FUSE.FUSE_STAT_COPY_B_OK
      (bit chk 5).toNat) = named)
    (good : named.contains (entSteward a 0) = false ∧ named.contains (entSteward a 1) = false) :
    getF (dieChecks a p d) (dbgPg a) DBG.DBG_CHECK = chk ∧
      (bootDie (dieChecks a p d) a).healthy = (bit p.toNat 0 && bit p.toNat 3 && bit p.toNat 7 && (bit p.toNat 1 || bit p.toNat 2) &&
        fusesUsable d a chk) ∧
      ∀ k, k ≠ a.val → bootDie (dieChecks a p d) k = bootDie d k := by
  obtain ⟨less, kept⟩ := withMatch_bits d a p
  obtain ⟨good0, good1⟩ := good
  rw [hchk] at less kept
  have ne := fusePg_ne_dbgPg a
  unfold dieChecks
  rw [if_neg (by simp [reset, on, open_, phase])]
  extract_lets c d₁ fuses f d₂ alone st body d₃ fresh d₄ d₅
  have hc : c = chk := hchk
  have recorded : getF d₂ (dbgPg a) DBG.DBG_CHECK = chk := by
    dsimp only [d₂, d₁, f]
    rw [getF_setF_page (by decide) (by decide) ne, getF_setF_page (by decide) (by decide) ne, getF_setF_page (by decide) (by decide) ne,
      getF_setF_self _ _ _ _ (by decide), hc]
    exact Nat.mod_eq_of_lt (lt_trans less (by decide))
  have units : badEntries d₂ = named := by
    rw [← hnamed, ← hc]
    exact badEntries_checked d a _ _ _ _
  have steward0 : stewardGood d₂ a 0 = bit p.toNat 1 := by
    rw [stewardGood, recorded, units, good0, kept 1 (by decide), Bool.not_false, Bool.and_true]
  have steward1 : stewardGood d₂ a 1 = bit p.toNat 2 := by
    rw [stewardGood, recorded, units, good1, kept 2 (by decide), Bool.not_false, Bool.and_true]
  have both : alone = false := by
    have same : getF d₂ (dbgPg a) DBG.DBG_MODE_STANDALONE = getF d (dbgPg a) DBG.DBG_MODE_STANDALONE := by
      dsimp only [d₂, d₁, f]
      rw [getF_setF_page (by decide) (by decide) ne, getF_setF_page (by decide) (by decide) ne, getF_setF_page (by decide) (by decide) ne]
      refine getF_setF_other _ _ _ _ _ _ ?_
      have check : DBG.DBG_CHECK.off = 0x100 := rfl
      have mode : DBG.DBG_MODE_STANDALONE.off = 0x108 := rfl
      unfold regKey
      omega
    simp only [alone, same, beq_eq_false_iff_ne]
    exact whole
  have sound : body = (bit p.toNat 0 && bit p.toNat 3 && bit p.toNat 7 && (bit p.toNat 1 || bit p.toNat 2)) := by
    simp only [body, st, steward0, steward1, both, hc, kept 0 (by decide), kept 3 (by decide), kept 7 (by decide), Bool.not_false, Bool.and_true]
  have usable : fuses = fusesUsable d a chk := by
    rw [← hc]
    rfl
  have check : getF d₅ (dbgPg a) DBG.DBG_CHECK = chk := by
    dsimp only [d₅]
    rw [getF_setF_page (by decide) (by decide) (diePg_ne_dbgPg a)]
    dsimp only [d₄]
    rw [getF_setBootDie]
    dsimp only [d₃, List.foldl]
    rw [getF_setF_page (by decide) (by decide) (stewPg_ne_dbgPg a 1), getF_setF_page (by decide) (by decide) (stewPg_ne_dbgPg a 0), recorded]
  have boot₃ : d₃.boot = d.boot := foldl_keeps (·.boot) _ (fun e s => setF_boot ..) [0, 1] d₂
  have dies : ∀ k, bootDie d₅ k = bootDie d₄ k := fun k => bootDie_of_boot (setF_boot ..) k
  have healthy : (bootDie d₅ a).healthy = (body && fuses) := by
    rw [dies]
    dsimp only [d₄]
    rw [bootDie_setBootDie_self]
  have others : ∀ k, k ≠ a.val → bootDie d₅ k = bootDie d k := fun k hk => by
    rw [dies]
    dsimp only [d₄]
    rw [bootDie_setBootDie_other _ _ _ _ hk, bootDie_of_boot boot₃]
  rw [← sound, ← usable]
  split
  · exact ⟨check, healthy, others⟩
  · exact ⟨(getF_bark ..).trans check, (congrArg BootDie.healthy (bootDie_of_boot (bark_boot ..) _)).trans healthy,
      fun k hk => (bootDie_of_boot (bark_boot ..) k).trans (others k hk)⟩

/-! ## The election (R321) -/

section
variable {d : Dev}

theorem ready_of_open {a b : Nat} (none_ : d.boot.lead = none) (sends : (bootDie d a).healthy = true) (hears : (bootDie d b).healthy = true)
    (open_ : (bootDie d b).closed = false) (ne : a ≠ b) :
    ready a b d = setBootDie (stewardTells d a b) b { bootDie d b with s := ((bootDie d b).s ++ [a]).eraseDups } :=
  if_neg (by simp [none_, sends, hears, open_, ne])

theorem electionClose_of_open {a : Nat} (reset : d.boot.reset = false) (on : d.boot.on = true) (healthy : (bootDie d a).healthy = true)
    (open_ : (bootDie d a).closed = false) : electionClose a d =
      setPhase (setBootDie d a { bootDie d a with closed := true, s := (a :: (bootDie d a).s).eraseDups }) 1 :=
  if_neg (by simp [reset, on, healthy, open_])

theorem leadMsg_of_candidate {a b : Nat} (on : electing d = true) (candidate : stands d a = true) (ne : a ≠ b)
    (names : (bootDie d a).s.contains b = true) (closed : (bootDie d b).closed = true) (named : (bootDie d b).s.contains a = true) :
    leadMsg a b d = setBootDie (stewardTells (setBootDie d a { bootDie d a with accepted := (bootDie d a).accepted.or (some a) }) a b) b
      { bootDie d b with leads := ((bootDie d b).leads ++ [a]).eraseDups, accepted := (bootDie d b).accepted.or (some a) } := by
  have other : ∀ x, bootDie (setBootDie d a x) b = bootDie d b := fun x => bootDie_setBootDie_other _ _ _ _ (Ne.symm ne)
  unfold leadMsg
  rw [if_neg (by simp only [on, candidate, beq_false_of_ne ne, names, Bool.not_true, Bool.or_self, Bool.false_eq_true, not_false_eq_true])]
  simp only [other]
  rw [if_neg (by simp only [closed, named, Bool.not_true, Bool.or_self, Bool.false_eq_true, not_false_eq_true])]

theorem refuseMsg_of_candidate {a b c : Nat} (on : electing d = true) (candidate : stands d b = true)
    (accepted : (bootDie d a).accepted = some c) (ne : c ≠ b) :
    refuseMsg a b c d = setBootDie (stewardTells d a b) b { bootDie d b with withdrew := some c } :=
  if_neg (by simp [on, candidate, accepted, ne])

theorem acceptMsg_of_named {a b : Nat} (on : electing d = true) (ne : a ≠ b)
    (named : (bootDie d a).accepted = some b ∨ (bootDie d a).withdrew = some b) :
    acceptMsg a b d = setBootDie (stewardTells d a b) b { bootDie d b with accepts := ((bootDie d b).accepts ++ [a]).eraseDups } :=
  if_neg (by rcases named with named | named <;> simp [on, ne, named])

/-- A candidate that leads is the lead. -/
theorem takeLead_lead (c : Nat) (d : Dev) : (takeLead c d).boot.lead = some c := by
  unfold takeLead
  extract_lets took d₁ seat d₂ d₃ d₄
  have led : d₂.boot.lead = some c := congrArg Boot.lead (setF_boot ..)
  have roles : d₃.boot = d₂.boot := by
    refine foldl_keeps (·.boot) _ (fun e k => ?_) _ _
    extract_lets same chk e₁ e₂ up e₃ a e₄
    have marked : e₂.boot = e.boot := by
      refine (setF_boot ..).trans ?_
      dsimp only [e₁]
      split
      · exact setF_boot ..
      · rfl
    have raised : e₄.boot = e.boot := ((setF_boot ..).trans ((setF_boot ..).trans (setF_boot ..))).trans marked
    split
    · split
      · exact (setF_boot ..).trans raised
      · exact raised
    · exact (setF_boot ..).trans marked
  have last : d₄.boot.lead = some c := (congrArg Boot.lead ((setF_boot ..).trans roles)).trans led
  split
  · exact last
  · exact (congrArg Boot.lead (bark_boot ..)).trans last

/-- A round that nobody wins is counted; what the dies have heard is forgotten. -/
theorem electionRoundEnd_of_none (on : electing d = true) (none_ : (List.range 8).find? (fun k =>
    stands d k && (bootDie d k).s.all (fun j => j == k || (bootDie d k).accepts.contains j)) = none) :
    (electionRoundEnd d).boot.round = d.boot.round + 1 ∧ (electionRoundEnd d).boot.lead = none ∧ (electionRoundEnd d).regs = d.regs := by
  have free : d.boot.lead = none := by
    have := on
    simp only [electing, Bool.and_eq_true, Option.isNone_iff_eq_none] at this
    exact this.1.2
  unfold electionRoundEnd
  rw [if_neg (by simp [on])]
  simp only [none_]
  refine ⟨congrArg (· + 1) (foldl_keeps (·.boot.round) _ (fun e k => ?_) _ d),
    (foldl_keeps (·.boot.lead) _ (fun e k => ?_) _ d).trans free, foldl_keeps (·.regs) _ (fun e k => ?_) _ d⟩ <;>
  · split
    · split <;> rfl
    · rfl

theorem electionRoundEnd_of_won {k : Nat} (on : electing d = true) (won : (List.range 8).find? (fun k =>
    stands d k && (bootDie d k).s.all (fun j => j == k || (bootDie d k).accepts.contains j)) = some k) :
    electionRoundEnd d = takeLead k d := by
  unfold electionRoundEnd
  rw [if_neg (by simp [on])]
  simp only [won]

end

/-- Settles O49: the checks of a die, the messages of the election by their conditions, and the end of a round. -/
theorem electionActs : Obligations.ElectionActs := by
  unfold Obligations.ElectionActs
  intro s a b c p hr d x y chk named won
  exact ⟨fun on phase open_ whole good0 good1 => ⟨_, exec_next hr rfl rfl, dieChecks_spec a p rfl hr on phase open_ whole rfl ⟨good0, good1⟩⟩,
    fun none_ sends hears open_ ne => exec_next hr rfl (ready_of_open none_ sends hears open_ (fun h => ne (Fin.ext h))),
    fun on healthy open_ => exec_next hr rfl (electionClose_of_open hr on healthy open_),
    fun on candidate ne names closed listed =>
      exec_next hr rfl (leadMsg_of_candidate on candidate (fun h => ne (Fin.ext h)) names closed listed),
    fun on candidate accepted ne => exec_next hr rfl (refuseMsg_of_candidate on candidate accepted (fun h => ne (Fin.ext h))),
    fun on ne listed => exec_next hr rfl (acceptMsg_of_named on (fun h => ne (Fin.ext h)) listed),
    fun k on wins => ⟨exec_next hr rfl (electionRoundEnd_of_won on wins), takeLead_lead k d⟩,
    fun on none_ => ⟨_, exec_next hr rfl rfl, electionRoundEnd_of_none on none_⟩⟩

end Sys2Proof.Machine
end

section
/-!
PROOFS. Stewards that fail, firmware images, start tests and the map build (chapter 12, R322 to R341).
-/
namespace Sys2Proof.Machine

/-! ## What messages and the log leave of the start's state -/

/-- A message carried leaves all but the rings' words, the sequence numbers and the messages under way. -/
theorem carry_rest (d : Dev) (src dst typ : Nat) :
    ((carry d src dst typ).boot, (carry d src dst typ).regs, (carry d src dst typ).kind) = (d.boot, d.regs, d.kind) := by
  unfold carry
  refine foldl_keeps (fun e => (e.boot, e.regs, e.kind)) _ (fun e h => ?_) _ d
  simp only [setRing_boot, setRing_regs, setRing_kind]

theorem wServed_rest (d : Dev) (src dst typ : Nat) :
    ((wServed d src dst typ).boot, (wServed d src dst typ).regs, (wServed d src dst typ).kind) = (d.boot, d.regs, d.kind) := carry_rest ..

theorem compact_boot (d : Dev) : (compact d).boot = d.boot := by
  unfold compact
  extract_lets old rest newest types keep e f
  exact (setF_boot ..).trans ((count_boot ..).trans (count_boot ..))

@[simp] theorem life_boot (d : Dev) (kind sub : Nat) (bs : List Byte) : (life d kind sub bs).boot = d.boot := by
  unfold life
  extract_lets e f
  have packed : e.boot = d.boot := by
    dsimp only [e]
    split
    · exact compact_boot d
    · rfl
  have counted : f.boot = e.boot := count_boot ..
  exact counted.trans packed

/-! ## Stewards (R322) -/

section
variable {d : Dev}

/-- Where a die's other steward is up, it takes the role of one that fails. -/
theorem stewardFails_of_two {k j : Nat} (die : dieUp d k = true) (up : bit (getF d (diePg k) DIE.DIE_STAT_STEWARDS) j = true)
    (other : bit (getF d (diePg k) DIE.DIE_STAT_STEWARDS) (1 - j) = true) {x y : Dev}
    (hx : setF (setF (setF d (diePg k) DIE.DIE_STAT_STEWARDS (getF d (diePg k) DIE.DIE_STAT_STEWARDS - 2 ^ j)) (stewPg k j)
      STEW.STEW_STAT_STATE 3) (stewPg k j) STEW.STEW_STAT_ROLE 0 = x)
    (hy : setF x (stewPg k (1 - j)) STEW.STEW_STAT_ROLE (getF d (stewPg k j) STEW.STEW_STAT_ROLE) = y) :
    stewardFails k j d = if getF d (stewPg k j) STEW.STEW_STAT_ROLE = 3 then x else if getF d (stewPg k j) STEW.STEW_STAT_ROLE = 1 then
      bark y 0x0902 bootPg k 1 none none [BitVec.ofNat 8 k, BitVec.ofNat 8 (1 - j)] else y := by
  subst hy hx
  unfold stewardFails
  dsimp only
  rw [if_neg (by simp [die, up]), if_pos other]
  simp only [beq_iff_eq]

/-! ## Firmware images (R323 to R325) -/

/-- A slot's image by its VERIFY code. -/
theorem firmwareSelect_of_slot {m c : Nat} {rest : List Nat} (lead_ : d.boot.lead.isSome = true) (phase : bootPhase d = 2 ∨ bootPhase d = 3)
    (next : d.boot.sources = m :: rest) (slot : m < 2) (hc : imageCheck d (lead d) (slotImage d m) = c) :
    (c = 1 → firmwareSelect d = runImage m (slotImage d m) (setF d bootPg (verifyField m) 1)) ∧
    (c ≠ 1 → ∀ y z, setF (count d secPg SEC.VERIFY_FAILS 1) bootPg (verifyField m) c = y →
      bark y 0x0901 bootPg (lead y) 1 none none [BitVec.ofNat 8 m, BitVec.ofNat 8 c] = z →
      firmwareSelect d = sourcesSpent { z with boot := { z.boot with sources := rest } }) := by
  have begun : ¬(d.boot.lead.isNone || !(bootPhase d == 2 || bootPhase d == 3)) = true := by
    obtain ⟨j, hj⟩ := Option.isSome_iff_exists.mp lead_
    rcases phase with phase | phase <;> simp [hj, phase]
  unfold firmwareSelect
  rw [if_neg begun]
  simp only [next, slot, if_true, trySource, verifyImage, hc]
  refine ⟨fun accepted => ?_, fun refused y z hy hz => ?_⟩
  · simp only [accepted, beq_self_eq_true, if_true]
  · subst hz hy
    simp only [beq_false_of_ne refused, Bool.false_eq_true, if_false]

/-- A host source in PHASE 2 trains the ports that are down, and waits. -/
theorem firmwareSelect_of_host {m : Nat} {rest : List Nat} (lead_ : d.boot.lead.isSome = true) (phase : bootPhase d = 2)
    (next : d.boot.sources = m :: rest) (host : 2 ≤ m) :
    firmwareSelect d = setPhase ([0, 1].foldl (fun d h =>
      if dieUp d (portDie h) = true ∧ (narta d h).st = psDown then trainFresh d h else d) d) 3 := by
  obtain ⟨j, hj⟩ := Option.isSome_iff_exists.mp lead_
  unfold firmwareSelect
  rw [if_neg (by simp [hj, phase])]
  simp only [next, Nat.not_lt.mpr host, if_false, phase, beq_self_eq_true, if_true, Bool.and_eq_true, beq_iff_eq]

/-- One in PHASE 3 that has given no image is passed over. -/
theorem firmwareSelect_of_spent {m : Nat} {rest : List Nat} (lead_ : d.boot.lead.isSome = true) (phase : bootPhase d = 3)
    (next : d.boot.sources = m :: rest) (host : 2 ≤ m) (idle : getF d bootPg BOOT.BOOT_CMD_STAT_BUSY ≠ 1)
    (spent : getF d bootPg BOOT.BOOT_STAT_VERIFYH ≠ 0 ∨ anyPortUp d = false) :
    firmwareSelect d = sourcesSpent (setPhase { d with boot := { d.boot with sources := rest } } 2) := by
  obtain ⟨j, hj⟩ := Option.isSome_iff_exists.mp lead_
  unfold firmwareSelect
  rw [if_neg (by simp [hj, phase])]
  simp only [next, Nat.not_lt.mpr host, if_false]
  rw [if_neg (by simp [phase]), if_neg (by simpa using idle), if_pos (by simpa using spent)]

section
variable {n sec : Nat} (data : List Byte) (phase : bootPhase d = 4) (inside : sec < hdrSections d.boot.header)
  (takes : (receivers d (hdrSect d.boot.header sec).kind).contains n = true) (new : d.boot.got.contains (n, sec) = false) {x : Dev}
  (hx : wServed d (stewardStation d (lead d)) (rcvStation d n) wtFirmware = x)
include phase inside takes new hx

/-- A section that its receiver takes has been carried to it. -/
theorem firmwareBlock_of_taken : firmwareBlock n sec data d =
    if Config.rootDigest (rcvDie n) != Config.rootDigest (lead d) then broadcastEnds (receiverBad (rcvDie n) x)
    else if sha512 data == (hdrSect d.boot.header sec).digest then broadcastEnds (takeSection n sec (hdrSect d.boot.header sec).kind data x)
    else if d.boot.miss.contains (n, sec) then broadcastEnds (receiverBad n x)
    else { x with boot := { x.boot with miss := x.boot.miss ++ [(n, sec)] } } := by
  obtain ⟨before, regs, kind⟩ : x.boot = d.boot ∧ x.regs = d.regs ∧ x.kind = d.kind := by
    simpa only [Prod.mk.injEq, hx] using wServed_rest d (stewardStation d (lead d)) (rcvStation d n) wtFirmware
  have served : lead x = lead d := getF_of_regs kind regs _ _
  have taken : ¬(bootPhase d != 4 || decide (sec ≥ hdrSections d.boot.header) ||
      !(receivers d (hdrSect d.boot.header sec).kind).contains n || d.boot.got.contains (n, sec)) = true := by
    simp only [phase, takes, new, decide_eq_false (Nat.not_le.mpr inside), bne_self_eq_false, Bool.not_true, Bool.or_self,
      Bool.false_eq_true, not_false_eq_true]
  unfold firmwareBlock
  dsimp only
  rw [if_neg taken, hx, served, before]

end

/-! ## Start tests (R330 to R334) -/

theorem checkerSelfTest_of_start {ck : Checker} (pass : Bool) (start : starting d = true) (phase : bootPhase d ≤ 6) (ok : checkerOk ck = true) :
    checkerSelfTest ck pass d = if pass = true then setPhase d 6 else checkerFails ck (setPhase d 6) :=
  if_neg (by simp [start, ok, phase])

/-- A checker whose unit is not a lane makes it bad. -/
theorem checkerFails_of_unit {ck : Checker} {ent : Nat} {ks : List Nat} (unit : checkerEnt ck = some (ent, ks)) (lane : entKind ent ≠ 5)
    (peer : entKind ent ≠ 6) : checkerFails ck d = testFails ent 3 d := by
  have plain : ¬(entKind ent == 5 || entKind ent == 6) = true := by simp [lane, peer]
  cases ck <;> simp only [checkerEnt, Option.some.injEq, Prod.mk.injEq, reduceCtorEq] at unit <;>
  · obtain ⟨rfl, -⟩ := unit
    exact if_neg plain

theorem badEntries_setPhase (v : Nat) : badEntries (setPhase d v) = badEntries d :=
  badEntries_setF_page d bootPg v _ (by decide) (.inr (by decide)) (by decide)

/-- A good unit has its known-answer run. -/
theorem knownAnswerRun_of_good {ent : Nat} (pass : Bool) (start : starting d = true) (kind : katKind ent = true)
    (good : (badEntries d).contains ent = false) {x y : Dev}
    (hx : katRuns ent (count (katClocks (entDie ent) (setPhase d 7)) katPg KAT.KAT_RUNS 1) = x)
    (hy : count (count x katPg KAT.KAT_FAILS 1) (diePg (entDie ent)) DIE.KAT_FAILS 1 = y) :
    knownAnswerRun ent pass d = if pass = true then x
      else if entKind ent == 5 || entKind ent == 6 then
        laneEntFails ent 2 (bark (noteFail ent y) 0x1101 katPg (lead y) 2 none none (leBytes 4 ent))
      else testFails ent 2 y := by
  subst hy hx
  unfold knownAnswerRun
  rw [if_neg (by simp [start, kind])]
  unfold katUnit
  rw [badEntries_setPhase, if_neg (by rw [good]; decide)]

/-! ## The map build (R340, R341) -/

theorem mapBuild_ends (begun : 5 ≤ bootPhase d) (open_ : bootPhase d < 9) (ups : upDies d ≠ []) : ∃ x, mapBuild d = startEnds x := by
  unfold mapBuild
  rw [if_neg (by simp [begun, open_, ups])]
  exact ⟨_, rfl⟩

end

/-- What leaves PHASE and the start's own state. -/
def SamePhase (e d : Dev) : Prop := bootPhase e = bootPhase d ∧ e.boot = d.boot

theorem SamePhase.refl (d : Dev) : SamePhase d d := ⟨rfl, rfl⟩

theorem SamePhase.trans {c d e : Dev} (h : SamePhase e d) (k : SamePhase d c) : SamePhase e c := ⟨h.1.trans k.1, h.2.trans k.2⟩

/-- A field beside PHASE: of another page, of another register, or of another place in its register. -/
theorem samePhase_setF (d : Dev) {pg : Nat} {f : Fld} (v : Nat) (small : f.off < 4096)
    (aside : pg ≠ bootPg ∨ f.off / 8 ≠ 32 ∨ (f.off = 0x100 ∧ 4 ≤ f.lo ∧ f.lo + f.w ≤ 64)) : SamePhase (setF d pg f v) d := by
  refine ⟨?_, setF_boot ..⟩
  have place : BOOT.BOOT_STAT_PHASE.off = 0x100 := rfl
  unfold bootPhase
  by_cases same : pg = bootPg
  · subst same
    rcases aside with ne | off | ⟨off, lo, w⟩
    · exact absurd rfl ne
    · refine getF_setF_other _ _ _ _ _ _ ?_
      unfold regKey
      omega
    · exact getF_setF_off _ _ _ _ _ w (off ▸ place) (.inl lo)
  · exact getF_setF_page small (by decide) (Ne.symm same)

theorem samePhase_startKeys (d : Dev) : SamePhase (startKeys d) d := by
  unfold startKeys
  extract_lets ups e eng e₁ e₂
  have made : SamePhase e d := by
    dsimp only [e]
    clear_value ups
    cases ups with
    | nil => exact .refl d
    | cons k ks =>
      dsimp only
      split
      · split
        · exact ⟨rfl, rfl⟩
        · exact .refl d
      · split
        · exact ⟨rfl, rfl⟩
        · exact .refl d
  exact (samePhase_setF e₂ _ (by decide) (.inl (by decide))).trans
    ((samePhase_setF e₁ _ (by decide) (.inl (by decide))).trans ((samePhase_setF e _ (by decide) (.inl (by decide))).trans made))

theorem samePhase_life (d : Dev) (kind sub : Nat) (bs : List Byte) : SamePhase (life d kind sub bs) d :=
  ⟨getF_life (by decide) (by decide) (by decide), life_boot ..⟩

/-- A start that ends reads PHASE 9. -/
theorem bootPhase_startEnds (x : Dev) (warm : x.boot.warm = false) (full : x.boot.full = false) : bootPhase (startEnds x) = 9 := by
  unfold startEnds
  rw [full]
  extract_lets fresh d₁ d₂ d₃ d₄ d₅ d₆ d₇ d₈ d₉ d₁₀ d₁₁ d₁₂
  have set : bootPhase d₁ = 9 ∧ d₁.boot = x.boot := by
    obtain ⟨phase, boot⟩ := samePhase_setF (setPhase x 9) (pg := bootPg) (f := BOOT.BOOT_STAT_START_TIME)
      (min 65535 ((setPhase x 9).boot.ticks / 10 ^ 6)) (by decide) (.inr (.inr (by decide)))
    exact ⟨phase.trans (getF_setF_self _ _ _ _ (by decide)), boot.trans (setF_boot ..)⟩
  have cold : ∀ e : Dev, SamePhase e d₁ → e.boot.warm = false := fun e h => by rw [h.2, set.2, warm]
  have s₃ : SamePhase d₃ d₁ := (samePhase_setF d₂ _ (by split <;> decide) (.inr (.inl (by split <;> decide)))).trans
    (samePhase_setF d₁ _ (by decide) (.inr (.inr (by decide))))
  have s₄ : SamePhase d₄ d₁ := by
    dsimp only [d₄]
    split
    · exact (samePhase_setF d₃ _ (by decide) (.inr (.inl (by decide)))).trans s₃
    · exact s₃
  have s₅ : SamePhase d₅ d₁ := by
    dsimp only [d₅]
    split
    · exact (samePhase_setF d₄ _ (by decide) (.inr (.inl (by decide)))).trans s₄
    · exact s₄
  have s₇ : SamePhase d₇ d₁ := (samePhase_startKeys d₆).trans ((samePhase_setF d₅ _ (by decide) (.inl (by decide))).trans s₅)
  have s₈ : SamePhase d₈ d₁ := by
    dsimp only [d₈]
    split
    · exact ⟨s₇.1, s₇.2⟩
    · exact s₇
  have s₁₀ : SamePhase d₁₀ d₁ := by
    have s₉ : SamePhase d₉ d₁ := by
      have fast : fresh = false := rfl
      dsimp only [d₉]
      rw [if_neg (by simp [fast])]
      exact s₈
    dsimp only [d₁₀]
    split
    · exact (samePhase_setF d₉ _ (by decide) (.inl (by decide))).trans s₉
    · exact ⟨s₉.1, s₉.2⟩
  have s₁₁ : SamePhase d₁₁ d₁ := (samePhase_life d₁₀ _ _ _).trans s₁₀
  have s₁₂ : SamePhase d₁₂ d₁ := by
    dsimp only [d₁₂]
    rw [if_neg (by simp [cold d₁₁ s₁₁])]
    exact s₁₁
  split
  · exact s₁₂.1.trans set.1
  · exact s₁₂.1.trans set.1


/-- Settles O50: each command of a start by what it finds, and PHASE where the start ends. -/
theorem firmwareAndTestsAct : Obligations.FirmwareAndTestsAct := by
  unfold Obligations.FirmwareAndTestsAct
  refine ⟨?_, bootPhase_startEnds⟩
  intro s k j rcv sec data e failed ck hr d up role n
  refine ⟨?_, ?_, ?_, ?_, ?_, ?_, ?_, ?_⟩
  · intro die steward other x y
    exact exec_next hr rfl (stewardFails_of_two die steward other rfl rfl)
  · intro m rest led phase next slot c
    obtain ⟨runs, fails⟩ := firmwareSelect_of_slot led phase next slot rfl
    exact ⟨fun accepted => exec_next hr rfl (runs accepted), fun refused => exec_next hr rfl (fails refused _ _ rfl rfl)⟩
  · intro m rest led next host
    exact ⟨fun phase => exec_next hr rfl (firmwareSelect_of_host led phase next host),
      fun phase idle spent => exec_next hr rfl (firmwareSelect_of_spent led phase next host idle spent)⟩
  · intro x h phase inside takes new
    have block := firmwareBlock_of_taken data phase inside takes new rfl
    refine ⟨fun root digest => ?_, fun root digest first => ?_, fun root digest again => ?_, fun root => ?_⟩ <;>
      refine exec_next hr rfl (block.trans ?_)
    · exact (if_neg (by simpa using root)).trans (if_pos (by simpa using digest))
    · exact (if_neg (by simpa using root)).trans ((if_neg (by simpa using digest)).trans (if_neg (by exact ne_true_of_eq_false first)))
    · exact (if_neg (by simpa using root)).trans ((if_neg (by simpa using digest)).trans (if_pos again))
    · exact if_pos (by simpa using root)
  · intro start phase ok
    exact ⟨exec_next hr rfl (checkerSelfTest_of_start true start phase ok), exec_next hr rfl (checkerSelfTest_of_start false start phase ok),
      fun ent ks unit lane peer => checkerFails_of_unit unit lane peer⟩
  · intro start kind good ent x y
    refine ⟨exec_next hr rfl (knownAnswerRun_of_good true start kind good rfl rfl), fun unit => ?_, fun lane => ?_⟩ <;>
      refine exec_next hr rfl ((knownAnswerRun_of_good false start kind good rfl rfl).trans ((if_neg (by decide)).trans ?_))
    · exact if_neg (by rcases unit with unit | unit <;> simp [show entKind e.toNat = _ from unit])
    · exact if_pos (by rcases lane with lane | lane <;> simp [show entKind e.toNat = _ from lane])
  · intro start cold
    exact exec_next hr rfl (if_neg (by simpa using ⟨start, cold⟩))
  · intro begun open_ ups
    obtain ⟨x, hx⟩ := mapBuild_ends begun open_ ups
    exact ⟨x, exec_next hr rfl hx⟩

end Sys2Proof.Machine
end

section
/-!
PROOFS. Resets, muzzles and pins (chapters 13 and 17).
-/
namespace Sys2Proof.Machine

/-! ## Core, pack, tower and partition resets (R357 to R363) -/

section
variable {d : Dev}

theorem resetOneCore_of_ok {n : Nat} (ok : smallOk d (coreRegion n) = true) (site : (siteOf d n).isSome = true) :
    resetOneCore n d = (resetEnds 0 n 0 0 none (count (count (setCore d n (quietCore (core d n))) rstPg RST.LEASHES_RETURNED
      (coreLeashes d n)) rstPg RST.CORE_RESETS 1), stOk) := by
  obtain ⟨k, hk⟩ := Option.isSome_iff_exists.mp site
  exact if_neg (by simp [ok, hk])

theorem resetPack_of_ok {k : Nat} (there : k < 128) (ok : smallOk d (k / 4) = true) :
    resetPack k d = (resetEnds 1 k 0 0 none (count ((List.range 32).foldl (fun d c =>
      if (siteOf d (32 * k + c)).isSome = true then resetCore (32 * k + c) d else d) d) rstPg RST.PACK_RESETS 1), stOk) :=
  (if_neg (by omega)).trans (if_neg (by simp [ok]))

theorem resetTower_of_up {t : Nat} (there : t < 32) (free : d.drain = none) (goes : (tower d t).hold = false)
    (up : getF d (rgnPg t) RGN.RGN_STAT_STATE = 1) : resetTower t d = (towerGo t d, stOk) :=
  (if_neg (by omega)).trans (if_neg (by simp [free, goes, up]))

theorem towerResumes_of_draining {t : Nat} (held : (tower d t).hold = true) (draining : (tower d t).draining = true) :
    towerResumes t [] d = towerFails t d := (if_neg (by simp [held])).trans (if_pos draining)

/-- A tower whose links have trained and whose ends agree goes on. -/
theorem towerResumes_of_trained {t : Nat} (held : (tower d t).hold = true) (drained : (tower d t).draining = false)
    (trained : linksTrain d t = false) (some_ : (List.range 136).any (fun b => (link d t (64 + b)).st != .lost) = true) {free x y : Dev}
    (hfree : setTower d t { tower d t with hold := false, tally := (0, 0) } = free)
    (hx : (if getF d (rgnPg t) RGN.RGN_STAT_STATE = 2 then setF free (rgnPg t) RGN.RGN_STAT_STATE 1 else free) = x)
    (hy : count (count x rstPg RST.TOWER_RESETS 1) (rgnPg t) RGN.TOWER_RESETS 1 = y) :
    towerResumes t [] d = servePorts t (resetEnds 2 t (tower d t).tally.1 (tower d t).tally.2 (partOf y t) y) := by
  have state : getF free (rgnPg t) RGN.RGN_STAT_STATE = getF d (rgnPg t) RGN.RGN_STAT_STATE := by
    rw [← hfree]
    rfl
  have links : x.links = d.links := by
    rw [← hx, ← hfree]
    split
    · exact setF_links ..
    · rfl
  have alive : (List.range 136).all (fun b => (link x t (64 + b)).st == .lost) = false := by
    have same : ∀ b, link x t (64 + b) = link d t (64 + b) := fun b => by rw [link, link, links]
    simp only [same]
    rw [Bool.eq_false_iff, ne_eq, List.all_eq_true]
    intro all
    obtain ⟨b, hb, there⟩ := List.any_eq_true.mp some_
    exact absurd (all b hb) (by simpa using there)
  unfold towerResumes
  rw [if_neg (by simp [held]), if_neg (by simp [drained]), if_neg (by simp [trained])]
  simp only [List.eraseDups_nil, List.foldl_nil, hfree, beq_iff_eq, state, hx]
  rw [if_neg (by rw [alive]; decide), hy]

theorem resetPartition_of_loaded {p : Nat} (loaded : planLoaded d p = true) (waits : d.rstWait.contains p = false) (free : d.drain = none) :
    resetPartition p d = (if towersHeld d (regionsOf d p) = true then { d with rstWait := d.rstWait ++ [p] } else partitionGo p d, stOk) := by
  unfold resetPartition
  rw [if_neg (by rw [loaded, waits, free]; decide)]
  split <;> rfl

/-! ## Package resets (R351 to R353, R365, R366) -/

theorem warmReset_of_may {pg : Nat} (may : mayDrain d = true) (cool : diesHot d = false) : warmReset pg d = (startDrain false 5 d, stOk) :=
  if_neg (by simp [may, cool])

theorem mayDrain_iff : mayDrain d = true ↔ d.drain = none ∧ bootPhase d = 9 := by
  simp [mayDrain]

theorem coldReset_of_may (may : mayDrain d = true) : coldReset d = (startDrain true 4 d, stOk) := by
  obtain ⟨free, phase⟩ := mayDrain_iff.mp may
  unfold coldReset
  rw [free]
  exact if_pos (by simp [phase])

theorem coldReset_of_warm {x : Drain} (runs : d.drain = some x) (warm : x.cold = false) (first : x.thenCold = false) :
    coldReset d = ({ d with drain := some { x with thenCold := true } }, stOk) := by
  unfold coldReset
  rw [runs]
  exact if_neg (by simp [warm, first])

theorem endItem_head (r : RingQ) (c : Cpl) : (endItem r c).head = r.head := by
  unfold endItem
  split
  · rfl
  · split <;> rfl

/-- What a ring holds after a drain that has taken too long: nothing, and its SQ ends at its head. -/
theorem drainTimeout_rq {x : Drain} {p q : Nat} (runs : d.drain = some x) (begun : x.begun = true) :
    (rq (drainTimeout p q d) p q).held = [] ∧ (rq (drainTimeout p q d) p q).tail = (rq (drainTimeout p q d) p q).head ∧
      (rq (drainTimeout p q d) p q).reading = false := by
  have head : ∀ (cs : List Cpl) (r : RingQ), (cs.foldl endItem r).head = r.head := by
    intro cs
    induction cs with
    | nil => exact fun r => rfl
    | cons c cs ih => exact fun r => (ih _).trans (endItem_head r c)
  unfold drainTimeout
  rw [runs]
  dsimp only
  rw [if_neg (by simp [begun]), rq_setRq_self]
  exact ⟨rfl, (head _ _).symm, rfl⟩

/-! ## Muzzles (R26, R367) -/

theorem clockBondFails_eq {t bond : Nat} {bad : BitVec 2} {x : Dev} (hbad : (tower d t).clockBad ||| BitVec.ofNat 2 (2 ^ bond) = bad)
    (hx : setTower d t { tower d t with clockBad := bad } = x) : clockBondFails t bond d =
      if bad = 3#2 ∧ getF d (rgnPg t) RGN.RGN_STAT_STATE ≠ 0 then muzzleRegion x t 7 else x := by
  have state : getF x (rgnPg t) RGN.RGN_STAT_STATE = getF d (rgnPg t) RGN.RGN_STAT_STATE := by
    rw [← hx]
    rfl
  unfold clockBondFails
  simp only [hbad, hx, state, Bool.and_eq_true, beq_iff_eq, bne_iff_ne]

theorem muzzleUser_of_site {r u k : Nat} (site : siteOf d (128 * r + u) = some k) (free : (core d (128 * r + u)).st ≠ .muzzled) :
    muzzleUser r u d = (muzzleSite d (corePack (128 * r + u)) k 8, stOk) := by
  unfold muzzleUser
  simp only [site]
  rw [if_neg (by simp [free])]
  simp only [muzzleCore, site]

/-! ## The RST and RGN pages (R352, R367) -/

theorem writeReg_rst (pg off : Nat) (v : Word64) : writeReg RST.page.code 0 pg off v d = writeRst pg off v d := rfl

/-- A command word on the RST page that does an operation. -/
theorem writeReg_rst_of {off op n : Nat} {r : Dev × Nat} {e : Dev}
    (row : writeRst rstPg off (command op n) d = acting rstPg off (command op n) r) (h : r = (e, stOk)) :
    (writeReg RST.page.code 0 rstPg off (command op n) d).1 = storeRw rstPg off (command op n) e := by
  rw [writeReg_rst, row]
  exact acting_ok h

/-- The target of such a command. -/
theorem command_target {op n hi : Nat} (hop : op < 16) (hi12 : hi < 12) (hn : n < 2 ^ (hi + 1)) : bits (command op n).toNat hi 0 = n := by
  have small : n < 2 ^ 60 := lt_of_lt_of_le hn (Nat.pow_le_pow_right (by decide) (by omega))
  rw [command_bits hop small (by omega) (Nat.zero_le hi)]
  simp only [bits, pow_zero, Nat.div_one, Nat.sub_zero]
  exact Nat.mod_eq_of_lt hn

/-! What each OP of RST_XCMD and RST_CMD does. -/

theorem writeRst_core {n : Nat} (hn : n < 2 ^ 12) :
    writeRst rstPg 0x200 (command 1 n) d = acting rstPg 0x200 (command 1 n) (resetOneCore n d) := by
  have op := command_op (show 1 < 16 by decide) (show n < 2 ^ 60 by omega)
  simp [writeRst, op, command_target (show 1 < 16 by decide) (show 11 < 12 by decide) hn]

theorem writeRst_pack {n : Nat} (hn : n < 2 ^ 12) :
    writeRst rstPg 0x200 (command 2 n) d = acting rstPg 0x200 (command 2 n) (resetPack n d) := by
  have op := command_op (show 2 < 16 by decide) (show n < 2 ^ 60 by omega)
  simp [writeRst, op, command_target (show 2 < 16 by decide) (show 11 < 12 by decide) hn]

theorem writeRst_tower {t : Nat} (ht : t < 2 ^ 12) :
    writeRst rstPg 0x200 (command 3 t) d = acting rstPg 0x200 (command 3 t) (resetTower t d) := by
  have op := command_op (show 3 < 16 by decide) (show t < 2 ^ 60 by omega)
  simp [writeRst, op, command_target (show 3 < 16 by decide) (show 11 < 12 by decide) ht]

theorem writeRst_partition {p : Nat} (hp : p < 2 ^ 3) :
    writeRst rstPg 0x040 (command 1 p) d = acting rstPg 0x040 (command 1 p) (resetPartition p d) := by
  have op := command_op (show 1 < 16 by decide) (show p < 2 ^ 60 by omega)
  simp [writeRst, op, command_target (show 1 < 16 by decide) (show 2 < 12 by decide) hp]

theorem writeRst_warm : writeRst rstPg 0x040 (command 2 0) d = acting rstPg 0x040 (command 2 0) (warmReset rstPg d) := rfl

theorem writeRst_cold : writeRst rstPg 0x200 (command 4 0) d = acting rstPg 0x200 (command 4 0) (coldReset d) := rfl

theorem writeReg_muzzle {r u : Nat} {e : Dev} (hu : u < 2 ^ 7) (h : muzzleUser r u d = (e, stOk)) :
    (writeReg RGN.page.code r (rgnPg r) 0x200 (command 1 u) d).1 = storeRw (rgnPg r) 0x200 (command 1 u) e := by
  have row : ∀ v : Word64, writeReg RGN.page.code r (rgnPg r) 0x200 v d = if bits v.toNat 63 60 == 1 then
      acting (rgnPg r) 0x200 v (muzzleUser r (bits v.toNat 6 0) d) else stored (rgnPg r) 0x200 v d := fun v => rfl
  rw [row, command_op (by decide) (by omega), if_pos (beq_self_eq_true 1), command_target (by decide) (by decide) hu]
  exact acting_ok h

end

/-- Settles O51: each reset by the operation that its command names. -/
theorem resetsAct : Obligations.ResetsAct := by
  unfold Obligations.ResetsAct
  intro s n t p q r u bond hr d at_ may m tw
  refine ⟨fun allowed ok site => ?_, fun allowed there ok => ?_, fun allowed free goes up => ?_, fun held draining => ?_,
    fun held drained trained some_ => ?_, fun allowed loaded waits free => ?_, fun allowed mayd cool => ?_, fun allowed mayd => ?_,
    fun x allowed runs first second => ?_, fun mayd => ?_, fun x runs begun => ?_, ?_, fun k allowed site free => ?_⟩
  · exact exec_page hr allowed rfl (writeReg_rst_of (writeRst_core n.isLt) (resetOneCore_of_ok ok site))
  · exact exec_page hr allowed rfl (writeReg_rst_of (writeRst_pack n.isLt) (resetPack_of_ok there ok))
  · have target : (BitVec.ofNat 12 t).toNat = t := by
      rw [BitVec.toNat_ofNat]
      omega
    exact exec_page hr allowed (congrArg (fun x => some (rstPg, 0x200, command 3 x)) target)
      (writeReg_rst_of (writeRst_tower (by omega)) (resetTower_of_up t.isLt free goes up))
  · exact exec_next hr rfl (towerResumes_of_draining held draining)
  · exact exec_next hr rfl (towerResumes_of_trained held drained trained some_ rfl rfl rfl)
  · exact exec_page hr allowed rfl (writeReg_rst_of (writeRst_partition p.isLt) (resetPartition_of_loaded loaded waits free))
  · exact exec_page hr allowed rfl (writeReg_rst_of writeRst_warm (warmReset_of_may mayd cool))
  · exact exec_page hr allowed rfl (writeReg_rst_of writeRst_cold (coldReset_of_may mayd))
  · exact exec_page hr allowed rfl (writeReg_rst_of writeRst_cold (coldReset_of_warm runs first second))
  · exact exec_next hr rfl (if_pos mayd)
  · exact ⟨_, exec_next hr rfl rfl, drainTimeout_rq runs begun⟩
  · intro bad x
    exact exec_next hr rfl (clockBondFails_eq rfl rfl)
  · exact exec_page hr allowed rfl (writeReg_muzzle u.isLt (muzzleUser_of_site site free))

/-! ## Pins (R317, R366, R467, R470 to R472) -/

theorem fixedVolts_boot (d : Dev) : (fixedVolts d).boot = d.boot := by
  unfold fixedVolts
  extract_lets set f
  have one : ∀ (e : Dev) (r v : Nat), (set e r v).boot = e.boot := fun e r v => setF_boot ..
  have all : f.boot = d.boot := foldl_keeps (·.boot) _ (fun g k => (one ..).trans ((one ..).trans (one ..))) _ d
  exact (one ..).trans ((one ..).trans ((one ..).trans ((one ..).trans all)))

theorem foldl_fixedVolts_boot {f : Dev → Nat → Dev} (hf : ∀ d k, (f d k).boot = d.boot) (ks : List Nat) {d : Dev} {x : Boot}
    (h : d.boot = x) : (ks.foldl f (fixedVolts d)).boot = x := by
  rw [foldl_keeps (·.boot) f hf, fixedVolts_boot, h]

/-- The dies that leave reset leave it. -/
theorem bootDies_reset (d : Dev) : (bootDies d).boot.reset = false := by
  unfold bootDies
  extract_lets seat e
  have first : e.boot = { d.boot with reset := false, on := true } := setF_boot ..
  refine (congrArg Boot.reset (foldl_fixedVolts_boot (fun g k => ?_) _ first)).trans rfl
  extract_lets d₁ d₂ d₃
  exact (setF_boot ..).trans ((setF_boot ..).trans ((setF_boot ..).trans ((setF_boot ..).trans ((setF_boot ..).trans (setF_boot ..)))))

theorem pulseActs_of_long {ns : Nat} (h : 1000 ≤ ns) (d : Dev) : pulseActs ns d = (d, true) :=
  (if_neg (by omega)).trans (if_pos h)

theorem pulseActs_of_short {ns : Nat} (h : ns < 100) (d : Dev) : pulseActs ns d = (d, false) := if_pos h

theorem pulseActs_between {ns : Nat} (h : 100 ≤ ns) (k : ns < 1000) (d : Dev) :
    pulseActs ns d = ({ d with freeN := d.freeN + 1 }, Config.freeBit d.freeN) :=
  (if_neg (by omega)).trans (if_neg (by omega))

/-- COLD_RST_N by whether its pulse acts. -/
theorem coldPin_eq {ns : Nat} {d e : Dev} {act : Bool} (h : pulseActs ns d = (e, act)) :
    coldPin ns d = if act = true then { pinReset 1 e with thermtrip := false } else e := by
  unfold coldPin
  rw [h]
  cases act <;> rfl

/-- A power-good input by whether its pulse acts. -/
theorem pinFalls_eq {ns : Nat} {pin : PgPin} {d e : Dev} {act : Bool} (h : pulseActs ns d = (e, act)) : pinFalls pin ns d =
    if act = true then (if pin = .aux then setF (pinReset 2 e) smbPg SMB.SMB_STAT_ADDR 0 else pinReset 2 e) else e := by
  unfold pinFalls
  rw [h]
  cases act
  · rfl
  · simp only [beq_iff_eq, if_true]

/-- Settles O52: the pins by the length of their pulses, then the start, the reference and PG_AUX. -/
theorem pinsAct : Obligations.PinsAct := by
  unfold Obligations.PinsAct
  intro s ns pin a1 a0 d cold free fall
  have next : ∀ {i : Instr} {f : Dev → Dev} {e : Dev}, exec i s = on s f → f d = e → exec i s = .next (s.after e) :=
    fun run h => by rw [run, on_next, h]
  refine ⟨fun long => ⟨?_, ?_⟩, fun short => ⟨?_, ?_⟩, fun long short => ⟨Config.freeBit d.freeN, ?_, ?_⟩, rfl, rfl, bootDies_reset d,
    fun c x => ⟨rfl, rfl⟩, rfl, ?_⟩
  · exact next rfl ((coldPin_eq (pulseActs_of_long long d)).trans (if_pos rfl))
  · exact next rfl ((pinFalls_eq (pulseActs_of_long long d)).trans (if_pos rfl))
  · exact next rfl ((coldPin_eq (pulseActs_of_short short d)).trans (if_neg (by decide)))
  · exact next rfl ((pinFalls_eq (pulseActs_of_short short d)).trans (if_neg (by decide)))
  · exact next rfl (coldPin_eq (pulseActs_between long short d))
  · exact next rfl (pinFalls_eq (pulseActs_between long short d))
  · rw [getF_setF_self _ _ _ _ (by decide)]
    cases a1 <;> cases a0 <;> rfl

end Sys2Proof.Machine
end

section
/-!
PROOFS. The current limiter, protection and the package ceiling (chapter 14).
-/
namespace Sys2Proof.Machine

/-! ## Demands (R385) -/

section
variable {dem top : Nat} {e lim : Rat}

theorem nextDemand_of_over (h : lim < e) : nextDemand dem top e lim = min top (dem + 1) := if_pos h

theorem nextDemand_of_low (h : e ≤ lim) (low : e < lim * 97 / 100) : nextDemand dem top e lim = dem - 1 :=
  (if_neg (not_lt.mpr h)).trans (if_pos low)

theorem nextDemand_of_between (h : e ≤ lim) (high : lim * 97 / 100 ≤ e) : nextDemand dem top e lim = min top dem :=
  (if_neg (not_lt.mpr h)).trans (if_neg (not_lt.mpr high))

end

/-! ## Periods (R384) -/

/-- What a period leaves in a quadrant, and the two maps that its estimates change. -/
theorem currentEstimate_writes (k : Nat) (d : Dev) :
    ∃ n m g, currentEstimate k d = decide1 k (setQuad { d with estSnap := m, shared := g } k n) ∧
      n.est = (List.range 5).map (estimate d k) ∧ n.lim = (quad d k).lim ∧ n.prot = (quad d k).prot ∧
      ∀ i, i < 5 → n.dem.getD i 0 = nextDemand ((quad d k).dem.getD i 0)
        ((levelMax (pointOf d k) (min 7 (pointOf d k + (quad d k).lim))).getD 0)
        ((estimate d k i).1 + (estimate d k i).2) (railSet d k i) := by
  refine ⟨_, _, _, rfl, rfl, rfl, rfl, fun i hi => ?_⟩
  simp [hi]

/-! ## The limiter and protection (R386 to R388) -/

section
variable {d : Dev} {k : Nat}

theorem limiterDown_of_overrun (long : 50 ≤ (quad d k).overrun) (free : (quad d k).prot = 0)
    (room : usable (pointOf d k) (pointOf d k + (quad d k).lim + 1) = true) :
    limiterDown k d = takeRun k (setQuad d k
      { quad d k with lim := (quad d k).lim + 1, dem := [0, 0, 0, 0, 0], overrun := 0, calm := 0 }) :=
  if_pos (by simp [long, free, room])

theorem limiterUp_of_calm (down : 0 < (quad d k).lim) (free : (quad d k).prot = 0) (long : 500 ≤ (quad d k).calm)
    (room : roomAbove d k = true) :
    limiterUp k d = takeRun k (setQuad d k { quad d k with lim := (quad d k).lim - 1, calm := 0 }) :=
  if_pos (by simp [down, free, long, room])

theorem protectionDown_of_over {i : Nat} {e : Rat} (hot : overRail d k = some (i, e)) (long : 500 ≤ (quad d k).overrun)
    (last : usable (pointOf d k) (pointOf d k + (quad d k).lim + 1) = false) (room : runOf (pointOf d k) (quad d k) < 7) :
    protectionDown k d = takeRun k
      (let x := count (setQuad d k { quad d k with prot := (quad d k).prot + 1, overrun := 0, under := 0, protBark := true })
        (railPg i) RAIL.PROT_STEPS 1
       if (quad d k).protBark = true then x
       else bark x 0x2001 (railPg i) k 2 none none ([BitVec.ofNat 8 i, 0] ++ leBytes 2 e.floor.toNat)) := by
  unfold protectionDown
  rw [hot]
  exact if_pos (by simp [long, last, room])

theorem protectionUp_of_under (down : 0 < (quad d k).prot) (long : 5000 ≤ (quad d k).under) :
    protectionUp k d = takeRun k (setQuad d k { quad d k with
      prot := (quad d k).prot - 1, under := 0, overrun := 0, protBark := (quad d k).prot != 1 && (quad d k).protBark }) :=
  if_pos (by simp [down, long])

theorem lead_count {pg n : Nat} {f : Fld} (hf : f.off < 4096) (h : pg ≠ pkgPg) : lead (count d pg f n) = lead d :=
  getF_count_page hf (by decide) h.symm

theorem railPg_ne_pkg {r : Nat} (hr : r < 44) : railPg r ≠ pkgPg := by
  simp only [railPg, pkgPg, PageType.pg, RAIL.page, PKG.page]
  omega

theorem unlimitedOver_of_bare {r : Nat} (hr : r < 44) (bare : 40 ≤ r) :
    unlimitedOver r d = bark (count { d with freeN := d.freeN + 1 } (railPg r) RAIL.OVER_NOLIM 1) 0x2002 (railPg r)
      (lead { d with freeN := d.freeN + 1 }) 2 none none
      ([BitVec.ofNat 8 r, 0] ++ leBytes 2 (Config.fixedEst r d.freeN).toNat) := by
  refine (if_neg (not_lt.mpr bare)).trans ?_
  exact congrArg (fun l => bark _ _ _ l _ _ _ _) (lead_count (by decide) (railPg_ne_pkg hr))

theorem powerCeilUp_of_under (down : 0 < pwrCeil d) (long : 10 ≤ d.heat.underW) :
    powerCeilUp d = allCeil CLK.CLK_STAT_PWR_CEIL (pwrCeil d - 1)
      (logStep 8 3 (pwrCeil d - 1) (pwrCeil d) { d with heat := { d.heat with underW := 0 } }) :=
  if_pos (by simp [down, long])

end

/-- Settles O54: every clause is the branch of its handler that the hypotheses name; a demand moves by one up to L_max. -/
theorem limiterActs : Obligations.LimiterActs := by
  intro s k r hr
  refine ⟨?_, fun long free room => exec_next hr rfl (limiterDown_of_overrun long free room),
    fun down free long room => exec_next hr rfl (limiterUp_of_calm down free long room),
    fun i e hot long last room => exec_next hr rfl (protectionDown_of_over hot long last room),
    fun down long => exec_next hr rfl (protectionUp_of_under down long),
    fun bare => ⟨_, exec_next hr rfl (unlimitedOver_of_bare r.isLt bare)⟩,
    fun down long => exec_next hr rfl (powerCeilUp_of_under down long),
    fun dem top e lim => ⟨nextDemand_of_over, nextDemand_of_low, nextDemand_of_between⟩⟩
  obtain ⟨n, m, g, ends, rest⟩ := currentEstimate_writes k s.dev
  exact ⟨n, m, g, exec_next hr rfl ends, rest⟩

end Sys2Proof.Machine
end

section
/-!
PROOFS. Sensors, thermal models and responses to heat (chapter 14).
-/
namespace Sys2Proof.Machine

variable {d : Dev}

/-! ## Models and sensors (R391 to R394) -/

theorem hotSpotModel_writes (k : Nat) (d : Dev) : ∃ x : List Int,
    hotSpotModel k d = setZone { d with freeN := d.freeN + 1 } k { zoneOf d k with model := x } ∧ x.length = 8 :=
  ⟨_, rfl, by simp⟩

/-- The model of a tower takes 18 new estimates: no register and no other zone changes. -/
theorem newModel_frame (t : Nat) (d : Dev) : (zoneOf (newModel t d) (8 + t)).model.length = 18 ∧ (newModel t d).regs = d.regs ∧
    ∀ i, i ≠ 8 + t → zoneOf (newModel t d) i = zoneOf d i := by
  unfold newModel
  extract_lets z d1 w bad n
  have long : w.model.length = 18 := by simp [w, d1]
  refine ⟨?_, rfl, fun i other => ?_⟩
  · rw [zoneOf_setZone_self]
    split
    · exact long
    · exact long
  · rw [zoneOf_setZone_other _ _ _ _ other, zoneOf_setZone_other _ _ _ _ other]
    rfl

theorem sensorSuspects_of_first {k h : Nat} {m : Int} (model : (zoneOf d k).model.getD h 0 = m)
    (far : 128 < absI ((sensor d (twin k h 0)).val - (sensor d (twin k h 1)).val))
    (okA : (sensor d (twin k h 0)).failed = false) (okB : (sensor d (twin k h 1)).failed = false)
    (fresh : (sensor d (twin k h 0)).suspect = false)
    (worse : absI ((sensor d (twin k h 1)).val - m) < absI ((sensor d (twin k h 0)).val - m)) :
    sensorSuspects k h d = bark (logMark (twin k h 0) 1 (setSensor d (twin k h 0) { sensor d (twin k h 0) with suspect := true }))
      0x2102 thmPg k 1 none none (leBytes 2 (twin k h 0) ++ [1]) := by
  subst model
  unfold sensorSuspects
  extract_lets a b m da db e n src f
  have away : da ≠ db := worse.ne'
  have first : n = twin k h 0 := congrArg (twin k h) (if_pos worse)
  have same : e = d := if_neg (fun eq => away (eq_of_beq eq))
  have marked : f = logMark (twin k h 0) 1 (setSensor d (twin k h 0) { sensor d (twin k h 0) with suspect := true }) := by
    simp only [f, src, first, same]
  rw [if_neg (by simpa [a, b, okA, okB] using far), if_neg (by simpa [first] using fresh), marked, first]

theorem sensorFails_of_good {n : Nat} (good : (sensor d n).failed = false) :
    sensorFails n d =
      (let x := count (setSensor d n { sensor d n with failed := true }) (zonPg (sensorZone n)) TZON.SENSOR_FAILS 1
       bark x 0x2102 (zonPg (sensorZone n))
        (if sensorZone n < 8 then sensorZone n else if sensorZone n < 40 then (sensorZone n - 8) / 4 else lead x) 1 none none
        (leBytes 2 n ++ [2])) := if_neg (by simp [good])

theorem zonPg_ne_thm (z : Nat) (hz : z < 41) : thmPg ≠ zonPg z := by
  simp only [thmPg, zonPg, PageType.pg, THM.page, TZON.page]
  omega

/-- Hidden heat is marked once: ALERT_N, the zone's mark and the count. -/
theorem hiddenHeat_of_hides {t l : Nat} (ht : t < 32) (fresh : (zoneOf d (8 + t)).hidden = false) (hides : layerHides d t l = true) :
    (hiddenHeat t l d).alertPin = true ∧
      zoneOf (hiddenHeat t l d) (8 + t) = { zoneOf d (8 + t) with hidden := true, hiddenOk := 0 } ∧
      getF (hiddenHeat t l d) thmPg THM.HIDDEN_HEAT = (getF d thmPg THM.HIDDEN_HEAT + 1) % 2 ^ 64 := by
  unfold hiddenHeat
  extract_lets z v m e1 e2 e3
  rw [if_neg (by simp [z, fresh, hides])]
  refine ⟨rfl, zoneOf_setZone_self .., ?_⟩
  calc getF e2 thmPg THM.HIDDEN_HEAT
      = getF (count e1 thmPg THM.HIDDEN_HEAT 1) thmPg THM.HIDDEN_HEAT :=
        getF_count_page (by decide) (by decide) (zonPg_ne_thm _ (by omega))
    _ = (getF d thmPg THM.HIDDEN_HEAT + 1) % 2 ^ 64 := getF_setF_self _ _ _ _ (by decide)

theorem hiddenHeat_of_hidden {t l : Nat} (old : (zoneOf d (8 + t)).hidden = true) : hiddenHeat t l d = d := if_pos (by simp [old])

/-! ## Responses (R395, R398, R399) -/

theorem sensor_takeReading_self (n : Nat) (x : Int) : (sensor (takeReading n (some x) d) n).val = x :=
  congrArg Sensor.val (sensor_setSensor_self d n { sensor d n with val := x })

theorem thermalCeilDown_of_hot {k : Nat} (hot : 1520 ≤ zoneTemp d k) (down : thermCeil d k ≠ 0) :
    thermalCeilDown k d = setThermCeil k (min 7 (thermCeil d k + 1)) d := if_pos (by simp [hot, down])

theorem thermalCeilDown_of_cool {k : Nat} (cool : zoneTemp d k < 1520 ∨ thermCeil d k = 0) : thermalCeilDown k d = d :=
  if_neg (by simpa [or_iff_not_imp_left] using cool)

theorem thermalCeilUp_of_cool {k : Nat} (cool : zoneTemp d k < 1472) (down : thermCeil d k ≠ 0) :
    thermalCeilUp k d = setThermCeil k (thermCeil d k - 1) d := if_pos (by simp [cool, down])

theorem hardwareTrip_of_hot {k h : Nat} {v : Int} (hot : 1840 ≤ v) (fresh : getF d thmPg THM.THM_STAT_TRIPPED ≠ 1) :
    hardwareTrip k h v d = bark
      (tripCause 1 k (count (setF (stopAll { d with thermtrip := true }).1 thmPg THM.THM_STAT_TRIPPED 1) thmPg THM.TRIPS 1))
      0x1602 tripPg k 3 none none ([BitVec.ofNat 8 k, BitVec.ofNat 8 h] ++ leBytes 2 (v % 65536).toNat) :=
  if_neg (by simp [hot, fresh])

theorem hardwareTrip_of_quiet {k h : Nat} {v : Int} (quiet : v < 1840 ∨ getF d thmPg THM.THM_STAT_TRIPPED = 1) :
    hardwareTrip k h v d = d := if_pos (by simpa using quiet)

/-- A sample of 40 W or more joins the die's index. -/
theorem heatPathSample_of_large {k : Nat} {dT dP : Int} (large : 40 ≤ absI dP) : ∃ x, heatPathSample k dT dP d = coolantCheck x ∧
    (quad x k).heat = (dT * 1000 / (16 * dP) :: (quad d k).heat).take 16 :=
  ⟨_, if_neg (not_lt.mpr large), congrArg Quad.heat (quad_setQuad_self d k _)⟩

/-- Settles O56: each handler in the branch that the readings name; a conversion folds its readings, checks and responses in order. -/
theorem heatActs : Obligations.HeatActs := by
  constructor
  · intro s k h t l n hr
    refine ⟨?_, ⟨_, exec_next hr rfl rfl, newModel_frame t s.dev⟩,
      fun far okA okB fresh worse => exec_next hr rfl (sensorSuspects_of_first rfl far okA okB fresh worse),
      fun good => exec_next hr rfl (sensorFails_of_good good), fun failed => exec_next hr rfl (if_pos failed),
      fun fresh hides => ⟨_, exec_next hr rfl rfl, hiddenHeat_of_hides t.isLt fresh hides⟩,
      fun old => exec_next hr rfl (hiddenHeat_of_hidden old)⟩
    obtain ⟨x, writes, long⟩ := hotSpotModel_writes k s.dev
    exact ⟨x, exec_next hr rfl writes, long⟩
  · intro s k h v dT dP rs hr
    refine ⟨exec_next hr rfl rfl, fun n x => ⟨sensor_takeReading_self n x, rfl⟩,
      fun hot down => exec_next hr rfl (thermalCeilDown_of_hot hot down),
      fun cool => exec_next hr rfl (thermalCeilDown_of_cool cool),
      fun cool down => exec_next hr rfl (thermalCeilUp_of_cool cool down),
      fun hot fresh => exec_next hr rfl (hardwareTrip_of_hot hot fresh),
      fun quiet => exec_next hr rfl (hardwareTrip_of_quiet quiet),
      fun small => exec_next hr rfl (if_pos small), fun large => ?_⟩
    obtain ⟨x, ends, index⟩ := heatPathSample_of_large (d := s.dev) (k := k) (dT := dT) large
    exact ⟨x, exec_next hr rfl ends, index⟩

end Sys2Proof.Machine
end

section
/-!
PROOFS. Buckets, scrubs, the life log and the ageing samples (chapter 15).
-/
namespace Sys2Proof.Machine

/-! ## The life log beside the rest of the device (R424) -/

/-- What neither a register nor the journal carries stands as a record is appended, with or without compaction. -/
theorem life_keeps {β : Type} (g : Dev → β) (onSet : ∀ d pg f v, g (setF d pg f v) = g d)
    (onLog : ∀ (d : Dev) l e, g { d with log := l, erases := e } = g d) (d : Dev) (kind sub : Nat) (bs : List Byte) :
    g (life d kind sub bs) = g d := by
  have onCompact : g (compact d) = g d := by
    unfold compact
    extract_lets old rest newest types keep e f
    exact (onSet ..).trans ((onSet ..).trans ((onSet ..).trans (onLog d _ _)))
  unfold life
  extract_lets e f
  have packed : g e = g d := by
    dsimp only [e]
    split
    · exact onCompact
    · rfl
  exact (onLog f _ f.erases).trans ((onSet ..).trans packed)

theorem life_log_of_room {d : Dev} (room : d.log.length < logCap) (kind sub : Nat) (bs : List Byte) :
    ∃ r, (life d kind sub bs).log = d.log ++ [r] := by
  unfold life
  extract_lets e f
  have same : e = d := if_neg (by omega)
  exact ⟨_, by rw [show f.log = d.log from (setF_log ..).trans (congrArg Dev.log same)]⟩

/-- A row of `n` records appends `n` records where they fit. -/
theorem foldl_life_log {α : Type} (kind : Nat) (sub : α → Nat) (bs : α → List Byte) (xs : List α) (d : Dev)
    (room : d.log.length + xs.length ≤ logCap) :
    ∃ rs, (xs.foldl (fun e x => life e kind (sub x) (bs x)) d).log = d.log ++ rs ∧ rs.length = xs.length := by
  induction xs generalizing d with
  | nil => exact ⟨[], by simp⟩
  | cons x xs ih =>
    rw [List.length_cons] at room
    obtain ⟨r, hr⟩ := life_log_of_room (d := d) (by omega) kind (sub x) (bs x)
    obtain ⟨rs, hrs, n⟩ := ih (life d kind (sub x) (bs x)) (by rw [hr, List.length_append, List.length_singleton]; omega)
    refine ⟨r :: rs, ?_, by simp [n]⟩
    rw [List.foldl_cons, hrs, hr, List.append_assoc, List.singleton_append]

/-- Every record of a summary is one of the journal: what a record leaves, a summary leaves. -/
theorem lifeSummary_keeps {β : Type} (g : Dev → β) (onLife : ∀ d kind sub bs, g (life d kind sub bs) = g d) (d : Dev) :
    g (lifeSummary d) = g d :=
  (foldl_keeps g _ (fun _ _ => onLife ..) _ _).trans ((onLife ..).trans ((onLife ..).trans (onLife ..)))

theorem lifeSummary_log {d : Dev} (room : d.log.length + 8 ≤ logCap) : ∃ rs, (lifeSummary d).log = d.log ++ rs ∧ rs.length = 8 := by
  unfold lifeSummary
  extract_lets m sec tot seq cyc e
  obtain ⟨rs, hrs, n⟩ := foldl_life_log 1 Prod.fst Prod.snd [(0, sec), (1, tot), (2, seq)] d (by simp only [List.length_cons, List.length_nil]; omega)
  have first : e.log = d.log ++ rs := hrs
  obtain ⟨rs', hrs', n'⟩ := foldl_life_log 10 id cyc (List.range 5) e
    (by rw [first, List.length_append, n, List.length_range]; simp only [List.length_cons, List.length_nil]; omega)
  refine ⟨rs ++ rs', hrs'.trans (by rw [first, List.append_assoc]), ?_⟩
  rw [List.length_append, n, n']
  rfl

/-! ## Buckets and stores (R413 to R416) -/

theorem getF_lt (d : Dev) (pg : Nat) (f : Fld) : getF d pg f < 2 ^ f.w := Nat.mod_lt _ (Nat.two_pow_pos _)

theorem bucketLevel_at (i : Nat) : (ECC.ECC_BUCKET_LEVEL.at i).off = 0xC00 + 8 * i ∧ (ECC.ECC_BUCKET_LEVEL.at i).lo = 0 ∧
    (ECC.ECC_BUCKET_LEVEL.at i).w = 8 := by
  refine ⟨?_, ?_, rfl⟩
  · change (0xC00 + 8 * i) / 8 * 8 = _
    omega
  · change 0 + 8 * ((0xC00 + 8 * i) % 8) = 0
    omega

theorem getF_bucketLevel_other {d : Dev} {i j v : Nat} (h : i ≠ j) :
    getF (setF d eccPg (ECC.ECC_BUCKET_LEVEL.at j) v) eccPg (ECC.ECC_BUCKET_LEVEL.at i) = getF d eccPg (ECC.ECC_BUCKET_LEVEL.at i) := by
  apply getF_setF_other
  rw [(bucketLevel_at i).1, (bucketLevel_at j).1]
  unfold regKey
  omega

theorem getF_bucketLevel_self {d : Dev} {i v : Nat} (small : v < 256) :
    getF (setF d eccPg (ECC.ECC_BUCKET_LEVEL.at i) v) eccPg (ECC.ECC_BUCKET_LEVEL.at i) = v := by
  obtain ⟨-, lo, w⟩ := bucketLevel_at i
  rw [getF_setF_self _ _ _ _ (by omega), w]
  exact Nat.mod_eq_of_lt small

/-- A leak of the first `n` buckets lowers each of them by one and leaves the others. -/
theorem bucketLeak_levels (d : Dev) (n i : Nat) :
    getF ((List.range n).foldl (fun d i => setF d eccPg (ECC.ECC_BUCKET_LEVEL.at i) (getF d eccPg (ECC.ECC_BUCKET_LEVEL.at i) - 1)) d)
      eccPg (ECC.ECC_BUCKET_LEVEL.at i) = getF d eccPg (ECC.ECC_BUCKET_LEVEL.at i) - if i < n then 1 else 0 := by
  induction n with
  | zero => rfl
  | succ n ih =>
    rw [List.range_succ, List.foldl_append, List.foldl_cons, List.foldl_nil]
    by_cases h : i = n
    · subst h
      have small := getF_lt d eccPg (ECC.ECC_BUCKET_LEVEL.at i)
      rw [(bucketLevel_at i).2.2] at small
      rw [getF_bucketLevel_self (by rw [ih]; omega), ih, if_neg (by omega), if_pos (by omega), Nat.sub_zero]
    · rw [getF_bucketLevel_other h, ih]
      exact congrArg _ (if_congr (by omega) rfl rfl)

theorem wordCorrected_of_plain {st : SramStore} (plain : ∀ r n, st ≠ .slice r n) (d : Dev) :
    wordCorrected st d = bucketAdd d (sramUnit st).2.2 := by
  cases st with
  | slice r n => exact absurd rfl (plain r n)
  | _ => rfl

theorem sramScrub_of_corrected {st : SramStore} (plain : ∀ r n, st ≠ .slice r n) (ws : List (BitVec 32)) (d : Dev) :
    sramScrub st (ws.map (·.toNat)) false d = ws.foldl (fun d _ => bucketAdd d (sramUnit st).2.2) d := by
  refine (List.foldl_map ..).trans ?_
  simp only [wordCorrected_of_plain plain]

theorem sramScrub_of_lost (st : SramStore) (w : Nat) (d : Dev) : sramScrub st [w] true d = sramLost st w
    (bark (count d eccPg ECC.UNCORR_SRAM 1) 0x0F02 eccPg (sramUnit st).2.1 2 none (some stUncorr)
      ([Config.storeCode (sramKind st)] ++ leBytes 2 (sramUnit st).1 ++ [0] ++ leBytes 4 w)) := by
  cases st <;> rfl

/-! ## The patrol scrubber (R417, R418) -/

section
variable {d : Dev} {t : Nat}

theorem scrubPass_of_idle {ms : List (BitVec 3)} (goes : (tower d t).hold = false) (up : getF d (rgnPg t) RGN.RGN_STAT_STATE = 1)
    (idle : (scrub d t).running = false) :
    scrubPass t ms d = setScrub d t
      { Scrub.init with running := true, start := mget 0 d.ticks (regionDie t), last := (scrub d t).last } :=
  (if_neg (by simp [goes, up])).trans (if_pos (by simp [idle]))

/-- A block inside a page: the rework, the count where the block held data, and the next block. -/
theorem scrubBlock_of_inner {x : Dev} (runs : (scrub d t).running = true) (inner : 0 < (scrub d t).block)
    (more : (scrub d t).block < 1023) (there : (scrub d t).page < Config.pages d.kind) (visits : scrubVisits d t (scrub d t).page = true)
    (now : scrubNow d t (frameCol (meFrame (entry d t (scrub d t).page))) = true)
    (done : reworkBlock d t (scrub d t).page (scrub d t).block true = (x, true)) :
    scrubBlock t d = setScrub
      (if eBit d t (meFrame (entry d t (scrub d t).page)) (scrub d t).block = true then count x (scrbPg t) SCRB.BLOCKS 1 else x) t
      { scrub d t with block := (scrub d t).block + 1 } := by
  unfold scrubBlock
  extract_lets s k g0 had
  have same : k = s.page := if_neg (by simp [s, inner.ne'])
  have kept : g0 = s.g0 := if_neg (by simp [s, inner.ne'])
  have data : had = eBit d t (meFrame (entry d t s.page)) s.block := by simp only [had, same]
  rw [same, if_neg (by simp [s, runs]), if_neg (by simpa [s] using there), if_neg (by simp [s, visits]), if_neg (by simp [s, now]), kept, data, done]
  exact (if_neg (by simp)).trans (if_neg (by simp [s]; omega))

theorem scrubBehind_of_running (runs : (scrub d t).running = true) (fresh : (scrub d t).behind = false) :
    scrubBehind t d = bark (setScrub d t { scrub d t with behind := true }) 0x2801 (scrbPg t) (regionDie t) 1 none none
      ([BitVec.ofNat 8 t] ++ leBytes 2 (scrub d t).page) := if_neg (by simp [runs, fresh])

end

/-! ## Ageing samples (R420) -/

/-- The samples of the indicators `1` to `n` take one more value each. -/
def addSamples (now : Nat) (v : Nat → Int) (n : Nat) (m : Map (List (Nat × Int))) : Map (List (Nat × Int)) :=
  ((List.range n).map (· + 1)).foldl (fun m c => mupd [] m c (· ++ [(now, v c)])) m

theorem mget_addSamples (now : Nat) (v : Nat → Int) (n i : Nat) (m : Map (List (Nat × Int))) :
    mget [] (addSamples now v n m) i = mget [] m i ++ if 1 ≤ i ∧ i ≤ n then [(now, v i)] else [] := by
  induction n with
  | zero => rw [if_neg (by omega), List.append_nil]; rfl
  | succ n ih =>
    have step : addSamples now v (n + 1) m = mupd [] (addSamples now v n m) (n + 1) (· ++ [(now, v (n + 1))]) := by
      unfold addSamples
      rw [List.range_succ, List.map_append, List.foldl_append]
      rfl
    rw [step]
    unfold mupd
    by_cases h : i = n + 1
    · subst h
      rw [mget_mput_self, ih, if_neg (by omega), if_pos (by omega), List.append_nil]
    · rw [mget_mput_off _ _ _ _ _ _ h, ih]
      exact congrArg _ (if_congr (by omega) rfl rfl)

theorem lasrPg_ne_pkg {c : Nat} (hc : c < 2) : pkgPg ≠ lasrPg c := by
  simp only [lasrPg, pkgPg, PageType.pg, LASR.page, PKG.page]
  omega

/-- A creep shown keeps the lead, the powered time and the ageing state. -/
theorem showCreep_frame {c : Nat} (hc : c < 2) (d : Dev) :
    lead (showCreep c d) = lead d ∧ (showCreep c d).ticks = d.ticks ∧ (showCreep c d).ageing = d.ageing := by
  unfold showCreep
  extract_lets v was e
  have head : lead e = lead d := getF_setF_page (by decide) (by decide) (lasrPg_ne_pkg hc)
  split
  · exact ⟨head, rfl, rfl⟩
  · exact ⟨head, rfl, rfl⟩

theorem ageingSample_samples {slacks : List Int} {a b : List (BitVec 8)} {d : Dev} (phase : bootPhase d = 9) :
    ∃ v, (ageingSample slacks a b d).ageing.samples = addSamples (powered d (lead d)) v 10 d.ageing.samples := by
  unfold ageingSample
  rw [if_neg (by simp [phase])]
  extract_lets e now vals ends base add codes src e1 preds e2 some_ w w2 e3 e4 due
  have early : lead e = lead d ∧ e.ticks = d.ticks ∧ e.ageing = d.ageing := by
    obtain ⟨head0, ticks0, age0⟩ := showCreep_frame (c := 0) (by decide) d
    obtain ⟨head1, ticks1, age1⟩ := showCreep_frame (c := 1) (by decide) (showCreep 0 d)
    exact ⟨head1.trans head0, ticks1.trans ticks0, age1.trans age0⟩
  clear_value e
  have logged : e2.ageing = e1.ageing :=
    foldl_keeps Dev.ageing _ (fun _ _ => life_keeps Dev.ageing (fun _ _ _ _ => rfl) (fun _ _ _ => rfl) _ _ _ _) _ _
  have shown : e4.ageing = e2.ageing := (setF_ageing ..).trans ((setF_ageing ..).trans ((setF_ageing ..).trans (setF_ageing ..)))
  have clock : now = powered d (lead d) := by
    simp only [now, powered, early.1, early.2.1]
  have added : e1.ageing.samples = addSamples now (fun c => vals.getD (c - 1) 0) 10 e.ageing.samples := by
    unfold addSamples
    dsimp only [e1, codes, add]
  have taken : e4.ageing.samples = addSamples (powered d (lead d)) (fun c => vals.getD (c - 1) 0) 10 d.ageing.samples := by
    rw [shown, logged, added, clock, early.2.2]
  refine ⟨_, Eq.trans ?_ taken⟩
  clear_value e4 w2 due
  split
  · rfl
  · split
    · rfl
    · rfl

/-- Settles O57: a leak folds over the 40 buckets; scrubs fold over their words; each record and sample is one appended entry. -/
theorem wearAndLogAct : Obligations.WearAndLogAct := by
  intro s t st w ws ms hr
  refine ⟨⟨_, exec_next hr rfl rfl, fun i hi => ?_⟩, fun plain => exec_next hr rfl (sramScrub_of_corrected plain ws s.dev),
    ⟨_, exec_next hr rfl (sramScrub_of_lost st w.toNat s.dev)⟩, ⟨_, exec_next hr rfl rfl⟩,
    fun goes up idle => exec_next hr rfl (scrubPass_of_idle goes up idle),
    fun x runs inner more there visits now done => exec_next hr rfl (scrubBlock_of_inner runs inner more there visits now done),
    fun runs fresh => exec_next hr rfl (scrubBehind_of_running runs fresh),
    fun phase room => ⟨_, exec_next hr rfl (if_pos (by simp [phase])), lifeSummary_log room,
      lifeSummary_keeps Dev.towers (life_keeps Dev.towers (fun _ _ _ _ => rfl) (fun _ _ _ => rfl)) s.dev,
      lifeSummary_keeps Dev.cores (life_keeps Dev.cores (fun _ _ _ _ => rfl) (fun _ _ _ => rfl)) s.dev⟩,
    fun a b n phase => ⟨_, exec_next hr rfl rfl, fun i low high => ?_⟩⟩
  · exact (bucketLeak_levels s.dev 40 i).trans (by rw [if_pos hi])
  · obtain ⟨v, hv⟩ := ageingSample_samples (slacks := a) (a := b) (b := n) phase
    exact ⟨v i, by rw [hv, mget_addSamples, if_pos ⟨low, high⟩]⟩

end Sys2Proof.Machine
end

section
/-!
PROOFS. Batches, roots, reseeds, notes and reports (chapter 16).
-/
namespace Sys2Proof.Machine

/-! ## Bytes -/

theorem leNat_append (a b : List Byte) : leNat (a ++ b) = leNat a + 256 ^ a.length * leNat b := by
  induction a with
  | nil => simp [leNat]
  | cons x xs ih =>
    rw [List.cons_append, leNat, leNat, ih, List.length_cons, Nat.pow_succ]
    ring

/-- The first 8 bytes of a record of 32 are its value's. -/
theorem leNat_first8 (v : Word64) (rest : List Byte) : (BitVec.ofNat 256 (leNat (leBytes 8 v.toNat ++ rest))).toNat % 2 ^ 64 = v.toNat := by
  have small : v.toNat < 2 ^ 64 := v.isLt
  have value : leNat (leBytes 8 v.toNat ++ rest) = v.toNat + 2 ^ 64 * leNat rest := by
    rw [leNat_append, leNat_leBytes, length_leBytes, show 256 ^ 8 = 2 ^ 64 by norm_num, Nat.mod_eq_of_lt small]
  rw [value, BitVec.toNat_ofNat, Nat.mod_mod_of_dvd _ (Nat.pow_dvd_pow 2 (by omega)), Nat.add_mul_mod_self_left, Nat.mod_eq_of_lt small]

theorem length_flatMap_leBytes (n : Nat) (vs : List Nat) : (vs.flatMap (leBytes n)).length = n * vs.length := by
  induction vs with
  | nil => rfl
  | cons v vs ih => rw [List.flatMap_cons, List.length_append, ih, length_leBytes, List.length_cons, Nat.mul_succ, Nat.add_comm]

theorem length_sealed (ws : List Nat) : (sealed ws).length = 128 := by
  unfold sealed
  extract_lets body
  have words : ((ws ++ List.replicate 15 0).take 15).length = 15 := by
    rw [List.length_take, List.length_append, List.length_replicate]
    omega
  have n : body.length = 124 := by
    rw [List.length_append, length_flatMap_leBytes, words]
    rfl
  rw [List.length_append, n, length_leBytes]

theorem length_octets (v : BitVec 4096) : (octets v).length = 512 := by simp [octets, beBytes]

/-! ## Batches and roots (R456 to R458) -/

section
variable {d : Dev}

theorem closeBatch_of_open (some_ : d.batch ≠ []) : ∃ b : Batch, (closeBatch d).batch = [] ∧
    (closeBatch d).batches = d.batches ++ [b] ∧ b.rootSeq = nextRoot d ∧ b.record.length = 128 ∧ (closeBatch d).rcptQ = d.rcptQ := by
  obtain ⟨a, rest, h⟩ := List.exists_cons_of_ne_nil some_
  unfold closeBatch
  rw [h]
  exact ⟨_, rfl, rfl, rfl, length_sealed _, rfl⟩

theorem rootSigned_of_oldest {b : Batch} {rest : List Batch} (oldest : d.batches = b :: rest) (signs : canSign d true = true)
    (room : b.rootSeq < 2 ^ 32 - 1) : ∃ (sig : List Byte) (x : Dev), rootSigned d = rcptPump x ∧ sig.length = 512 ∧ x.batches = rest ∧
      x.rcptQ = d.rcptQ ++ b.record :: sigEntries b.rootSeq sig ∧ getF x metrPg METR.METR_SEQ_ROOT_SEQ = b.rootSeq := by
  unfold rootSigned
  rw [oldest]
  dsimp only
  have fits : ¬ b.rootSeq ≥ 2 ^ 32 - 1 := by omega
  rw [if_neg (by simp [signs])]
  simp only [if_neg fits]
  refine ⟨_, _, rfl, length_octets _, rfl, rfl, ?_⟩
  refine (getF_count_page (by decide) (by decide) (by decide)).trans ?_
  refine (getF_count_page (by decide) (by decide) (by decide)).trans ?_
  refine (getF_setF_other _ _ _ _ _ _ (by decide)).trans ?_
  exact (getF_setF_self _ _ _ _ (by decide)).trans (Nat.mod_eq_of_lt (room.trans (by decide)))

theorem batchWaits_of_fresh {b : Batch} {rest : List Batch} (oldest : d.batches = b :: rest) (fresh : b.warned = false) :
    batchWaits d =
      (let x := count { d with batches := { b with warned := true } :: rest } rsaPg RSA.BATCH_WAITS 1
       bark x 0x0603 rsaPg (lead x) 1 none none (leBytes 4 b.rootSeq ++ [BitVec.ofNat 8 x.batches.length])) := by
  unfold batchWaits
  rw [oldest]
  exact if_neg (by simp [fresh])

/-! ## Reseeds (R437) -/

theorem rngReseed_of_healthy (k : Nat) : rngReseed k 0 d =
    (let x := count (setF (setF d rngPg RNG.RNG_STAT_FAILED 0) rngPg RNG.RNG_STAT_SEEDED 1) rngPg RNG.RESEEDS 1
     if bootPhase x = 9 ∧ x.mkBanks = [] then startKeys x else x) :=
  (if_pos rfl).trans (if_congr (by simp [bootPhase]) rfl rfl)

theorem rngReseed_of_failing {k : Nat} {health : BitVec 2} (failing : health ≠ 0#2) : rngReseed k health d =
    bark (count (setF d rngPg RNG.RNG_STAT_FAILED 1) rngPg RNG.HEALTH_FAILS 1) 0x1301 rngPg k 2 none none
      [BitVec.ofNat 8 k, if health.getLsbD 0 = true then 1 else 2] := if_neg (by simpa using failing)

/-! ## Notes and reports (R429, R444) -/

/-- The words of a note's record before its CRC (R429). -/
def noteBody (d : Dev) (v : Word64) : List Byte :=
  leBytes 8 v.toNat ++ leBytes 6 ((stampOf d (lead d) + 2 ^ 48 - (mget 0 d.ticks (lead d) - d.noteAt.getD 0) % 2 ^ 48) % 2 ^ 48) ++
    [BitVec.ofNat 8 (lead d), 0] ++ leBytes 8 (d.noteAt.getD 0 / 10 ^ 8) ++ leBytes 4 (noteIdx d + 1)

def noteWord (d : Dev) (v : Word64) : BitVec 256 := BitVec.ofNat 256 (leNat (noteBody d v ++ leBytes 4 (crc32c (noteBody d v))))

theorem noteWord_value (d : Dev) (v : Word64) : (noteWord d v).toNat % 2 ^ 64 = v.toNat := by
  unfold noteWord
  have parts : ∃ rest, noteBody d v ++ leBytes 4 (crc32c (noteBody d v)) = leBytes 8 v.toNat ++ rest :=
    ⟨_, by rw [noteBody, List.append_assoc, List.append_assoc, List.append_assoc, List.append_assoc]⟩
  obtain ⟨rest, parts⟩ := parts
  rw [parts]
  exact leNat_first8 v rest

/-- The device with a note in the region that its index names. -/
def noteKept (d : Dev) (v : Word64) : Dev :=
  count (setF { d with note := none, notes := d.notes ++ [noteWord d v] } lifePg LIFE.LIFE_STAT_NOTE_IDX (noteIdx d + 1)) lifePg LIFE.NOTES 1

theorem noteDurable_of_note {v : Word64} (waits : d.note = some v) (room : d.notes.length < noteCap) :
    noteDurable d = if (noteIdx d + 1 ≤ noteCap || (noteIdx d + 1) % 8192 != 1) = true then noteKept d v
      else setF (count (noteKept d v) flshPg FLSH.ERASES 1) flshPg FLSH.FLSH_STAT_WEAR
        (flashWear (noteKept d v).erases (noteIdx d + 1)) := by
  unfold noteDurable
  rw [waits]
  dsimp only
  have fits : ¬ d.notes.length ≥ noteCap := by omega
  simp only [if_neg fits]
  unfold noteKept noteWord noteBody
  rfl

theorem getF_noteKept (d : Dev) (v : Word64) :
    getF (noteKept d v) lifePg LIFE.LIFE_STAT_NOTE_IDX = (getF d lifePg LIFE.LIFE_STAT_NOTE_IDX + 1) % 2 ^ 32 :=
  (getF_setF_other _ _ _ _ _ _ (by decide)).trans (getF_setF_self _ _ _ _ (by decide))

theorem noteDurable_writes {v : Word64} (waits : d.note = some v) (room : d.notes.length < noteCap) : ∃ r,
    (noteDurable d).note = none ∧ (noteDurable d).notes = d.notes ++ [r] ∧ r.toNat % 2 ^ 64 = v.toNat ∧
      getF (noteDurable d) lifePg LIFE.LIFE_STAT_NOTE_IDX = (getF d lifePg LIFE.LIFE_STAT_NOTE_IDX + 1) % 2 ^ 32 := by
  rw [noteDurable_of_note waits room]
  split
  · exact ⟨noteWord d v, rfl, rfl, noteWord_value d v, getF_noteKept d v⟩
  · exact ⟨noteWord d v, rfl, rfl, noteWord_value d v, (getF_setF_page (by decide) (by decide) (by decide)).trans
      ((getF_count_page (by decide) (by decide) (by decide)).trans (getF_noteKept d v))⟩

/-- The device with a signed report counted and no report waiting. -/
def reportCut (d : Dev) : Dev :=
  setF (count (count { d with freeN := d.freeN + 1, report := none } rsaPg RSA.SIGN_ATTEST 1) secPg SEC.SIGNATURES 1) secPg SEC.ATT_STAT_BUSY 0

theorem reportSigned_of_cut {bs : List Byte} (waits : d.report = some bs) (signs : canSign d false = true) (idle : d.batches = [])
    (down0 : portUp d 0 = false) (down1 : portUp d 1 = false) :
    reportSigned d = setF (reportCut d) secPg SEC.ATT_STAT_STATUS stLink := by
  have down : ¬ (portUp (reportCut d) 0 || portUp (reportCut d) 1) = true := by
    rw [show portUp (reportCut d) 0 = portUp d 0 from rfl, show portUp (reportCut d) 1 = portUp d 1 from rfl, down0, down1]
    exact Bool.false_ne_true
  unfold reportSigned
  rw [waits]
  dsimp only
  rw [if_neg (by simp [signs, idle])]
  exact if_neg down

theorem getF_reportCut (d : Dev) : getF (setF (reportCut d) secPg SEC.ATT_STAT_STATUS stLink) secPg SEC.ATT_STAT_BUSY = 0 ∧
    getF (setF (reportCut d) secPg SEC.ATT_STAT_STATUS stLink) secPg SEC.ATT_STAT_STATUS = stLink :=
  ⟨(getF_setF_off _ _ _ _ _ (by decide) (by decide) (by decide)).trans (getF_setF_self _ _ _ _ (by decide)),
    getF_setF_self _ _ _ _ (by decide)⟩

end

/-- Settles O58: the engine's work in order — a batch closed, a root signed, a reseed, a note, a report — each in its branch. -/
theorem receiptsAct : Obligations.ReceiptsAct := by
  intro s k health hr
  refine ⟨fun some_ => ?_, fun b rest oldest signs room => ?_,
    fun b rest oldest fresh => exec_next hr rfl (batchWaits_of_fresh oldest fresh), fun healthy => ?_,
    fun failing => exec_next hr rfl (rngReseed_of_failing failing), fun v waits room => ?_,
    fun bs waits signs idle down0 down1 => 
      ⟨_, exec_next hr rfl (reportSigned_of_cut waits signs idle down0 down1), rfl, getF_reportCut s.dev⟩⟩
  · obtain ⟨b, closed⟩ := closeBatch_of_open some_
    exact ⟨_, b, exec_next hr rfl rfl, closed⟩
  · obtain ⟨sig, x, ends, rest⟩ := rootSigned_of_oldest oldest signs room
    exact ⟨sig, x, exec_next hr rfl ends, rest⟩
  · subst healthy
    exact exec_next hr rfl (rngReseed_of_healthy k)
  · obtain ⟨r, kept⟩ := noteDurable_writes waits room
    exact ⟨_, r, exec_next hr rfl rfl, kept⟩

end Sys2Proof.Machine
end

section
/-!
PROOFS. The SMBus target and the JTAG port (chapter 17).
-/
namespace Sys2Proof.Machine

/-- A command that acts in reset too. -/
theorem exec_on {i : Instr} {s : State} {f : Dev → Dev} {e : Dev} (run : exec i s = on s f) (h : f s.dev = e) :
    exec i s = .next (s.after e) := by rw [run, on_next, h]

section
variable {d : Dev} {pg off : Nat}

/-! ## Reads through the sideband (R301, R476, R479) -/

theorem ctlRead_of_page {t : PageType} (page : pageTypeOf pg = some t) : ctlRead pg off d = (lowerRemain pg off d, stOk, pageValue d t pg off) := by
  unfold ctlRead
  rw [page]

theorem sideRead_of_open {src : Nat} {t : PageType} (there : ctlReserved pg off = false) (lead_ : served d = true)
    (page : pageTypeOf pg = some t) : sideRead src pg off false d = (lowerRemain pg off d, stOk, pageValue d t pg off) := by
  refine (if_neg (by simp [there])).trans ((if_neg (by decide)).trans ((if_neg (by simp [lead_])).trans ?_))
  exact ctlRead_of_page page

theorem sideRead_of_shut {src : Nat} (there : ctlReserved pg off = false) : sideRead src pg off true d = (d, stMalformed, 0) :=
  (if_neg (by simp [there])).trans (if_pos rfl)

/-! ## The SMBus target (R475, R476) -/

/-- A transaction of a target without its address does nothing. -/
theorem smbBus_of_off (none_ : getF d smbPg SMB.SMB_STAT_ADDR = 0) (f : Dev → Dev) : smbBus f d = d := if_neg (by simp [smbOn, none_])

theorem smbBus_of_on (addr : getF d smbPg SMB.SMB_STAT_ADDR ≠ 0) (f : Dev → Dev) : smbBus f d = f d := if_pos (by simp [smbOn, addr])

theorem smbSetAddr_of_open {t : PageType} (lead_ : served d = true) (there : ctlReserved pg off = false) (clear : smbShut pg off = false)
    (page : pageTypeOf pg = some t) : smbSetAddr pg off true d =
      count { lowerRemain pg off d with smb := some (stOk, pageValue d t pg off) } smbPg SMB.SMB_READS 1 := by
  unfold smbSetAddr
  rw [clear, sideRead_of_open there lead_ page]
  rfl

theorem smbSetAddr_of_shut (there : ctlReserved pg off = false) (shut : smbShut pg off = true) :
    smbSetAddr pg off true d = count { d with smb := some (stMalformed, 0) } smbPg SMB.SMB_REFUSED 1 := by
  unfold smbSetAddr
  rw [shut, sideRead_of_shut there]
  rfl

theorem smbRead_of_ok {v : Word64} (held : d.smb = some (stOk, v)) : smbRead true d = d := by
  have answer : (smbAnswer d).1 = stOk := by rw [smbAnswer, held]; rfl
  exact (if_neg (by decide)).trans (if_pos (beq_iff_eq.mpr answer))

theorem smbRead_of_refused {st : Nat} {v : Word64} (held : d.smb = some (st, v)) (refused : st ≠ stOk) :
    smbRead true d = count d smbPg SMB.SMB_REFUSED 1 := by
  have answer : (smbAnswer d).1 = st := by rw [smbAnswer, held]; rfl
  exact (if_neg (by decide)).trans (if_neg (fun eq => refused (answer.symm.trans (beq_iff_eq.mp eq))))

/-! ## The JTAG port (R478, R479) -/

theorem dieSel_of_locked {sel : Nat} (locked : jtagLocked d = true) : dieSel sel d = jtagLoad 0x10 0 false d := if_pos locked

theorem jtagPageRead_of_locked (locked : jtagLocked d = true) : jtagPageRead pg off d = jtagLoad 0x11 0 false d := if_pos locked

theorem standAlone_of_locked {b : Bool} (locked : jtagLocked d = true) : standAlone b d = jtagLoad 0x12 0 false d := if_pos locked

theorem dieSel_of_open {sel : Nat} (clear : jtagLocked d = false) : ∃ x, dieSel sel d = x ∧
    x.jtag = { d.jtag with ir := 0x10, dr := d.jtag.sel, drive := false, sel := sel } :=
  ⟨_, if_neg (by simp [clear]), rfl⟩

/-- The page of the selected die and every other page read the same way while a lead serves. -/
theorem jtagPageRead_of_open {t : PageType} (clear : jtagLocked d = false) (lead_ : served d = true) (there : ctlReserved pg off = false)
    (page : pageTypeOf pg = some t) : jtagPageRead pg off d =
      count (jtagLoad 0x11 ((pageValue d t pg off).toNat * 2 ^ 32) false (lowerRemain pg off d)) jtagPg JTAG.PAGE_READS 1 := by
  unfold jtagPageRead
  rw [if_neg (by simp [clear]), ctlRead_of_page page, sideRead_of_open there lead_ page]
  extract_lets own
  rw [ite_self]
  dsimp only
  rw [show stOk = 0 from rfl, Nat.zero_mul, Nat.zero_add]

theorem standAlone_of_clear (clear : jtagLocked d = false) : standAlone false d = jtagLoad 0x12 0 false d :=
  (if_neg (by simp [clear])).trans (if_neg (by simp))

theorem standAlone_of_die (clear : jtagLocked d = false) (die : d.jtag.sel < 8) :
    standAlone true d = enterAlone d.jtag.sel (jtagLoad 0x12 0 false d) := by
  have kept : (jtagLoad 0x12 0 false d).jtag.sel = d.jtag.sel := rfl
  refine (if_neg (by simp [clear])).trans ((if_pos ?_).trans (by rw [kept]))
  simpa [kept] using die

end

/-- Settles O60: the target by its address, PEC and page; each JTAG instruction by its register and the lock. -/
theorem sidebandActs : Obligations.SidebandActs := by
  intro s pg off j cells pins sel code
  refine ⟨fun none_ ok => ?_, fun addr => ?_, ⟨_, rfl, rfl⟩, ⟨_, rfl, rfl⟩, rfl, rfl, rfl, fun locked => ?_, fun clear => ?_⟩
  · exact ⟨exec_on rfl (smbBus_of_off none_ _), exec_on rfl (smbBus_of_off none_ _), exec_on rfl (smbBus_of_off none_ _),
      exec_on rfl (smbBus_of_off none_ _)⟩
  · have bus : ∀ {i : Instr} {f : Dev → Dev} {e : Dev}, exec i s = on s (smbBus f) → f s.dev = e → exec i s = .next (s.after e) :=
      fun run h => exec_on run ((smbBus_of_on addr _).trans h)
    exact ⟨fun t lead_ there open_ page => bus rfl (smbSetAddr_of_open lead_ there open_ page),
      fun there shut => bus rfl (smbSetAddr_of_shut there shut), bus rfl rfl, fun v held => bus rfl (smbRead_of_ok held),
      fun st v held refused => bus rfl (smbRead_of_refused held refused), bus rfl rfl, bus rfl rfl, bus rfl rfl, bus rfl rfl⟩
  · exact ⟨exec_on rfl (dieSel_of_locked locked), exec_on rfl (jtagPageRead_of_locked locked), exec_on rfl (standAlone_of_locked locked)⟩
  · refine ⟨?_, fun t lead_ there page => exec_on rfl (jtagPageRead_of_open clear lead_ there page),
      exec_on rfl (standAlone_of_clear clear), fun die => exec_on rfl (standAlone_of_die clear die)⟩
    obtain ⟨x, selects, port⟩ := dieSel_of_open (sel := sel.toNat) clear
    exact ⟨x, exec_on rfl selects, port⟩

end Sys2Proof.Machine
end
